-- ==== Sys2Proof/Word.lean ====
section
/-! DEFINITION. Words, bytes and the sparse maps in which the machine keeps everything it has many of. -/

namespace Sys2Proof

/-- One byte (00_scope.md R4: byte 0 of a structure is its least significant). -/
abbrev Byte := BitVec 8

/-- A byte string, lowest address first. -/
abbrev Bytes := List Byte

/-- A 32-bit word: a register lane, a P register, a BAR0 word. -/
abbrev Word := BitVec 32

/-- A sparse map: keys strictly rising, no entry equal to what an unlisted key reads as. -/
abbrev SMap (α : Type) := List (Nat × α)

end Sys2Proof
end

