-- ==== Sys2Proof/Syntax.lean ====
section
/-! DEFINITION. The commands of the block: one constructor of Instr for each row of spec/opcode_table.json, with the slot encodings (03, 04) and the packets (07 Table 7-4) that they carry as operands. -/

namespace Sys2Proof

/-! ## Slot operations (03_instructions_compute.md, 04_instructions_movement_sync.md) -/

/-- 03 Table 3-4. -/
structure MmaF where
  fa : BitVec 4
  fb : BitVec 4
  ed : BitVec 3
  pa : BitVec 4
  pb : BitVec 4
  nblk : BitVec 4
  inc : Bool
  oa : BitVec 12
  ob : BitVec 12
  deriving DecidableEq, Repr

/-- 03 Table 3-6. -/
structure MrdF where
  fo : BitVec 4
  es : BitVec 3
  pair : Bool
  rm : Bool
  dst : Bool
  clr : Bool
  pd : BitVec 4
  od : BitVec 12
  vd : BitVec 5
  sh : BitVec 8
  deriving DecidableEq, Repr

/-- 03 Table 3-5. -/
structure MclrF where
  ed : BitVec 3
  pair : Bool
  t : BitVec 10
  deriving DecidableEq, Repr

/-- 03 Table 3-9 (MST: `flag` is CLR) and Table 3-10 (MLD: `flag` is MODE). -/
structure TileF where
  e : BitVec 3
  p : BitVec 4
  o : BitVec 12
  flag : Bool
  deriving DecidableEq, Repr

/-- The M slot (03 Table 3-2). -/
inductive MOp where
  | nop
  | mma (f : MmaF)
  | mrd (f : MrdF)
  | mclr (f : MclrF)
  | mst (f : TileF)
  | mld (f : TileF)
  deriving DecidableEq, Repr

/-- 03 Table 3-13, form VM. -/
structure VmF where
  vr : BitVec 5
  p : BitVec 4
  o : BitVec 12
  str : BitVec 10
  deriving DecidableEq, Repr

/-- 03 Table 3-13, form VQ. -/
structure VqF where
  vr : BitVec 5
  fmt : BitVec 4
  pe : BitVec 4
  ps : BitVec 4
  oe : BitVec 10
  os : BitVec 10
  rm : Bool
  deriving DecidableEq, Repr

/-- 03 Table 3-13, form VR. -/
structure VrF where
  vd : BitVec 5
  va : BitVec 5
  vb : BitVec 5
  vc : BitVec 5
  fn : BitVec 4
  rm : Bool
  bb : Bool
  lane : BitVec 7
  fd : BitVec 3
  fbit : BitVec 5
  fw : Bool
  deriving DecidableEq, Repr

/-- 03 Table 3-13, form VI. -/
structure ViF where
  vd : BitVec 5
  va : BitVec 5
  fn : BitVec 4
  rm : Bool
  imm : BitVec 32
  deriving DecidableEq, Repr

/-- 03 Table 3-21. -/
structure VkF where
  vd : BitVec 5
  va : BitVec 5
  km1 : BitVec 4
  nm1 : BitVec 7
  fd : BitVec 3
  wnd : BitVec 2
  fw : Bool
  deriving DecidableEq, Repr

/-- The V slot (03 Table 3-12). -/
inductive VOp where
  | nop
  | vld (f : VmF)
  | vst (f : VmF)
  | vdq (f : VqF)
  | vqnt (f : VqF)
  | vfp (f : VrF)
  | vfpi (f : ViF)
  | vint (f : VrF)
  | vinti (f : ViF)
  | vcmp (f : VrF)
  | vsel (f : VrF)
  | vcvt (f : VrF)
  | vtr (f : VrF)
  | vexpd (f : VrF)
  | vred (f : VrF)
  | vtopk (f : VkF)
  deriving DecidableEq, Repr

/-- 04 Table 4-5. -/
structure CxfrF where
  cqn : BitVec 3
  p : BitVec 4
  o : BitVec 12
  wb : Bool
  deriving DecidableEq, Repr

/-- 04 Table 4-6 (CWAIT leaves `fd` and `fbit` zero). -/
structure CwaitF where
  qe : BitVec 3
  nm1 : BitVec 8
  fd : BitVec 3
  fbit : BitVec 5
  deriving DecidableEq, Repr

/-- 04 Table 4-7. -/
structure CpushF where
  cqn : BitVec 3
  qe : BitVec 3
  ep : BitVec 21
  nm1 : BitVec 8
  deriving DecidableEq, Repr

/-- 04 Table 4-9. -/
structure BopenF where
  idx : BitVec 4
  p : BitVec 4
  o : BitVec 12
  len : BitVec 17
  gen : BitVec 8
  src : BitVec 4
  qe : BitVec 3
  nen : Bool
  rd : Bool
  wr : Bool
  deriving DecidableEq, Repr

/-- 04 Table 4-10. -/
structure BcloseF where
  idx : BitVec 4
  qe : BitVec 3
  aen : Bool
  deriving DecidableEq, Repr

/-- The C slot (04 Table 4-4). -/
inductive COp where
  | nop
  | cxfr (f : CxfrF)
  | cwait (f : CwaitF)
  | ctest (f : CwaitF)
  | cpush (f : CpushF)
  | cstat (cqn : BitVec 3) (fd : BitVec 3)
  | cfence (mask : BitVec 8)
  | bopen (f : BopenF)
  | bclose (f : BcloseF)
  deriving DecidableEq, Repr

/-- 04 Table 4-13; with `r` set, P is bits [23:20] of `count`. -/
structure LoopF where
  ln : BitVec 2
  last : BitVec 13
  r : Bool
  count : BitVec 24
  deriving DecidableEq, Repr

/-- 04 Table 4-14, XCALL. -/
structure XcallF where
  p : BitVec 4
  o : BitVec 12
  nm1 : BitVec 10
  deriving DecidableEq, Repr

/-- 04 Table 4-15. -/
structure BrfF where
  fd : BitVec 3
  fbit : BitVec 5
  sense : Bool
  tgt : BitVec 13
  deriving DecidableEq, Repr

/-- 04 Table 4-16, PSET. -/
structure PsetF where
  pd : BitVec 4
  add : Bool
  imm : BitVec 32
  deriving DecidableEq, Repr

/-- 04 Table 4-16, PMOV. -/
structure PmovF where
  pd : BitVec 4
  ps : BitVec 4
  ls : BitVec 2
  ul : Bool
  scale : BitVec 16
  deriving DecidableEq, Repr

/-- 04 Table 4-17. -/
structure FsetF where
  fd : BitVec 3
  mode : BitVec 2
  imm : BitVec 32
  deriving DecidableEq, Repr

/-- 04 Table 4-18, RSEND. -/
structure RsendF where
  tag : BitVec 16
  p : BitVec 4
  o : BitVec 12
  kind : Bool
  deriving DecidableEq, Repr

/-- The S slot (04 Table 4-12). -/
inductive SOp where
  | nop
  | loop (f : LoopF)
  | call (tgt : BitVec 13)
  | ret
  | xcall (f : XcallF)
  | brf (f : BrfF)
  | pset (f : PsetF)
  | pmov (f : PmovF)
  | fset (f : FsetF)
  | moor (mid : BitVec 16)
  | bar (bid : BitVec 8) (hold : Bool)
  | rsend (f : RsendF)
  | rwait (tag : BitVec 16)
  | fin
  deriving DecidableEq, Repr

/-- A manifest step: four slots (02 R24, Table 2-2). -/
structure Step4 where
  m : MOp
  v : VOp
  c : COp
  s : SOp
  deriving DecidableEq, Repr

/-- A register of the data path (02 Table 2-1): a pointer, a loop counter, a vector register, an
E tile or a flag word. -/
inductive Reg where
  | p (r : BitVec 4)
  | l (r : BitVec 2)
  | v (r : BitVec 5)
  | e (r : BitVec 3)
  | f (r : BitVec 3)
  deriving DecidableEq, Repr

/-! ## Fabric packets (07 R157, Tables 7-3 to 7-6) -/

/-- A fabric packet: the header fields of Table 7-4, the payload bytes and the trailer, meaningful where TRL is
set. `unit` is the local index (R166) of the unit that DX, DY and DUNIT resolve to; a packet from
outside resolves anew. `xid` and `qst` are the model's own: what tells the transfers of a crane queue apart (06 R139), and the status of a
QDONE, for which Table 7-6 has no place (log entry 12). -/
structure Packet where
  cls : BitVec 2
  ty : BitVec 4
  trl : Bool
  vcx : Bool
  epoch : BitVec 2
  dst : BitVec 21
  src : BitVec 21
  len : BitVec 7
  dx : BitVec 7
  dy : BitVec 7
  dunit : BitVec 3
  ref : BitVec 48
  xq : BitVec 3
  first : Bool
  payload : Bytes
  unit : Nat
  trailer : BitVec 64 := 0
  xid : Nat := 0
  qst : BitVec 8 := 0
  deriving DecidableEq, Repr

/-! ## What an event brings from outside -/

/-- What an error code finds in a word or a block (06 R132 R133, 08 R190 R191). -/
inductive Finding where
  | good
  | corrected
  | uncorrectable
  deriving DecidableEq, Repr

/-- What the code of a 64-byte block of memory holds (08 R190 R191): nothing, an error that it corrects, one that it only
detects, or one of a row that a rewrite leaves bad until soft post-package repair. -/
inductive BlockErr where
  | good
  | ce
  | ue
  | stuck
  deriving DecidableEq, Repr

/-- An error that has arisen in a memory: the memory, the block of 64 bytes, what its code holds now. -/
structure MemErr where
  m : Nat
  block : Nat
  err : BlockErr
  deriving DecidableEq, Repr

/-- What IDENT carries from the peer (11 Table 11-3). -/
structure PeerId where
  panel : BitVec 8
  port : BitVec 6
  gateway : Bool
  session : BitVec 32
  lastFseq : BitVec 32
  deriving DecidableEq, Repr

/-- What a training state of a port found (11 R272 R273 R274): the peer seen, stored
equalisation accepted, the lanes good at both ends, the peer's identity. -/
structure TrainObs where
  ok : Bool
  stored : Bool
  lanes : BitVec 16
  peer : PeerId
  deriving DecidableEq, Repr

/-- A slot of a port frame (11 Table 11-1): KIND (0 idle, 1 head, 2 body), virtual channel and last mark, the header in a head's side
field, the trailer in that of a last slot, and up to 256 bytes of payload. -/
structure FrameSlot where
  kind : BitVec 2 := 0
  vc : BitVec 2 := 0
  last : Bool := false
  hdr : Option Packet := none
  trailer : BitVec 64 := 0
  data : Bytes := []
  deriving DecidableEq, Repr

/-- The data field of a port frame without FCRC (11 Table 11-1); slots beyond the list are idle. -/
structure PortFrame where
  slots : List FrameSlot
  fseq : BitVec 32
  ackseq : BitVec 32
  ackValid : Bool
  nak : Bool
  credit : List Nat
  deriving DecidableEq, Repr

/-- The PT1000 readings of 12 R312 in units of 0.01 degree C, and the flowmeter's pulses in a second. -/
structure CoolantObs where
  inA : Int
  inB : Int
  outA : Int
  outB : Int
  pulses : Nat
  deriving DecidableEq, Repr

/-- A finding of a bring-up stage (14 Table 14-3) and its location (Table 14-2 LOC). -/
structure StageFinding where
  code : BitVec 8
  loc : BitVec 16
  deriving DecidableEq, Repr

/-- What stage S4 found at an open site (11 R288): the sideband answered, negotiated modules and rate
code, the DVSEC and admission block were found, the identity in the DVSEC, the admission descriptor, and
whether the mainband trained. -/
structure SiteObs where
  site : Nat
  sideband : Bool
  modules : Nat
  rate : Nat
  block : Bool
  vendor : BitVec 16
  part : BitVec 16
  descriptor : Bytes
  mainband : Bool
  deriving DecidableEq, Repr

/-- What a die gives the lighthouse in S3 (11 R286, 14 R356): the strap word of the site where it stands, its three samples of the strap bits, and
its fuse record. -/
structure DieObs where
  site : BitVec 12
  samples : List (BitVec 12)
  record : Bytes
  deriving DecidableEq, Repr

/-- How the PCIe link has trained (10 Table 10-1): lanes, rate in GT/s, and whether the link partner has Flit Mode. -/
structure PcieTrain where
  width : Nat
  rate : Nat
  flit : Bool
  deriving DecidableEq, Repr

/-- What a bring-up stage found beside its findings: the open sites of S4, the dies of S3, the wire groups or lanes that fail the tests of S4 by link,
the strap words that the far ends of links give in S4 where they are not the expected ones, and how the PCIe link trained. -/
structure StageObs where
  sites : List SiteObs := []
  dies : List DieObs := []
  wires : List (Nat × Nat) := []
  words : List (Nat × BitVec 12) := []
  pcie : Option PcieTrain := none
  deriving DecidableEq, Repr

/-- A configuration request (10 R237): a read of the identity, a write of Max_Payload_Size or Max_Read_Request_Size by its code, of the
power state (D3hot or D0), or another one. -/
inductive CfgReq where
  | identity
  | payload (code : BitVec 3)
  | readRequest (code : BitVec 3)
  | power (d3hot : Bool)
  | other
  deriving DecidableEq, Repr

/-- An authenticated request to the cryptographic module (14 R368): the nonce it uses, the
operator key that signs it, the signed request and the signature. -/
structure AuthReq where
  role : Bool
  nonce : Bytes
  key : Bytes
  body : Bytes
  sig : Bytes
  deriving DecidableEq, Repr

/-- Who read an uncorrectable Tier S word (06 Table 6-3): an operation of the M or V slot of a
step, the transfer at the head of a crane queue, the k-th waiting contribution, a remote read,
the patrol. -/
inductive UeReader where
  | manifest (v : Bool) (step : BitVec 13)
  | crane (q : BitVec 3)
  | rsend (k : Nat)
  | remote
  | patrol
  deriving DecidableEq, Repr

/-- Why a port link loss begins (11 R275). -/
inductive LossReason where
  | signal
  | replayLimit
  | groupOff
  deriving DecidableEq, Repr

/-! ## The commands -/

/-- One constructor for each row of spec/opcode_table.json. `c` is a core, `r` a router (both
72y + x), `m` a memory engine (0-71 quay, 72-79 bulk quay), `b` a basin, `p` a port, `mb` a
mailbox, `vid` a voyage, `pid` a partition, `sid` a segment, `rsid` a replica set, `bus` a
management bus (0 MGMT_A, 1 MGMT_B). The last three take no operand: a compiled constructor
beyond the 244th can hold none. -/
inductive Instr where
  -- core steps (02, 03)
  | stepIssue (c : Nat)
  | operationResultWrite (c : Nat) (k : Nat)
  | mnop (c : Nat)
  | mma (c : Nat) (f : MmaF)
  | mrd (c : Nat) (f : MrdF)
  | mclr (c : Nat) (f : MclrF)
  | mst (c : Nat) (f : TileF)
  | mld (c : Nat) (f : TileF)
  | vnop (c : Nat)
  | vld (c : Nat) (f : VmF)
  | vst (c : Nat) (f : VmF)
  | vdq (c : Nat) (f : VqF)
  | vqnt (c : Nat) (f : VqF)
  | vfp (c : Nat) (f : VrF)
  | vfpi (c : Nat) (f : ViF)
  | vint (c : Nat) (f : VrF)
  | vinti (c : Nat) (f : ViF)
  | vcmp (c : Nat) (f : VrF)
  | vsel (c : Nat) (f : VrF)
  | vcvt (c : Nat) (f : VrF)
  | vtr (c : Nat) (f : VrF)
  | vexpd (c : Nat) (f : VrF)
  | vred (c : Nat) (f : VrF)
  | vtopk (c : Nat) (f : VkF)
  -- crane slot (04)
  | cnop (c : Nat)
  | cxfr (c : Nat) (f : CxfrF)
  | cwait (c : Nat) (f : CwaitF)
  | waitLong (c : Nat)
  | ctest (c : Nat) (f : CwaitF)
  | cpush (c : Nat) (f : CpushF)
  | cstat (c : Nat) (cqn : BitVec 3) (fd : BitVec 3)
  | cfence (c : Nat) (mask : BitVec 8)
  | bopen (c : Nat) (f : BopenF)
  | bclose (c : Nat) (f : BcloseF)
  | berthCloseAck (c : Nat) (idx : BitVec 4)
  -- sequence slot (04)
  | snop (c : Nat)
  | loop (c : Nat) (f : LoopF)
  | call (c : Nat) (tgt : BitVec 13)
  | ret (c : Nat)
  | xcall (c : Nat) (f : XcallF)
  | brf (c : Nat) (f : BrfF)
  | pset (c : Nat) (f : PsetF)
  | pmov (c : Nat) (f : PmovF)
  | fset (c : Nat) (f : FsetF)
  | moor (c : Nat) (mid : BitVec 16)
  | moorJoin (pid : Nat)
  | bar (c : Nat) (bid : BitVec 8) (hold : Bool)
  | barrierRelease (pid : Nat)
  | rsend (c : Nat) (f : RsendF)
  | contribInject (c : Nat) (k : Nat)
  | rwait (c : Nat) (tag : BitVec 16)
  | fin (c : Nat)
  | hold (c : Nat)
  | release (c : Nat)
  | tokenArrival (c : Nat)
  -- crane, berths, Tier S (04, 06)
  | cranePacketInject (c : Nat)
  | transferComplete (c : Nat) (q : BitVec 3)
  | berthPacketArrival (c : Nat)
  | berthPacketLanding (c : Nat)
  | berthReadServe (c : Nat)
  | readResponseLanding (c : Nat)
  | spadUe (c : Nat) (addr : Nat) (by_ : UeReader)
  | spadCorrectionWriteback (c : Nat) (found : Option Nat)
  | spadPatrol (c : Nat) (bank : BitVec 5) (found : Finding)
  -- fabric (07)
  | flitForward (r : Nat) (out : Nat)
  | packetEject (r : Nat)
  | portPacketIngress (p : Nat) (pkt : Packet) (flits : Nat)
  | trailerErr (r : Nat) (k : Nat) (flitUe : Bool)
  | nakReceived (c : Nat)
  | lookupFill (c : Nat) (q : BitVec 3)
  | segLookupFill (c : Nat) (q : BitVec 3)
  | routerMerge (r : Nat) (tag : BitVec 16)
  | reductionLanding (u : Nat) (tag : BitVec 16)
  | tagCredit (u : Nat) (tag : BitVec 16)
  | detourProgrammed (b : Nat)
  | dtabRepublish
  | ettSwapTick
  | ettDrainCollect
  | swapTimeout
  | ettCopyDone
  -- quay engines and memory (08)
  | qcmdReceive (m : Nat)
  | quayEntryStart (m : Nat)
  | quayEntryEnd (m : Nat) (k : Nat)
  | qnop (m : Nat) (k : Nat)
  | gather (m : Nat) (k : Nat)
  | scatter (m : Nat) (k : Nat)
  | stream (m : Nat) (k : Nat)
  | kvAppend (m : Nat) (k : Nat)
  | attn (m : Nat) (k : Nat)
  | opt (m : Nat) (k : Nat)
  | migrate (m : Nat) (k : Nat)
  | copy (m : Nat) (k : Nat)
  | scrub (m : Nat) (k : Nat)
  | check (m : Nat) (k : Nat)
  | memoryAccess (m : Nat) (errs : List MemErr)
  | refresh (m : Nat) (row : Nat)
  | stackTempRead (m : Nat) (temp : Int)
  | memoryPatrol (m : Nat) (errs : List MemErr)
  | replicaAudit (rsid : Nat)
  | thirdCopyArrival (rsid : Nat) (block : Nat)
  | thirdCopyTimeout (rsid : Nat) (block : Nat)
  -- segments and pre-emption (09, 06)
  | invalAck (sid : Nat) (u : Nat)
  | segReady (sid : Nat)
  | faultResolve (sid : Nat)
  | preemptDeadline (vid : Nat)
  | hardSavePhaseEnd (vid : Nat)
  | saveParkDone (vid : Nat)
  | coreScrub (c : Nat)
  | scrubComplete (pid : Nat)
  | scrubTimeout (c : Nat)
  | voyageComplete (vid : Nat)
  -- mailboxes (10)
  | mailboxSubmit (mb : Nat) (off : Nat) (data : Bytes)
  | mailboxAccept (mb : Nat)
  | messageTimeout (mb : Nat)
  | getInfo (mb : Nat)
  | getLog (mb : Nat)
  | latencyTolerance (mb : Nat)
  | setPanelId (mb : Nat)
  | portTransit (mb : Nat)
  | getDtab (mb : Nat)
  | getHealth (mb : Nat)
  | ettWrite (mb : Nat)
  | ettSwap (mb : Nat)
  | segCreate (mb : Nat)
  | segRelease (mb : Nat)
  | segMove (mb : Nat)
  | segLoaded (mb : Nat)
  | windowSet (mb : Nat)
  | replicaCreate (mb : Nat)
  | replicaLoad (mb : Nat)
  | replicaExport (mb : Nat)
  | replicaRelease (mb : Nat)
  | partitionCreate (mb : Nat)
  | partitionRelease (mb : Nat)
  | voyageLoad (mb : Nat)
  | voyageLaunch (mb : Nat)
  | preempt (mb : Nat)
  | resume (mb : Nat)
  | kill (mb : Nat)
  | voyageStats (mb : Nat)
  -- host registers, interrupts, BAR2, idle states (10, 00)
  | evtRdWrite (v : BitVec 32)
  | hmTideRead (high : Bool)
  | registerWrite (off : Nat) (width : Nat) (v : BitVec 64)
  | rcRead (off : Nat) (width : Nat)
  | irqRearm (v : BitVec 64)
  | msixSend
  | msixUnmask
  | bar2Access (off : Nat) (len : Nat) (write : Bool) (data : Bytes)
  | hostwinFail (c : Nat) (q : BitVec 3)
  | perstN (asserted : Bool) (link : PcieTrain)
  | idleEntry
  | idleWake
  | healthFold
  -- ports and dies (11, 15)
  | portTrainStart (p : Nat)
  | portTrainStageDone (p : Nat) (obs : TrainObs)
  | portFrameReceive (p : Nat) (f : PortFrame) (fcrc : BitVec 32) (errors : List Nat)
  | portFrameSend (p : Nat)
  | laneBad (p : Nat) (lane : BitVec 4) (byCorrections : Bool)
  | widthChangeDone (p : Nat)
  | linkLoss (p : Nat) (why : LossReason)
  | linkLossTimeout (p : Nat)
  | retrain (p : Nat)
  | disable (p : Nat) (on : Bool)
  | forgetEq (p : Nat)
  | acceptPeer (p : Nat)
  | portWake (p : Nat)
  | cablePresence (p : Nat) (present : Bool)
  | d2dRetry (link : Nat) (good : Bool) (badWires : Nat)
  | partnerPacket (site : Nat) (pkt : Packet)
  | partnerLinkDown (site : Nat)
  -- power, clocks, heat (12)
  | inputVoltageChange (mv : Nat)
  | convFail (quadrant : Nat)
  | phaseFail (b : Nat) (die : Nat)
  | droop (b : Nat) (absorbed : Bool) (stretched : Nat)
  | stretchSustained (b : Nat)
  | basinShort (b : Nat)
  | refLost (isB : Bool)
  | refRestored (isB : Bool)
  | holdover
  | pllUnlock (b : Nat)
  | masterPllUnlock
  | pwrOpReqWrite (v : BitVec 32)
  | opEvaluate (powerW : Nat) (overBasins : List Nat) (domainMw : List Nat)
  | opChangeHold
  | opChanged
  | stormEntry
  | sensorSample (spot : Nat) (ring : Bool) (temp : Int)
  | thermalReading
  | coolantRead (o : CoolantObs)
  | rthUpdate
  | capRecompute
  | flowAbsent
  | emergencyComputeOff
  | emergencyClear
  -- recovery (13)
  | coreFailed (c : Nat)
  | dieFailed (row : Nat) (ld : Nat)
  | replay (vid : Nat) (cause : BitVec 8)
  | stackLost (m : Nat)
  | replaced (vid : Nat) (b : Nat)
  | capacityLost (vid : Nat) (b : Nat)
  | segTimeout (vid : Nat)
  | partResetFail (pid : Nat)
  | pairSwap (pair : Nat)
  | hmHang
  | hmRestarted (tablesGood : Bool)
  | fullDeviceReset
  -- bring-up and security (14, 15)
  | powerUp
  | bringupStageEnd (found : List StageFinding) (obs : StageObs)
  | zeroizeN
  | zeroise (a : AuthReq)
  | selftestPeriodic (pass : Bool)
  | selftestOnDemand (pass : Bool)
  | entropyFail
  | authFail (a : AuthReq)
  | authSuspendEnd
  | getNonce (bus : Nat)
  | commitSvn (a : AuthReq) (harbour : Bool)
  | keyRevoke (a : AuthReq) (purpose : BitVec 2)
  | recipientSet (a : AuthReq)
  | dumpKeyExport (a : AuthReq)
  | kemExchange (bus : Nat) (a : AuthReq)
  | ideKmQuery (bus : Nat)
  | keyProg (bus : Nat) (keySet : Bool) (sub : BitVec 2) (rx : Bool) (key : Bytes)
  | kSetGo (bus : Nat) (keySet : Bool)
  | kSetStop (bus : Nat)
  | getMeasurements (bus : Nat)
  | challenge (bus : Nat) (nonce : Bytes)
  | getCertificate (bus : Nat)
  | endSession (bus : Nat)
  | requestUpdate (bus : Nat)
  | verifyComplete (bus : Nat)
  | activateFirmware (bus : Nat)
  | logRead (bus : Nat) (first : Nat) (count : Nat)
  | dumpRead (bus : Nat) (k : Nat)
  | topologyRead (bus : Nat)
  | sensorDetail (bus : Nat)
  | getSensorReading (bus : Nat) (sensor : Nat)
  | trainRetry (p : Nat)
  | s2Retry (mv : Nat)
  | mainbandRetrained (site : Nat)
  | laneRepair (site : Nat)
  | updateComponent (bus : Nat) (cls : BitVec 16) (off : Nat) (data : Bytes)
  | setEndpointId (bus : Nat) (eid : Byte)
  | keyManagement (a : AuthReq) (user : Bool) (slot : BitVec 2) (key : Bytes)
  | drbgReseed
  | pcieLinkDown (link : PcieTrain)
  | configurationRequest (req : CfgReq)
  deriving DecidableEq, Repr

end Sys2Proof
end

