-- ==== Sys2Proof/Machine/State.lean ====
section
/-! DEFINITION. The state of the GXN-5184: everything the spec gives the machine, as plain data, and its state after reset. Sparse maps (SMap) list only what differs from the default of their reader in Machine/Ops.lean. Unit numbers are the local indices of 07 R166. -/

namespace Sys2Proof.Machine

open Sys2Proof

/-! ## A core (02 R23 Table 2-1 and 03, 04, 06) -/

/-- One EA96 element (02 R40): the sint(96) value and its side bits. -/
structure Elem where
  a : BitVec 96 := 0
  sat : Bool := false
  inv : Bool := false
  deriving DecidableEq, Repr

/-- An EA96 tile image (03 R63 Table 3-8); `rsvd` holds the reserved header bits. -/
structure TileImg where
  t : BitVec 16 := 0
  nx : Bool := false
  rsvd : Bool := false
  elems : SMap Elem := []
  deriving DecidableEq, Repr

/-- A loop-stack frame (02 R30, 04 R99 R101): a call frame keeps its return step in `start`. -/
structure Frame where
  isLoop : Bool
  start : BitVec 13
  last : BitVec 13
  ln : BitVec 2
  trips : BitVec 24
  deriving DecidableEq, Repr

/-- A Q endpoint (04 R82). `fresh` tokens of COUNT arrived in cc `freshAt` and are visible from the
next, `freshOut` is by how much OUT fell then. -/
structure QEnd where
  bound : Bool := false
  isOpen : Bool := false
  limit : BitVec 24 := 0
  count : BitVec 16 := 0
  out : BitVec 16 := 0
  fresh : BitVec 16 := 0
  freshOut : BitVec 16 := 0
  freshAt : Nat := 0
  deriving DecidableEq, Repr

/-- One register result of an issued operation (02 R27, 03 R53). -/
inductive Wr where
  | p (r : BitVec 4) (x : Word)
  | l (r : BitVec 2) (x : BitVec 24)
  | f (r : BitVec 3) (x : Word)
  | fbit (r : BitVec 3) (bit : BitVec 5) (x : Bool)
  | f7clear (mask : Word)
  | v (key : Nat) (x : Word)
  | e (key : Nat) (x : Elem)
  | t (tile : BitVec 3) (x : BitVec 10)
  | nx (tile : BitVec 3) (x : Bool)
  deriving DecidableEq, Repr

/-- A Tier S access (06 R126): the cc after the start of its stream in which it is due, the byte address
of its word, and the bytes it writes with their addresses, none for a read. -/
structure Acc where
  off : Nat
  word : Nat
  bytes : List (Nat × Byte) := []
  deriving DecidableEq, Repr

/-- A stream of accesses in ascending address order (06 R127): whether it reads, the accesses not yet
made, by how many cc they have shifted (06 R128), and the bytes read so far. -/
structure Stream where
  rd : Bool
  left : List Acc
  shift : Nat := 0
  seen : SMap Byte := []
  deriving DecidableEq, Repr

/-- An operation whose results depend on what its accesses read. -/
inductive LateOp where
  | m (o : MOp)
  | v (o : VOp)
  deriving DecidableEq, Repr

/-- Such an operation with the pointers and generator lanes as its issue found them (02 R27). -/
structure Late where
  op : LateOp
  p : SMap Word
  lfsr : SMap Word
  deriving DecidableEq, Repr

/-- An operation that has issued in cc `issued` (02 R27, 03 R53). Its Tier S accesses follow in
`streams`; its last result is due `lat` cc after its issue, later by the largest shift of its streams,
and its F7 events and health counts take effect then (02 R50). `regs` are the registers with a write
pending, `acc` marks an accumulation of the matrix unit (02 R28), `numeric` an operation that can
raise an event of Table 2-8, `stores` the bytes under its write entry (03 R56), `clash` that
BANK_CONFLICT has been raised for its step. -/
structure PendOp where
  slot : Nat
  step : BitVec 13
  issued : Nat
  lat : Nat
  numeric : Bool
  acc : Bool
  regs : List Reg
  writes : List Wr
  f7 : Word
  counts : List (Nat × Nat)
  late : Option Late
  streams : List Stream
  stores : Option (Nat × Nat)
  clash : Bool
  deriving DecidableEq, Repr

/-- A read entry of the hazards (03 R56): released at cc `release`, or, for a waiting RSEND (04 R108), once its
contribution is injected: `rsend` is that contribution's issue cc. -/
structure Hazard where
  lo : Nat
  hi : Nat
  release : Nat
  rsend : Option Nat
  deriving DecidableEq, Repr

/-- The mooring record of a core (04 R110). -/
structure MoorRec where
  p : SMap Word
  l : SMap (BitVec 24)
  stack : List Frame
  f7 : Word
  step : BitVec 13
  ordinal : BitVec 32
  mid : BitVec 16
  lastGen : SMap Byte
  hasLast : SMap Bool
  deriving DecidableEq, Repr

/-- Registers of the data path (02 Table 2-1) and the counters of 02 R51 and 06 R132. -/
structure CoreRegs where
  p : SMap Word := []
  l : SMap (BitVec 24) := []
  v : SMap Word := []
  e : SMap Elem := []
  tileT : SMap (BitVec 10) := []
  tileNx : SMap Bool := []
  f : SMap Word := []
  lfsr : SMap Word := []
  counters : SMap Word := []
  ceCount : Word := 0
  deriving DecidableEq, Repr

/-- The sequencer and the units it issues to (02 R26 to R32, 03 R53 R56 R62, 04 R110). -/
structure CoreSeq where
  mp : BitVec 13 := 0
  stack : List Frame := []
  manifest : SMap (BitVec 256) := []
  nextIssue : Nat := 0
  pend : List PendOp := []
  matBusy : Nat := 0
  readBusy : Nat := 0
  vecBusy : Nat := 0
  holds : List (BitVec 3 × Nat) := []
  haz : List Hazard := []
  /-- The bits of F7 that RWAITs have set since an FSET that is still pending, and the issue cc of the last
  RWAIT (02 R50). -/
  f7New : Word := 0
  f7At : Nat := 0
  ordinal : BitVec 32 := 0
  lastMid : BitVec 16 := 0
  moor : Option MoorRec := none
  deriving DecidableEq, Repr

/-- An entry of a crane queue (04 R83, 09 Table 9-7 CRANE): a taken descriptor (bytes 0 to 39)
or a CPUSH. `next` is the next packet index, `open_` the packets injected and not yet answered, `copies` those
packets as they were injected, for a resend (07 R161), `resends` the packets sent again, once for each time,
`done` the bytes landed, `ck` the check register, `ended` whether `status` is final. -/
structure CraneEntry where
  push : Bool
  step : BitVec 13
  addr : Nat
  issued : Nat
  desc : BitVec 320
  wb : Bool
  qe : BitVec 3
  ep : BitVec 21
  n : Nat
  translated : Bool
  ett : BitVec 64
  epoch : BitVec 2
  next : Nat
  open_ : List Nat
  copies : List (Nat × Packet)
  resends : List Nat
  done : Nat
  ck : BitVec 64
  ended : Bool
  status : Byte
  suspended : Bool
  faultTick : Nat
  deriving DecidableEq, Repr

/-- What the crane accesses Tier S for: a packet of a queue by its entry's issue cc and its number, the data of a
response by queue and PIDX, or a contribution by its issue cc. -/
inductive CrUse where
  | inject (q : BitVec 3) (issued next : Nat)
  | land (q : BitVec 3) (pidx : BitVec 10)
  | rsend (issued : Nat)
  deriving DecidableEq, Repr

/-- The accesses of a requester of CR accesses (06 R129), and the consecutive cc in which the first of
them has lost its bank to a manifest access (06 R130). -/
structure CrJob where
  io : Stream
  lost : Nat := 0
  deriving DecidableEq, Repr

/-- The CR accesses of a core (06 R129 to R131): the jobs of the berth port (the oldest slot), of the
reduction port (a tag's result) and of the crane, the cc until which an XCALL copy takes one access,
whether the crane was served before the berth port when both last shared, and the accesses of the cc that has ended,
by bank, word and whether they read. -/
structure CoreCr where
  berth : Option CrJob := none
  red : Option (BitVec 16 × CrJob) := none
  crane : Option (CrUse × CrJob) := none
  copyUntil : Nat := 0
  craneFirst : Bool := false
  made : List (Nat × Nat × Bool) := []
  deriving DecidableEq, Repr

/-- A crane queue's error record (04 R87 R94). -/
structure CErr where
  status : Byte := 0
  count : Byte := 0
  seq : BitVec 16 := 0
  deriving DecidableEq, Repr

/-- A segment translation (09 R221). -/
structure SegTr where
  tierB : Bool
  mem : Nat
  base : Nat
  deriving DecidableEq, Repr

/-- A token on its way into a Q endpoint (04 R82): from this core's own producers (`local_`) or
from another unit, with what an answer needs. -/
structure TokIn where
  qe : BitVec 3
  n : Nat
  local_ : Bool
  notify : Bool
  step : BitVec 13
  src : BitVec 21
  xq : BitVec 3
  pidx : BitVec 10
  deriving DecidableEq, Repr

/-- The crane (04 R83 to R88). -/
structure CoreCrane where
  queues : SMap (List CraneEntry) := []
  cerr : SMap CErr := []
  /-- The completions of the cc that is named, which a CSTAT in that cc does not see (04 R94). -/
  cerrNew : SMap (Nat × CErr) := []
  rr : BitVec 3 := 0
  segCache : List (Nat × SegTr) := []
  rsp : List Packet := []
  naks : List Packet := []
  deriving DecidableEq, Repr

/-- A berth record (06 Table 6-4). `acceptFrom` is the cc from which an opened berth accepts. -/
structure Berth where
  base : BitVec 23 := 0
  len : BitVec 23 := 0
  gen : Byte := 0
  lastGen : Byte := 0
  isOpen : Bool := false
  hasLast : Bool := false
  src : BitVec 4 := 0
  rd : Bool := false
  wr : Bool := false
  nen : Bool := false
  qe : BitVec 3 := 0
  acceptFrom : Nat := 0
  deriving DecidableEq, Repr

/-- A slot of the landing buffer (06 R131): an accepted packet, resolved to absolute addresses. -/
structure LandSlot where
  idx : BitVec 4
  addr : Nat
  pkt : Packet
  notify : Bool
  qe : BitVec 3
  deriving DecidableEq, Repr

/-- A close in its drain phase (06 R142, 04 R97), with the berth's record as it stood before. -/
structure Drain where
  idx : BitVec 4
  old : Berth
  aen : Bool
  qe : BitVec 3
  issued : Nat
  step : BitVec 13
  deriving DecidableEq, Repr

/-- The berth port (06). `refused` remembers the status of a refused transfer by its source, crane queue and
transfer (06 R139). -/
structure CoreBerths where
  recs : SMap Berth := []
  arrivals : List Packet := []
  slots : List LandSlot := []
  drains : List Drain := []
  refused : List (BitVec 21 × BitVec 3 × Nat × Byte) := []
  deriving DecidableEq, Repr

/-- A contribution of RSEND that has not been injected (04 R108, 09 Table 9-7 RSEND). -/
structure RSendRec where
  tag : BitVec 16
  kind : Bool
  addr : Nat
  issued : Nat
  step : BitVec 13
  deriving DecidableEq, Repr

/-- A reduction result that has landed and waits for its RWAIT, with the landing's events
(07 R179). -/
structure Landed where
  tag : BitVec 16
  f7 : Word
  counts : List (Nat × Nat)
  deriving DecidableEq, Repr

/-- What a core does (04 R112, 13 R327, 06 R148). -/
inductive RunState where
  | idle
  | running
  | stopped
  | halted
  | ended
  deriving DecidableEq, Repr

/-- Synchronisation (04 R82 R91 R106 to R112, 07 R180). -/
structure CoreSync where
  run : RunState := .idle
  q : SMap QEnd := []
  tokens : List TokIn := []
  holds : List Nat := []
  holdSent : Bool := false
  holdSince : Nat := 0
  /-- The step that waits at issue on a token, a result, a barrier or a mooring join. -/
  waiting : Option Step4 := none
  waitSince : Option Nat := none
  waitLong : Bool := false
  rsends : List RSendRec := []
  portBusy : Nat := 0
  sent : List (BitVec 16) := []
  round : List (BitVec 16) := []
  landed : List Landed := []
  /-- Tags whose round this destination has consumed and whose credit is not delivered (07 R180). -/
  credits : List (BitVec 16) := []
  deriving DecidableEq, Repr

/-- Identity, faults and upkeep of a core site (07 R166, 06 R132 to R148, 12 R294, 13). -/
structure CoreMisc where
  vid : BitVec 16 := 0xFFFF
  ident : Option (BitVec 21) := none
  seedXY : Option (Nat × Nat) := none
  failed : Bool := false
  fenced : Bool := false
  switchOff : Bool := false
  gated : Bool := true
  scrubbing : Bool := false
  /-- The cc of the Stop of its scrub. -/
  scrubFrom : Nat := 0
  patrol : SMap Nat := []
  writebacks : List Nat := []
  deriving DecidableEq, Repr

/-- A core. -/
structure Core where
  misc : CoreMisc := {}
  sync : CoreSync := {}
  regs : CoreRegs := {}
  seq : CoreSeq := {}
  crane : CoreCrane := {}
  berths : CoreBerths := {}
  cr : CoreCr := {}
  tierS : SMap Byte := []
  deriving DecidableEq, Repr

/-! ## A router (07) -/

/-- A packet at a router: its input, the fc since which its next flit waits, the flits that have left the router
or unit before (`came`), those of them that are or were in the input's channel (`got`; the others are in the crossing FIFO of the
link, or still with the unit that injects), those forwarded, its detour (0 none, 1 + y around a basin from row y, 73 along x;
07 R165), and its output with the detour from there, once it has one. A multicast packet has one entry for each of its
outputs (07 R163). -/
structure InPkt where
  inp : Nat
  pkt : Packet
  since : Nat
  came : Nat
  got : Nat
  sent : Nat
  detour : Nat
  hop : Option (Nat × Nat)
  deriving DecidableEq, Repr

/-- A flit in the FIFO of a crossing (05 R123): one of a channel of packets, or one of a tag's stream. -/
inductive CrossFlit where
  | pkt (ch : Nat) (detour : Bool)
  | red (tag vid : BitVec 16)
  deriving DecidableEq, Repr

/-- Acknowledgements of a multicast packet still to combine (07 R163): its sender, crane queue and
PIDX, the members that have not answered, and the lowest non-OK status so far. -/
structure AckJoin where
  src : BitVec 21
  xq : BitVec 3
  pidx : BitVec 10
  left : Nat
  status : Byte
  deriving DecidableEq, Repr

/-- Arbitration state of one output (07 R156). -/
structure OutArb where
  ctrlYield : Bool := false
  dataYield : Bool := false
  redRun : Nat := 0
  rr : Nat := 0
  deriving DecidableEq, Repr

/-- A reduction-table entry (07 R174): the inputs that bring a stream of the tag, and the output of the tree. -/
structure RtEntry where
  tag : BitVec 16
  vid : BitVec 16
  inputs : List Nat
  out : Nat
  deriving DecidableEq, Repr

/-- A stream of a tag at an input of a router (07 R175 R182): of its 50 flits those that have come, those that have entered
the REDUCE channel, and the number of the one that went into the tag's reserved slot. -/
structure RStream where
  tag : BitVec 16
  vid : BitVec 16
  inp : Nat
  round : Bool
  came : Nat
  flits : Nat
  resv : Option Nat
  img : TileImg
  deriving DecidableEq, Repr

/-- A merged stream on its way out of a router: flits merged, flits forwarded, output. -/
structure MergedOut where
  tag : BitVec 16
  vid : BitVec 16
  out : Nat
  round : Bool
  merged : Nat
  sent : Nat
  since : Nat
  img : TileImg
  deriving DecidableEq, Repr

/-- A router (07 R151 R155 R156 R165 R174, 13 R330 R337). Its inputs and outputs are 0 the local port, 1 the attachment
of a west or east die edge, 6 that of a north or south one, 2 west, 3 east, 4 north, 5 south. `fifos` holds what
waits in the crossing FIFOs of its mesh inputs, keyed 4 * input + class. -/
structure Router where
  pkts : List InPkt := []
  fifos : SMap (List CrossFlit) := []
  arb : SMap OutArb := []
  table : List RtEntry := []
  streams : List RStream := []
  outs : List MergedOut := []
  acks : List AckJoin := []
  shadow : Option MoorRec := none
  replace : List (Nat × Nat) := []
  deriving DecidableEq, Repr

/-! ## Quay engines (08) -/

/-- An entry queued or running on an engine (08 R198): what triggered it, its argument word and
payload, its status, whether its work is `done`, its next packet and the PIDX of those not
answered, and the segment on which it is suspended. Its number `xid`, with the epoch of its start, the one
translation of its destination (07 R168), and of an ATTN the end of its keys, the rows that are saturated and the
partial images (09 R224). -/
structure QRun where
  vid : BitVec 16
  idx : Nat
  root : Nat
  arg : BitVec 64
  payload : Bytes
  src : BitVec 21
  xq : BitVec 3
  pidx : BitVec 10
  command : Bool
  done : Bool
  status : Byte
  suspended : Bool
  sid : Nat
  faultTick : Nat
  next : Nat
  open_ : List (BitVec 10)
  buf : Option TileImg
  xid : Nat := 0
  epoch : BitVec 2 := 0
  ett : Option Nat := none
  hi : Nat := 0
  sat : List Nat := []
  imgs : List (BitVec 16 × TileImg) := []
  deriving DecidableEq, Repr

/-- A voyage's context on an engine (08 R196 R202 R205 R208). `entries` are the 64-byte entries
of Table 8-7; `optR` and `optStep` are r and STEP of R205; `advance` lists the replica sets whose
generation rises at the next join (R206). -/
structure QCtx where
  vid : BitVec 16
  entries : List (BitVec 512)
  lens : SMap Word
  optR : SMap Nat
  optStep : SMap Nat
  bufs : SMap TileImg
  landed : List Nat
  launchLeft : List Nat
  sent : List (BitVec 16)
  round : List (BitVec 16)
  credits : List (BitVec 16)
  advance : List Nat
  contribs : List RStream
  deriving DecidableEq, Repr

/-- A quay mooring record (08 R208). -/
structure QMoorRec where
  vid : BitVec 16
  lens : SMap Word
  optR : SMap Nat
  optStep : SMap Nat
  gens : List (Nat × BitVec 16)
  deriving DecidableEq, Repr

/-- A quay or bulk quay engine and its memory's upkeep (08). `hot` is the 16 ms interval of
R192, `settled` the end of the doubled rate of 12 R320. -/
structure Engine where
  ctxs : List QCtx := []
  cmds : List Packet := []
  queue : List QRun := []
  running : List QRun := []
  memIn : List Packet := []
  moors : List QMoorRec := []
  segCache : List (Nat × Nat × SegTr) := []
  patrol : Nat := 0
  refreshed : SMap Nat := []
  temp : Int := 0
  hot : Bool := false
  settled : Nat := 0
  /-- Milliseconds in which every row is refreshed; 16 at power-up. -/
  interval : Nat := 16
  selfRefresh : Bool := false
  lost : Bool := false
  ueSeen : List (Nat × Nat) := []
  nextPidx : BitVec 10 := 0
  repaired : List Nat := []
  /-- Entries started so far. -/
  starts : Nat := 0
  deriving DecidableEq, Repr

/-- Who asked for an operation: mailbox, message TYPE and SEQ, and the voyage it concerns. -/
structure Asker where
  mb : Nat
  ty : BitVec 16
  seq : Word
  vid : Option Nat
  deriving DecidableEq, Repr

/-! ## Segments and replica sets (08 R209, 09 R217) -/

/-- A move in progress (09 R222): units that have not answered INVAL_ACK, the target, the
message that asked and whether the data is copied. -/
structure SegMoveSt where
  waiting : List Nat
  tierB : Bool
  mem : Nat
  base : Nat
  toState : Nat
  prio : Byte
  home : Byte
  asker : Option Asker
  copied : Bool
  deriving DecidableEq, Repr

/-- A segment record (09 Table 9-1), with the EXCL flag of its creation and the release
accepted for it. -/
structure SegRec where
  st : Nat := 0
  tierB : Bool := false
  mem : Nat := 0
  gen : Byte := 0
  owner : BitVec 16 := 0xFFFF
  prio : Byte := 0
  home : Byte := 0
  base : Nat := 0
  len : Nat := 0
  rsid : BitVec 16 := 0xFFFF
  excl : Bool := false
  releasing : Bool := false
  readOnly : Bool := false
  promoted : Option Nat := none
  move : Option SegMoveSt := none
  resolving : Bool := false
  /-- A FAULT on it waits for the harbour master. -/
  faulted : Bool := false
  deriving DecidableEq, Repr

/-- A block suspect under 08 R213: its number counted through the phases, the tick by which the third copy
is due, or none once THIRD_COPY_FAIL has left it, the two copies that differ, and the fetch of the third copy: the bytes landed
of the block and its record, and the PIDX of the request under way. -/
structure Suspect where
  block : Nat
  deadline : Option Nat
  pair : List Nat := []
  got : Bytes := []
  asked : Option (BitVec 10) := none
  deriving DecidableEq, Repr

/-- A load of a replica set in progress (08 R215). -/
structure RepLoad where
  asker : Asker
  gen : BitVec 16
  srcKind : Nat
  win : Nat
  ep : BitVec 21
  off : Nat
  repair : Bool
  /-- Bytes landed of the phase, or of the block under repair, fetches of the block in progress, the bytes landed of that block and of
  its record at the source, and the PIDX of the request under way. -/
  pos : Nat
  tries : Nat
  got : Bytes := []
  asked : Option (BitVec 10)
  deriving DecidableEq, Repr

/-- A replica set (08 Table 8-11), with its export, load and suspect blocks. -/
structure RepSet where
  copies : Nat
  phases : Nat
  gen : BitVec 16
  dlen : Nat
  seg : List Nat
  srcEp : BitVec 21
  srcOff : Nat
  audit : Byte
  auditPos : Nat
  ready : Bool
  load : Option RepLoad
  exported : Bool
  cap : Nat
  suspects : List Suspect
  /-- Blocks of which no copy is intact (08 R212). -/
  lost : List Nat := []
  deriving DecidableEq, Repr

/-! ## Voyages (10, 09, 13) -/

/-- A CORE record of an image (10 Table 10-15): endpoint kinds and wait limits, and steps. -/
structure CoreImg where
  core : Nat
  entry : BitVec 16
  qbind : List (Bool × BitVec 24)
  steps : List (BitVec 256)
  deriving DecidableEq, Repr

/-- A QUAY record. -/
structure QuayImg where
  mem : Nat
  entries : List (BitVec 512)
  deriving DecidableEq, Repr

/-- A segment map entry (09 Table 9-3). -/
structure MapEnt where
  sid : BitVec 16
  gen : Byte
  rd : Bool
  wr : Bool
  boot : BitVec 16
  rsvd : Bool
  deriving DecidableEq, Repr

/-- A tag binding (07 Table 7-9). -/
structure Binding where
  tag : BitVec 16
  kind : Byte
  dtype : Byte
  da : Byte
  db : Byte
  t : BitVec 16
  daddr : BitVec 32
  ncon : BitVec 16
  cx0 : Byte
  cx1 : Byte
  cy0 : Byte
  cy1 : Byte
  qmask : BitVec 72
  bmask : Byte
  rsvd : Bool
  deriving DecidableEq, Repr

/-- A host window record (10 Table 10-6). -/
structure HostWin where
  iova : BitVec 64
  len : BitVec 64
  rd : Bool
  wr : Bool
  reqIde : Bool
  rsvd : Bool
  deriving DecidableEq, Repr

/-- A voyage image after its sections are read (10 R252 Table 10-14 Table 10-15). -/
structure Image where
  dtab : Word
  feat : BitVec 16
  cores : List CoreImg
  quays : List QuayImg
  segmap : List MapEnt
  tags : List Binding
  sources : List (Word × Word)
  wins : List HostWin
  reloc : List (Byte × Byte)
  deriving DecidableEq, Repr

/-- A requested pre-emption (09 R228): message, mode, escalation, deadline tick. -/
structure PreemptReq where
  asker : Option Asker
  hard : Bool
  esc : Bool
  deadline : Option Nat
  deriving DecidableEq, Repr

/-- What a save keeps of a voyage (09 R229 R233 R234): core images by logical core, router
captures (`streams` at inputs, `outs` half merged), engine contexts, queued and running entries (with whether they ran), quay
mooring records, the DTAB version, whether it is a step-boundary save, and the memories that hold its images. -/
structure SaveImg where
  hard : Bool
  dtab : Word
  basins : BitVec 24
  cores : List (Nat × Core)
  streams : List (Nat × RStream)
  outs : List (Nat × MergedOut)
  ctxs : List (Nat × QCtx)
  runs : List (Nat × Bool × QRun)
  moors : List (Nat × QMoorRec)
  stores : List Nat
  parked : Bool
  deriving DecidableEq, Repr

/-- A loaded voyage (10 R255 Table 10-16, R251; 13 R332 R339). -/
structure Voyage where
  pid : Nat
  st : Nat
  img : Image
  race : BitVec 16
  retain : Bool
  seed : BitVec 64
  stmo : Nat
  segStart : Nat
  segHeld : Bool
  launchTick : BitVec 64
  endTick : BitVec 64
  faults : Word
  faultTicks : BitVec 64
  holds : Word
  holdTicks : BitVec 64
  replays : BitVec 16
  preempts : BitVec 16
  ordinal : Word
  ordReplays : Nat
  ordTimeouts : Nat
  preempt : Option PreemptReq
  savePhase : Nat
  save : Option SaveImg
  heldRsid : Option Nat
  retained : List Nat
  killer : List Asker
  /-- Causes of Table 13-3 for which a replay is due. -/
  due : List (BitVec 8)
  /-- Dies (12 * row + logical column) of the cores that failed within the segment (13 R328). -/
  coreFails : List Nat
  health : SMap (BitVec 64)
  moved : List (Nat × Nat)
  /-- Core and row of the uncorrectable Tier S errors of the voyage (06 R133). -/
  ueRows : List (Nat × Nat)
  /-- The tide count at the Stop of a hard save (09 Table 9-7). -/
  stopTick : BitVec 64
  /-- The tick in which every core had ended and every quay manifest had finished (10 R257). -/
  doneTick : Option Nat
  deriving DecidableEq, Repr

/-- A partition (01 R15, 10 R250): its basins, its reserve basins, whether they are being scrubbed,
and whether it is released and only its scrub still holds the basins (06 R146). -/
structure Partition where
  basins : BitVec 24
  reserve : BitVec 24
  scrubbing : Bool
  releasing : Bool
  deriving DecidableEq, Repr

/-! ## Harbour master (10, 13) -/

/-- A message in progress in a mailbox (10 R246 to R250). -/
structure Msg where
  bytes : Bytes
  ty : BitVec 16
  seq : Word
  tick : Nat
  timeout : Option Nat
  begun : Bool
  /-- Its number in the order of acceptance (10 R259). -/
  ord : Nat
  deriving DecidableEq, Repr

/-- State of a mailbox (10 R246): 0 IDLE, 1 ACCEPTING, 2 IN_PROGRESS. -/
structure Mailbox where
  st : Nat := 0
  req : SMap Byte := []
  rep : SMap Byte := []
  msg : Option Msg := none
  deriving DecidableEq, Repr

/-- An event record (10 Table 10-17). -/
structure EvtRec where
  ty : BitVec 16
  vid : BitVec 16
  status : BitVec 16
  pid : Byte
  tick : BitVec 64
  arg0 : BitVec 64
  arg1 : BitVec 64
  deriving DecidableEq, Repr

/-- Idle-state bookkeeping (10 R260, 12 R319) and the latency tolerance. -/
structure IdleSt where
  tol : Option Word := none
  idleSince : Nat := 0
  state : Nat := 0
  deriving DecidableEq, Repr

/-- The PCIe link and the configuration that the host programs (10 R237 R261): lanes and rate in GT/s, 0 until the link has trained, Flit Mode, the codes of
Max_Payload_Size and Max_Read_Request_Size (128 B times a power of two), D3hot, the last LTR reported in ns, and the link's
power state: 0 L0, 1 ASPM L1, 2 L0p at x2 requested. -/
structure PcieSt where
  width : Nat := 0
  rate : Nat := 0
  flit : Bool := false
  payload : Nat := 0
  readRequest : Nat := 2
  d3hot : Bool := false
  ltrNs : Nat := 1000000
  linkPower : Nat := 0
  deriving DecidableEq, Repr

/-- The harbour master's tables and the host interface (10, 13 R345 R346). -/
structure Harbour where
  boxes : SMap Mailbox := []
  backlog : List EvtRec := []
  tideLatch : Option Word := none
  idle : IdleSt := {}
  pairs : Nat := 8
  sparePairs : Nat := 2
  hung : Option Nat := none
  restartedAt : Option Nat := none
  altImage : Bool := false
  healthTick : BitVec 64 := 0
  health : SMap (BitVec 64) := []
  condSince : Option Nat := none
  msixSent : Nat := 0
  /-- Messages accepted so far. -/
  accepts : Nat := 0
  pcie : PcieSt := {}
  winDisabled : List Nat := []
  deriving DecidableEq, Repr

/-! ## Fabric-wide state (07) -/

/-- The endpoint translation table and its swap (07 R167 R171), the die translation caches
(07 R168; key die * 2^21 + endpoint, value entry with the epoch), and the dark-basin detours. -/
structure FabricSt where
  bank0 : SMap (BitVec 64) := []
  bank1 : SMap (BitVec 64) := []
  caches : List (Nat × Nat × BitVec 2 × BitVec 64) := []
  swapper : Option Asker := none
  newPanel : Option (BitVec 8) := none
  swapTimedOut : Bool := false
  detours : List Nat := []
  linkWidth : SMap Nat := []
  linkRetries : SMap Nat := []
  linkBad : SMap Nat := []
  /-- The port through which a flow leaves (07 R169): SRC, DST and XQ, 8 where the spread takes no account of it. -/
  flows : List ((BitVec 21 × BitVec 21 × Nat) × Nat) := []
  /-- The distance table as it was published (07 R183). -/
  dtab : Bytes := []
  /-- The topology has changed since (05 R114). -/
  dtabDue : Bool := false
  /-- Packets that units other than cores must send again after a NAK, with their resends (R161). -/
  retry : List (Nat × Packet × Nat) := []
  deriving DecidableEq, Repr

/-- A frame that its sender holds for a replay (11 R269), with the packets that it carries slots of. -/
structure SentFrame where
  frame : PortFrame
  pkts : List Packet
  deriving DecidableEq, Repr

/-- A scale-out port (11 R267 to R277, 15 R381). `txSeq` and `rxSeq` are the FSEQ of the last frame
sent and of the last one received in order and intact, `rxGood` whether no replay is awaited,
`replay` the frames not acknowledged, `replays` the replays of its first frame, `replaying` the frames
still to send again, `outq` the packets that wait for a frame, `slotsSent` the slots of each channel's
first one already sent, `credits` and `freed` the slots by channel, `lossAt` the tick of a loss that
may still resume, `prevPeer` the last peer, `eq` whether equalisation values are stored,
`retryAt` the tick of the next try, `cable` its presence line. -/
structure Port where
  txSeq : Word := 0
  rxSeq : Word := 0
  rxGood : Bool := true
  replay : List SentFrame := []
  replays : Nat := 0
  replaying : Nat := 0
  outq : List Packet := []
  slotsSent : List Nat := [0, 0, 0, 0]
  /-- The slots of each channel's packet that have come and not its last one. -/
  inbox : SMap (List FrameSlot) := []
  credits : List Nat := [512, 512, 512, 512]
  freed : List Nat := [0, 0, 0, 0]
  lossAt : Option Nat := none
  prevPeer : Option PeerId := none
  eq : Bool := false
  retryAt : Option Nat := none
  cable : Bool := false
  deriving DecidableEq, Repr

/-- An open site (11 R287 to R289): FUNC of the admission descriptor and its digest. -/
structure OpenSite where
  func : Word := 0
  descriptor : Bytes := []
  /-- The packets that the partner has to answer: SRC, XQ and PIDX. -/
  asked : List (BitVec 21 × BitVec 3 × BitVec 10) := []
  /-- Packets handed to the partner die. -/
  outq : List Packet := []
  deriving DecidableEq, Repr

/-! ## Power and heat (12) -/

/-- Power (12 R291 to R308). `convFailed` counts failed converters by quadrant, `inputMode` is the band of
Table 12-1, `off` says that the switched domains have lost the input, `dark` lists the dark
basins, `efuseOpen` those with an open e-fuse, `phaseDie` counts failed phases by die (7b + its place
in basin b), `limited` lists the basins at 85 % of their current, `belowSince` is the tick since which the
power is 10 % below the cap, `slower` counts steps slower that are due, `pendingOp` is the target of a
scheduled change, `holding` the tick at which the relock hold began, `stormTick` the armed tick,
`margin` the learned droop margin of a basin in mV, 0 for the 30 mV of the start, `stretchDue` the periods a
basin has still to stretch, `stretchAt` one more than the cc of its last stretched period. -/
structure PowerSt where
  convFailed : SMap Nat := []
  inputMode : Nat := 0
  off : Bool := false
  efuseOpen : List Nat := []
  dark : List Nat := []
  phaseDie : SMap Nat := []
  limited : List Nat := []
  belowSince : Option Nat := none
  slower : Nat := 0
  pendingOp : Option Nat := none
  holding : Option Nat := none
  stormTick : Option Nat := none
  margin : SMap Nat := []
  stretchDue : SMap Nat := []
  stretchAt : SMap Nat := []
  deriving DecidableEq, Repr

/-- A temperature sensor (12 R309 R310): its last sample, the sum and number of samples of the running
1 ms, its last average, the tick of its last change of code, its partner's sample then, its bad mark. -/
structure Sensor where
  last : Int := 0
  sum : Int := 0
  n : Nat := 0
  avg : Int := 0
  changed : Nat := 0
  partner : Int := 0
  bad : Bool := false
  deriving DecidableEq, Repr

/-- Temperature and coolant (12 R309 to R318), in 0.01 degree C. Sensors are keyed 2 * spot + ring. `ctrl`
and `prev` are the controlling readings now and 1 ms ago, `hotSince` the tick from which the next
step slower counts, `flowSince` the tick since which flow is 70 L/min or more, `rthQ` the filtered
resistance in 10^-6 K/W, `loadSecs` the seconds at 7.2 kW or more, `emergency` the cause of the
emergency in force, `stormAt` the tick at which the storm point took effect, `offBasins` the basins
whose compute domains the emergency has powered off. -/
structure ThermalSt where
  sensors : SMap Sensor := []
  ctrl : SMap Int := []
  prev : SMap Int := []
  hotSince : Option Nat := none
  flowSince : Option Nat := none
  rthQ : Nat := 0
  loadSecs : Nat := 0
  emergency : Option Nat := none
  stormAt : Option Nat := none
  computeOff : Bool := false
  offBasins : List Nat := []
  deriving DecidableEq, Repr

/-! ## Security, logs and bring-up (13, 14) -/

/-- A firmware slot (14 R364 Table 14-8); an empty image is the one the panel was shipped with. -/
structure FwSlot where
  image : Bytes := []
  invalid : Bool := false
  deriving DecidableEq, Repr

/-- A firmware update in progress on a management bus (14 R365). -/
structure Update where
  bus : Nat
  cls : Option (BitVec 16)
  data : SMap Byte
  size : Nat
  verified : Bool
  deriving DecidableEq, Repr

/-- A management bus (14 R375): endpoint ID, SPDM session open, what it last returned. -/
structure Mgmt where
  eid : Byte := 0
  session : Option Bytes := none
  answer : Bytes := []
  code : Byte := 0
  deriving DecidableEq, Repr

/-- The cryptographic module and the stores of the lighthouse (14). -/
structure SecSt where
  nonces : List (Bytes × Nat) := []
  draws : Nat := 0
  reseeds : Nat := 0
  authFails : List Nat := []
  suspendedUntil : Option Nat := none
  officerKeys : SMap Bytes := []
  userKeys : SMap Bytes := []
  recipient : Bytes := []
  dumpKey : Nat := 0
  dumpHeld : Bool := true
  identity : Bool := true
  ideKeys : SMap Bytes := []
  ideSet : Option Bool := none
  slots : SMap FwSlot := []
  staged : List (BitVec 16) := []
  update : Option Update := none
  restartImage : Option Bytes := none
  licence : Bytes := []
  stagedLicence : Option Bytes := none
  measurements : SMap Bytes := []
  lastKat : Nat := 0
  /-- ZEROIZE_N has been held low during S0 (15 Table 15-8). -/
  zeroiseDue : Bool := false
  /-- SVN that COMMIT_SVN has fused for the lighthouse and the harbour, revoked ROM keys by purpose. -/
  svnLh : Nat := 0
  svnHm : Nat := 0
  revoked : List Nat := []
  /-- What the last authenticated service returned. -/
  answer : Bytes := []
  deriving DecidableEq, Repr

/-- An error log record (13 Table 13-9). -/
structure LogRec where
  tick : BitVec 64
  code : BitVec 16
  sev : Byte
  rep : Byte
  source : Word
  vid : BitVec 16
  leaf : Byte
  ordinal : Word
  data : BitVec 256
  seq : Word
  deriving DecidableEq, Repr

/-- A crash dump (13 R350 Table 13-11): header fields, and the sections
(type, record count, bytes) that are sealed when the dump leaves the lighthouse. -/
structure Dump where
  reason : BitVec 16
  tick : BitVec 64
  vid : BitVec 16
  pid : Byte
  logSeq : Word
  keyId : Word
  iv : Bytes
  sections : List (Nat × Nat × Bytes)
  read : Bool
  deriving DecidableEq, Repr

/-- The lighthouse's log and dump store (13 R349 R350). -/
structure LogSt where
  recs : List LogRec := []
  nextSeq : Word := 0
  dumps : List Dump := []
  saved : List LogRec := []
  deriving DecidableEq, Repr

/-- The panel fuse map (14 Table 14-5). -/
structure FuseMap where
  serial : BitVec 128 := 0
  spareSite : SMap Nat := []
  bad : List (BitVec 16) := []
  subs : List Bytes := []
  /-- SPARECORE of the die fuse records (Table 14-4), keyed as in BringSt. -/
  spareCore : SMap Nat := []
  deriving DecidableEq, Repr

/-- Bring-up and topology (14 R352 to R358, 01 R12, 13 R333 R334). `spareCore` is keyed by
72 * row-of-core + die (R12), `reports` holds the stage findings. -/
structure BringSt where
  boot : BitVec 16 := 0
  powered : Bool := false
  configServed : Bool := false
  pcieUp : Bool := false
  fuses : FuseMap := {}
  spareSite : SMap Nat := []
  spareCore : SMap Nat := []
  usedCore : List Nat := []
  usedSite : List Nat := []
  failedCores : List Nat := []
  failedDies : List (Nat × Nat) := []
  /-- The failed dies as the marks from service had them at the start of bring-up (14 R358). -/
  marks : List (Nat × Nat) := []
  /-- The fuse records of the dies as S3 read them (14 Table 14-4), by strap word. -/
  dies : SMap Bytes := []
  /-- The row repairs that S3 has applied (06 R134): 1 + the spare row, by 768 * (32 * (42 * (13 * row + column) + core site) + bank) + row of the
  bank. -/
  repairs : SMap Nat := []
  /-- The serial links whose equalisation values are stored (11 R273). -/
  linkEq : List Nat := []
  /-- Strap words of the dies other than compute dies that have failed. -/
  deadDies : List Nat := []
  reports : List (BitVec 8 × BitVec 16) := []
  /-- The topology report as it was last revised (14 R358). -/
  topology : Bytes := []
  flowProven : Bool := false
  deriving DecidableEq, Repr

/-! ## The machine -/

/-- The state of the block. -/
structure State where
  /-- Commands that wait, first in, first out. -/
  pending : List Instr := []
  /-- The model's own: how many free values have been drawn (Config.freeWord). -/
  free : Nat := 0
  /-- Periods of CLK_CORE since reset, and their surplus over the tide count in tenths. -/
  cc : Nat := 0
  ccPhase : Nat := 0
  /-- The tide count (00, 10 Table 10-3 HM_TIDE). -/
  tide : BitVec 64 := 0
  /-- BAR0 words by byte offset, where they differ from their reset value. -/
  regs : SMap Word := []
  /-- Of a register word in which an event of the running cycle has set bits or counted: its value before, and the bits or
  counts (00 R6). -/
  events : SMap (Word × Word) := []
  /-- What the last host read returned (model's own output). -/
  readData : Bytes := []
  cores : SMap Core := []
  routers : SMap Router := []
  engines : SMap Engine := []
  /-- Tier H and Tier B bytes, key memory * 2^40 + address. -/
  mem : SMap Byte := []
  /-- Blocks of 64 bytes whose code holds an error, key memory * 2^40 + address. -/
  ueBlocks : SMap BlockErr := []
  /-- Host memory as the device reaches it. -/
  host : SMap Byte := []
  segs : SMap SegRec := []
  sets : SMap (Option RepSet) := []
  parts : SMap (Option Partition) := []
  voyages : SMap (Option Voyage) := []
  hm : Harbour := {}
  fabric : FabricSt := {}
  ports : SMap Port := []
  sites : SMap OpenSite := []
  power : PowerSt := {}
  thermal : ThermalSt := {}
  sec : SecSt := {}
  mgmt : SMap Mgmt := []
  log : LogSt := {}
  bring : BringSt := {}
  deriving DecidableEq, Repr

/-- The machine has no fault: every condition of the spec is an effect on State, so no
command ends in one (safe). -/
inductive Fault where
  deriving DecidableEq, Repr

/-- Why a command has no meaning. -/
inductive Refusal where
  /-- An arm of Machine/Dispatch.lean whose command has not been given its meaning yet (safe). -/
  | notModelled (mnemonic : String)
  /-- An operand names a unit, a mailbox or an address that the panel does not have
  (01 R10 R12, 10 R239): raised by every command that carries such an operand (safe). -/
  | noSuchUnit
  /-- A slot operation whose encoding 02 R25 calls malformed: no manifest that runs holds it
  (raised by the M, V, C and S slot commands; safe). -/
  | malformed
  deriving DecidableEq, Repr

/-- The machine right after reset: every register at the value its table gives, and everything
the spec leaves open at the value of log entry 4. -/
def State.reset : State := {}

end Sys2Proof.Machine
end

