-- ==== Sys2Proof/Machine/Sparse.lean ====
section
/-! DEFINITION. Reading and writing a sparse map in its canonical form, and little-endian byte strings (00 R4). -/

namespace Sys2Proof.Machine

open Sys2Proof

/-- The value at key `i`; an unlisted key reads as `d`. -/
def look {α : Type} (d : α) : SMap α → Nat → α
  | [], _ => d
  | (k, v) :: r, i => if i = k then v else look d r i

/-- The map without key `i`. -/
def dropKey {α : Type} : SMap α → Nat → SMap α
  | [], _ => []
  | (k, v) :: r, i => if i = k then dropKey r i else (k, v) :: dropKey r i

/-- Writes key `i`, in key order; writing the default removes the entry. -/
def put {α : Type} [DecidableEq α] (d : α) : SMap α → Nat → α → SMap α
  | [], i, x => if x = d then [] else [(i, x)]
  | (k, v) :: r, i, x =>
    if i < k then (if x = d then (k, v) :: dropKey r i else (i, x) :: (k, v) :: r)
    else if i = k then (if x = d then dropKey r i else (i, x) :: r)
    else (k, v) :: put d r i x

/-- Applies `g` to the value at key `i`. -/
def upd {α : Type} [DecidableEq α] (d : α) (m : SMap α) (i : Nat) (g : α → α) : SMap α :=
  put d m i (g (look d m i))

/-- Keys strictly rising from `lo`, no entry equal to the default. -/
def wfFrom {α : Type} [DecidableEq α] (d : α) : Nat → SMap α → Bool
  | _, [] => true
  | lo, (k, v) :: r => decide (lo ≤ k) && decide (v ≠ d) && wfFrom d (k + 1) r

/-- The canonical form of a sparse map. -/
def SMap.wf {α : Type} [DecidableEq α] (d : α) (m : SMap α) : Bool := wfFrom d 0 m

/-- Writes `n` consecutive keys from `base`, key `base + i` with `f i`. -/
def putRange {α : Type} [DecidableEq α] (d : α) (m : SMap α) (base : Nat) (f : Nat → α) : Nat → SMap α
  | 0 => m
  | n + 1 => put d (putRange d m base f n) (base + n) (f n)

/-- Reads `n` consecutive keys from `base`. -/
def lookRange {α : Type} (d : α) (m : SMap α) (base n : Nat) : List α :=
  (List.range n).map fun i => look d m (base + i)

/-- Writes a list at consecutive keys from `base`. -/
def putList {α : Type} [DecidableEq α] (d : α) : SMap α → Nat → List α → SMap α
  | m, _, [] => m
  | m, i, x :: xs => putList d (put d m i x) (i + 1) xs

/-! ## Little-endian byte strings -/

/-- The number that a byte string spells, byte 0 least significant. -/
def leNat : Bytes → Nat
  | [] => 0
  | b :: r => b.toNat + 256 * leNat r

/-- The low `k` bytes of a number, byte 0 first. -/
def leBytes : Nat → Nat → Bytes
  | 0, _ => []
  | k + 1, n => BitVec.ofNat 8 (n % 256) :: leBytes k (n / 256)

/-- `n` zero bytes. -/
def zeros (n : Nat) : Bytes := List.replicate n 0

/-- The bytes of a string from `off`, `n` of them; absent bytes are zero. -/
def slice (b : Bytes) (off n : Nat) : Bytes :=
  let r := (b.drop off).take n
  r ++ zeros (n - r.length)

/-- The little-endian number of `n` bytes at `off`. -/
def fieldAt (b : Bytes) (off n : Nat) : Nat := leNat (slice b off n)

/-- Bits `[lo + n - 1 : lo]` of a number. -/
def bits (x lo n : Nat) : Nat := x / 2 ^ lo % 2 ^ n

/-- Bit `i` of a number. -/
def bitOf (x i : Nat) : Bool := x / 2 ^ i % 2 == 1

/-- A Bool as 0 or 1. -/
def b2n (b : Bool) : Nat := if b then 1 else 0

/-- The first element that satisfies a test, and the list without it. -/
def takeFirst {α : Type} (p : α → Bool) : List α → Option (α × List α)
  | [] => none
  | x :: r => if p x then some (x, r) else
    match takeFirst p r with
    | none => none
    | some (y, r') => some (y, x :: r')

/-- The list with element `k` replaced. -/
def setAt {α : Type} : List α → Nat → α → List α
  | [], _, _ => []
  | _ :: r, 0, x => x :: r
  | y :: r, k + 1, x => y :: setAt r k x

/-- The list without element `k`. -/
def dropAt {α : Type} : List α → Nat → List α
  | [], _ => []
  | _ :: r, 0 => r
  | y :: r, k + 1 => y :: dropAt r k

/-- Adds an element to a list that holds each element once. -/
def addOnce {α : Type} [DecidableEq α] (x : α) (l : List α) : List α := if x ∈ l then l else l ++ [x]

/-- The list without an element. -/
def without {α : Type} [DecidableEq α] (x : α) (l : List α) : List α := l.filter (· ≠ x)

end Sys2Proof.Machine
end

