-- ==== Sys2Proof/Decode.lean ====
section
/-! DEFINITION. The manifest step of 256 bits (02 R24 Table 2-2): its decoder, total and refusing reserved opcodes and non-zero reserved fields (00 R5, 02 R25, 03 R52, 04 R80), and its encoder; and the host's decodeTableWord, which answers none because no row of the table gives bits. -/

namespace Sys2Proof

open Sys2Proof.Machine (bits bitOf b2n)

/-- Field [lo + n - 1 : lo] of a slot value. -/
def fld (x lo n : Nat) : BitVec n := BitVec.ofNat n (x / 2 ^ lo)

/-- A result if the reserved field [lo + n - 1 : lo] is zero. -/
def clear {α : Type} (x lo n : Nat) (r : α) : Option α := if bits x lo n = 0 then some r else none

/-! ## M slot (03 Tables 3-4 to 3-10) -/

def decodeTile (x : Nat) : TileF := ⟨fld x 69 3, fld x 65 4, fld x 53 12, bitOf x 52⟩

def decodeM (x : Nat) : Option MOp :=
  match bits x 72 8 with
  | 0x00 => clear x 0 72 .nop
  | 0x01 => clear x 0 24 (.mma ⟨fld x 68 4, fld x 64 4, fld x 61 3, fld x 57 4, fld x 53 4, fld x 49 4,
      bitOf x 48, fld x 36 12, fld x 24 12⟩)
  | 0x02 => clear x 0 32 (.mrd ⟨fld x 68 4, fld x 65 3, bitOf x 64, bitOf x 63, bitOf x 62, bitOf x 61,
      fld x 57 4, fld x 45 12, fld x 40 5, fld x 32 8⟩)
  | 0x03 => clear x 0 58 (.mclr ⟨fld x 69 3, bitOf x 68, fld x 58 10⟩)
  | 0x04 => clear x 0 52 (.mst (decodeTile x))
  | 0x05 => clear x 0 52 (.mld (decodeTile x))
  | _ => none

def encodeTile (op : Nat) (f : TileF) : Nat :=
  op * 2 ^ 72 + f.e.toNat * 2 ^ 69 + f.p.toNat * 2 ^ 65 + f.o.toNat * 2 ^ 53 + b2n f.flag * 2 ^ 52

def encodeM : MOp → Nat
  | .nop => 0
  | .mma f => 0x01 * 2 ^ 72 + f.fa.toNat * 2 ^ 68 + f.fb.toNat * 2 ^ 64 + f.ed.toNat * 2 ^ 61
      + f.pa.toNat * 2 ^ 57 + f.pb.toNat * 2 ^ 53 + f.nblk.toNat * 2 ^ 49 + b2n f.inc * 2 ^ 48
      + f.oa.toNat * 2 ^ 36 + f.ob.toNat * 2 ^ 24
  | .mrd f => 0x02 * 2 ^ 72 + f.fo.toNat * 2 ^ 68 + f.es.toNat * 2 ^ 65 + b2n f.pair * 2 ^ 64
      + b2n f.rm * 2 ^ 63 + b2n f.dst * 2 ^ 62 + b2n f.clr * 2 ^ 61 + f.pd.toNat * 2 ^ 57
      + f.od.toNat * 2 ^ 45 + f.vd.toNat * 2 ^ 40 + f.sh.toNat * 2 ^ 32
  | .mclr f => 0x03 * 2 ^ 72 + f.ed.toNat * 2 ^ 69 + b2n f.pair * 2 ^ 68 + f.t.toNat * 2 ^ 58
  | .mst f => encodeTile 0x04 f
  | .mld f => encodeTile 0x05 f

/-! ## V slot (03 Tables 3-13, 3-21) -/

def decodeVm (x : Nat) : VmF := ⟨fld x 51 5, fld x 47 4, fld x 35 12, fld x 25 10⟩
def decodeVq (x : Nat) : VqF := ⟨fld x 51 5, fld x 47 4, fld x 43 4, fld x 39 4, fld x 29 10, fld x 19 10, bitOf x 18⟩
def decodeVr (x : Nat) : VrF := ⟨fld x 51 5, fld x 46 5, fld x 41 5, fld x 36 5, fld x 32 4, bitOf x 31, bitOf x 30,
  fld x 23 7, fld x 20 3, fld x 15 5, bitOf x 14⟩
def decodeVi (x : Nat) : Option ViF := clear x 32 9 ⟨fld x 51 5, fld x 46 5, fld x 42 4, bitOf x 41, fld x 0 32⟩
def decodeVk (x : Nat) : VkF := ⟨fld x 51 5, fld x 46 5, fld x 42 4, fld x 35 7, fld x 32 3, fld x 30 2, bitOf x 29⟩

def decodeV (x : Nat) : Option VOp :=
  match bits x 56 8 with
  | 0x00 => clear x 0 56 .nop
  | 0x01 => clear x 0 25 (.vld (decodeVm x))
  | 0x02 => clear x 0 25 (.vst (decodeVm x))
  | 0x03 => clear x 0 18 (.vdq (decodeVq x))
  | 0x04 => clear x 0 18 (.vqnt (decodeVq x))
  | 0x10 => clear x 0 14 (.vfp (decodeVr x))
  | 0x11 => (decodeVi x).map .vfpi
  | 0x12 => clear x 0 14 (.vint (decodeVr x))
  | 0x13 => (decodeVi x).map .vinti
  | 0x14 => clear x 0 14 (.vcmp (decodeVr x))
  | 0x15 => clear x 0 14 (.vsel (decodeVr x))
  | 0x16 => clear x 0 14 (.vcvt (decodeVr x))
  | 0x17 => clear x 0 14 (.vtr (decodeVr x))
  | 0x18 => clear x 0 14 (.vexpd (decodeVr x))
  | 0x19 => clear x 0 14 (.vred (decodeVr x))
  | 0x1A => clear x 0 29 (.vtopk (decodeVk x))
  | _ => none

def encodeVm (op : Nat) (f : VmF) : Nat :=
  op * 2 ^ 56 + f.vr.toNat * 2 ^ 51 + f.p.toNat * 2 ^ 47 + f.o.toNat * 2 ^ 35 + f.str.toNat * 2 ^ 25
def encodeVq (op : Nat) (f : VqF) : Nat :=
  op * 2 ^ 56 + f.vr.toNat * 2 ^ 51 + f.fmt.toNat * 2 ^ 47 + f.pe.toNat * 2 ^ 43 + f.ps.toNat * 2 ^ 39
    + f.oe.toNat * 2 ^ 29 + f.os.toNat * 2 ^ 19 + b2n f.rm * 2 ^ 18
def encodeVr (op : Nat) (f : VrF) : Nat :=
  op * 2 ^ 56 + f.vd.toNat * 2 ^ 51 + f.va.toNat * 2 ^ 46 + f.vb.toNat * 2 ^ 41 + f.vc.toNat * 2 ^ 36
    + f.fn.toNat * 2 ^ 32 + b2n f.rm * 2 ^ 31 + b2n f.bb * 2 ^ 30 + f.lane.toNat * 2 ^ 23
    + f.fd.toNat * 2 ^ 20 + f.fbit.toNat * 2 ^ 15 + b2n f.fw * 2 ^ 14
def encodeVi (op : Nat) (f : ViF) : Nat :=
  op * 2 ^ 56 + f.vd.toNat * 2 ^ 51 + f.va.toNat * 2 ^ 46 + f.fn.toNat * 2 ^ 42 + b2n f.rm * 2 ^ 41 + f.imm.toNat

def encodeV : VOp → Nat
  | .nop => 0
  | .vld f => encodeVm 0x01 f
  | .vst f => encodeVm 0x02 f
  | .vdq f => encodeVq 0x03 f
  | .vqnt f => encodeVq 0x04 f
  | .vfp f => encodeVr 0x10 f
  | .vfpi f => encodeVi 0x11 f
  | .vint f => encodeVr 0x12 f
  | .vinti f => encodeVi 0x13 f
  | .vcmp f => encodeVr 0x14 f
  | .vsel f => encodeVr 0x15 f
  | .vcvt f => encodeVr 0x16 f
  | .vtr f => encodeVr 0x17 f
  | .vexpd f => encodeVr 0x18 f
  | .vred f => encodeVr 0x19 f
  | .vtopk f => 0x1A * 2 ^ 56 + f.vd.toNat * 2 ^ 51 + f.va.toNat * 2 ^ 46 + f.km1.toNat * 2 ^ 42
      + f.nm1.toNat * 2 ^ 35 + f.fd.toNat * 2 ^ 32 + f.wnd.toNat * 2 ^ 30 + b2n f.fw * 2 ^ 29

/-! ## C slot (04 Tables 4-5 to 4-10) -/

def decodeCw (x : Nat) : CwaitF := ⟨fld x 53 3, fld x 45 8, fld x 42 3, fld x 37 5⟩

def decodeC (x : Nat) : Option COp :=
  match bits x 56 8 with
  | 0x00 => clear x 0 56 .nop
  | 0x01 => clear x 0 36 (.cxfr ⟨fld x 53 3, fld x 49 4, fld x 37 12, bitOf x 36⟩)
  | 0x02 => clear x 0 37 (.cwait (decodeCw x))
  | 0x03 => clear x 0 37 (.ctest (decodeCw x))
  | 0x04 => clear x 0 21 (.cpush ⟨fld x 53 3, fld x 50 3, fld x 29 21, fld x 21 8⟩)
  | 0x05 => clear x 0 50 (.cstat (fld x 53 3) (fld x 50 3))
  | 0x06 => clear x 0 48 (.cfence (fld x 48 8))
  | 0x08 => clear x 0 1 (.bopen ⟨fld x 52 4, fld x 48 4, fld x 36 12, fld x 19 17, fld x 11 8, fld x 7 4, fld x 4 3,
      bitOf x 3, bitOf x 2, bitOf x 1⟩)
  | 0x09 => clear x 0 48 (.bclose ⟨fld x 52 4, fld x 49 3, bitOf x 48⟩)
  | _ => none

def encodeCw (op : Nat) (f : CwaitF) : Nat :=
  op * 2 ^ 56 + f.qe.toNat * 2 ^ 53 + f.nm1.toNat * 2 ^ 45 + f.fd.toNat * 2 ^ 42 + f.fbit.toNat * 2 ^ 37

def encodeC : COp → Nat
  | .nop => 0
  | .cxfr f => 0x01 * 2 ^ 56 + f.cqn.toNat * 2 ^ 53 + f.p.toNat * 2 ^ 49 + f.o.toNat * 2 ^ 37 + b2n f.wb * 2 ^ 36
  | .cwait f => encodeCw 0x02 f
  | .ctest f => encodeCw 0x03 f
  | .cpush f => 0x04 * 2 ^ 56 + f.cqn.toNat * 2 ^ 53 + f.qe.toNat * 2 ^ 50 + f.ep.toNat * 2 ^ 29 + f.nm1.toNat * 2 ^ 21
  | .cstat cqn fd => 0x05 * 2 ^ 56 + cqn.toNat * 2 ^ 53 + fd.toNat * 2 ^ 50
  | .cfence m => 0x06 * 2 ^ 56 + m.toNat * 2 ^ 48
  | .bopen f => 0x08 * 2 ^ 56 + f.idx.toNat * 2 ^ 52 + f.p.toNat * 2 ^ 48 + f.o.toNat * 2 ^ 36 + f.len.toNat * 2 ^ 19
      + f.gen.toNat * 2 ^ 11 + f.src.toNat * 2 ^ 7 + f.qe.toNat * 2 ^ 4 + b2n f.nen * 2 ^ 3 + b2n f.rd * 2 ^ 2
      + b2n f.wr * 2
  | .bclose f => 0x09 * 2 ^ 56 + f.idx.toNat * 2 ^ 52 + f.qe.toNat * 2 ^ 49 + b2n f.aen * 2 ^ 48

/-! ## S slot (04 Tables 4-13 to 4-18) -/

def decodeS (x : Nat) : Option SOp :=
  match bits x 40 8 with
  | 0x00 => clear x 0 40 .nop
  | 0x01 =>
    if bitOf x 24 then clear x 0 20 (.loop ⟨fld x 38 2, fld x 25 13, true, fld x 0 24⟩)
    else some (.loop ⟨fld x 38 2, fld x 25 13, false, fld x 0 24⟩)
  | 0x02 => clear x 0 27 (.call (fld x 27 13))
  | 0x03 => clear x 0 40 .ret
  | 0x04 => clear x 0 14 (.xcall ⟨fld x 36 4, fld x 24 12, fld x 14 10⟩)
  | 0x05 => clear x 0 18 (.brf ⟨fld x 37 3, fld x 32 5, bitOf x 31, fld x 18 13⟩)
  | 0x08 => clear x 32 3 (.pset ⟨fld x 36 4, bitOf x 35, fld x 0 32⟩)
  | 0x09 => clear x 16 13 (.pmov ⟨fld x 36 4, fld x 32 4, fld x 30 2, bitOf x 29, fld x 0 16⟩)
  | 0x0A => clear x 32 3 (.fset ⟨fld x 37 3, fld x 35 2, fld x 0 32⟩)
  | 0x10 => clear x 0 24 (.moor (fld x 24 16))
  | 0x11 => clear x 0 31 (.bar (fld x 32 8) (bitOf x 31))
  | 0x12 => clear x 0 7 (.rsend ⟨fld x 24 16, fld x 20 4, fld x 8 12, bitOf x 7⟩)
  | 0x13 => clear x 0 24 (.rwait (fld x 24 16))
  | 0x1F => clear x 0 40 .fin
  | _ => none

def encodeS : SOp → Nat
  | .nop => 0
  | .loop f => 0x01 * 2 ^ 40 + f.ln.toNat * 2 ^ 38 + f.last.toNat * 2 ^ 25 + b2n f.r * 2 ^ 24 + f.count.toNat
  | .call t => 0x02 * 2 ^ 40 + t.toNat * 2 ^ 27
  | .ret => 0x03 * 2 ^ 40
  | .xcall f => 0x04 * 2 ^ 40 + f.p.toNat * 2 ^ 36 + f.o.toNat * 2 ^ 24 + f.nm1.toNat * 2 ^ 14
  | .brf f => 0x05 * 2 ^ 40 + f.fd.toNat * 2 ^ 37 + f.fbit.toNat * 2 ^ 32 + b2n f.sense * 2 ^ 31 + f.tgt.toNat * 2 ^ 18
  | .pset f => 0x08 * 2 ^ 40 + f.pd.toNat * 2 ^ 36 + b2n f.add * 2 ^ 35 + f.imm.toNat
  | .pmov f => 0x09 * 2 ^ 40 + f.pd.toNat * 2 ^ 36 + f.ps.toNat * 2 ^ 32 + f.ls.toNat * 2 ^ 30 + b2n f.ul * 2 ^ 29
      + f.scale.toNat
  | .fset f => 0x0A * 2 ^ 40 + f.fd.toNat * 2 ^ 37 + f.mode.toNat * 2 ^ 35 + f.imm.toNat
  | .moor mid => 0x10 * 2 ^ 40 + mid.toNat * 2 ^ 24
  | .bar bid h => 0x11 * 2 ^ 40 + bid.toNat * 2 ^ 32 + b2n h * 2 ^ 31
  | .rsend f => 0x12 * 2 ^ 40 + f.tag.toNat * 2 ^ 24 + f.p.toNat * 2 ^ 20 + f.o.toNat * 2 ^ 8 + b2n f.kind * 2 ^ 7
  | .rwait tag => 0x13 * 2 ^ 40 + tag.toNat * 2 ^ 24
  | .fin => 0x1F * 2 ^ 40

/-! ## The step (02 Table 2-2) -/

/-- Decodes a step by slots; none if a slot has a reserved opcode or a non-zero reserved field. -/
def decodeStep (w : BitVec 256) : Option Step4 :=
  let x := w.toNat
  match decodeM (bits x 176 80), decodeV (bits x 112 64), decodeC (bits x 48 64), decodeS (bits x 0 48) with
  | some m, some v, some c, some t => some ⟨m, v, c, t⟩
  | _, _, _, _ => none

def encodeStep (st : Step4) : BitVec 256 :=
  BitVec.ofNat 256 (encodeM st.m * 2 ^ 176 + encodeV st.v * 2 ^ 112 + encodeC st.c * 2 ^ 48 + encodeS st.s)

/-- The host's question: the command a word spells by the table's bits. No row gives bits. -/
def decodeTableWord (_nbits _w : Nat) : Option Instr := none

end Sys2Proof
end

