-- ==== Sys2Proof/Machine/Exact.lean ====
section
/-! DEFINITION. Exact arithmetic (00 R7): dyadic numbers, numbers a + b * sqrt 2 (02 R43), and how a real value compares with a dyadic one. Every rounding of the spec (02 R44 to R48, 03 R68) is a comparison of the exact value with a dyadic number. -/

namespace Sys2Proof.Machine

open Sys2Proof

/-- The dyadic number m * 2^e. -/
structure Dy where
  m : Int
  e : Int
  deriving DecidableEq, Repr

/-- a + b * sqrt 2 with dyadic a and b (02 R43). -/
structure Dy2 where
  a : Dy
  b : Dy
  deriving DecidableEq, Repr

/-- How the magnitude of an exact value compares with a dyadic number that is not negative. -/
abbrev Cmp := Dy → Ordering

namespace DyOps

/-- An integer. -/
def ofInt (n : Int) : Dy := ⟨n, 0⟩

/-- 2^k. -/
def pow2 (k : Int) : Dy := ⟨1, k⟩

/-- m scaled to exponent `e`, for `e` no larger than the exponent of the number. -/
def at_ (x : Dy) (e : Int) : Int := x.m * 2 ^ (x.e - e).toNat

def add (x y : Dy) : Dy :=
  let e := if x.e ≤ y.e then x.e else y.e
  ⟨at_ x e + at_ y e, e⟩

def neg (x : Dy) : Dy := ⟨-x.m, x.e⟩

def sub (x y : Dy) : Dy := add x (neg y)

def mul (x y : Dy) : Dy := ⟨x.m * y.m, x.e + y.e⟩

/-- x * 2^k. -/
def shift (x : Dy) (k : Int) : Dy := ⟨x.m, x.e + k⟩

def abs (x : Dy) : Dy := ⟨x.m.natAbs, x.e⟩

def cmp (x y : Dy) : Ordering :=
  let e := if x.e ≤ y.e then x.e else y.e
  compare (at_ x e) (at_ y e)

def npow (x : Dy) (n : Nat) : Dy := ⟨x.m ^ n, x.e * n⟩

end DyOps

open DyOps

/-- The sign of a + b * sqrt 2: squares decide when the two parts oppose each other. -/
def sign2 (x : Dy2) : Ordering :=
  let a := DyOps.cmp x.a (ofInt 0)
  let b := DyOps.cmp x.b (ofInt 0)
  let sq := DyOps.cmp (mul x.a x.a) (shift (mul x.b x.b) 1)
  match a, b with
  | .eq, _ => b
  | _, .eq => a
  | .gt, .gt => .gt
  | .lt, .lt => .lt
  | .gt, .lt => sq
  | .lt, .gt => sq.swap

def sub2 (x y : Dy2) : Dy2 := ⟨sub x.a y.a, sub x.b y.b⟩

def add2 (x y : Dy2) : Dy2 := ⟨add x.a y.a, add x.b y.b⟩

def mulD2 (x : Dy2) (k : Dy) : Dy2 := ⟨mul x.a k, mul x.b k⟩

def cmp2 (x y : Dy2) : Ordering := sign2 (sub2 x y)

/-- A dyadic number as a + b * sqrt 2. -/
def inj2 (x : Dy) : Dy2 := ⟨x, ofInt 0⟩

/-- The magnitude of a + b * sqrt 2. -/
def abs2 (x : Dy2) : Dy2 := if sign2 x = .lt then ⟨neg x.a, neg x.b⟩ else x

/-! ## Comparisons of real values with dyadic ones -/

def cmpOfD (x : Dy) : Cmp := fun q => DyOps.cmp (DyOps.abs x) q

def cmpOf2 (x : Dy2) : Cmp := fun q => cmp2 (abs2 x) (inj2 q)

/-- num / den, den not zero. -/
def cmpOfRat (num den : Dy) : Cmp := fun q => DyOps.cmp (DyOps.abs num) (mul q (DyOps.abs den))

/-- sqrt x, x not negative. -/
def cmpOfSqrt (x : Dy) : Cmp := fun q => DyOps.cmp x (mul q q)

/-- 1 / sqrt x, x positive. -/
def cmpOfRsqrt (x : Dy) : Cmp := fun q => DyOps.cmp (ofInt 1) (mul (mul q q) x)

/-- Integer square root, bit by bit from bit `k`. -/
def isqrtFrom (x : Nat) : Nat → Nat → Nat
  | 0, r => r
  | k + 1, r =>
    let r' := r + 2 ^ k
    if r' * r' ≤ x then isqrtFrom x k r' else isqrtFrom x k r

/-- The integer square root of a number below 4^k. -/
def isqrt (x k : Nat) : Nat := isqrtFrom x k 0

/-- Bounds of 2^(0.b1 b2 ...) for the `n` highest bits of a binary fraction, scaled by 2^p:
`lo`, `hi` bound the product so far, `s`, `t` bound 2^(2^-i). -/
def exp2Loop (p f : Nat) : Nat → Nat → Nat → Nat → Nat → Nat × Nat
  | 0, lo, hi, _, _ => (lo, hi)
  | n + 1, lo, hi, s, t =>
    let s' := isqrt (s * 2 ^ p) (p + 2)
    let t' := isqrt (t * 2 ^ p) (p + 2) + 1
    if f / 2 ^ n % 2 = 1 then exp2Loop p f n (lo * s' / 2 ^ p) (hi * t' / 2 ^ p + 1) s' t'
    else exp2Loop p f n lo hi s' t'

/-- Bounds, scaled by 2^p, of 2^(f / 2^k) for f below 2^k. Bits of f beyond the p + 8 highest
add less than one part in 2^p. -/
def exp2Bounds (p f k : Nat) : Nat × Nat :=
  let n := if k ≤ p + 8 then k else p + 8
  let (lo, hi) := exp2Loop p (f / 2 ^ (k - n)) n (2 ^ p) (2 ^ p) (2 * 2 ^ p) (2 * 2 ^ p)
  (lo, if k = n then hi else hi + hi / 2 ^ p + 2)

/-- Compares 2^(f / 2^k) with m / 2^l by bounds of the given precisions, and by exact integer
powers where no bound decides. -/
def cmpFrac (f k m l : Nat) : List Nat → Ordering
  | [] => compare (2 ^ (f + l * 2 ^ k)) (m ^ (2 ^ k))
  | p :: ps =>
    let (lo, hi) := exp2Bounds p f k
    if lo * 2 ^ l > m * 2 ^ p then .gt
    else if hi * 2 ^ l < m * 2 ^ p then .lt
    else cmpFrac f k m l ps

/-- 2^x for a dyadic x (03 R76 EXP2, R77): how it compares with a dyadic number. -/
def cmpOfExp2 (x : Dy) : Cmp := fun q =>
  if q.m ≤ 0 then .gt else
  let m := q.m.toNat
  let l := Nat.log2 m
  let k := (-x.e).toNat
  let n : Int := x.m * 2 ^ x.e.toNat            -- x = n / 2^k
  let y : Int := n - q.e * 2 ^ k                -- 2^x / 2^e(q) = 2^(y / 2^k)
  let i : Int := y / 2 ^ k
  let f : Nat := (y - i * 2 ^ k).toNat
  if i > l then .gt
  else if i < l then .lt
  else if f = 0 then compare (2 ^ l) m
  else if m = 2 ^ l then .gt
  else cmpFrac f k m l [64, 128, 256, 512]

/-- |log2 a| for a positive a (03 R76 LOG2). -/
def cmpOfLog2 (a : Dy) : Cmp := fun q =>
  if DyOps.cmp a (ofInt 1) = .lt then cmpOfExp2 (neg q) a
  else (cmpOfExp2 q a).swap

end Sys2Proof.Machine
end

