-- ==== Sys2Proof/Machine/Flags.lean ====
section
/-! DEFINITION. Numerical events: F7 (02 R50 Table 2-8) and the 55 health counters (02 R51 Table 2-9). -/

namespace Sys2Proof.Machine

open Sys2Proof

/-- The numerical events of an operation: the bits it sets in F7 and the counters it adds to. -/
structure Ev where
  f7 : Word := 0
  counts : List (Nat × Nat) := []
  deriving DecidableEq, Repr

/-- Events together: F7 bits are ORed, counts of both stand. -/
def Ev.and (x y : Ev) : Ev := ⟨x.f7 ||| y.f7, x.counts ++ y.counts⟩

/-- The events of a list of computations. -/
def evAll (l : List Ev) : Ev := l.foldl Ev.and {}

/-- F7 bits of Table 2-8. -/
def f7AccHigh : Word := 0x01#32
def f7AccLow : Word := 0x02#32
def f7AccInvalid : Word := 0x04#32
def f7OutHigh : Word := 0x08#32
def f7OutLow : Word := 0x10#32
def f7OutInvalid : Word := 0x20#32
def f7NonExact : Word := 0x40#32

/-- Events of Table 2-9, counted under format code `c`. -/
def evAccHigh (c : Nat) : Ev := ⟨f7AccHigh, [(5 * c, 1)]⟩
def evAccLow (c : Nat) : Ev := ⟨f7AccLow, [(5 * c + 1, 1)]⟩
def evAccInvalid (c : Nat) : Ev := ⟨f7AccInvalid, [(5 * c + 2, 1)]⟩
def evOutInvalid (c : Nat) : Ev := ⟨f7OutInvalid, [(5 * c + 2, 1)]⟩
def evOutHigh (c : Nat) : Ev := ⟨f7OutHigh, [(5 * c + 3, 1)]⟩
def evOutLow (c : Nat) : Ev := ⟨f7OutLow, [(5 * c + 4, 1)]⟩
def evNonExact : Ev := ⟨f7NonExact, []⟩

/-- An event that occurs only if a condition holds. -/
def evIf (b : Bool) (e : Ev) : Ev := if b then e else {}

/-- Saturating addition of a 32-bit counter. -/
def satAdd32 (x : Word) (n : Nat) : Word :=
  if x.toNat + n ≥ 2 ^ 32 then 0xFFFFFFFF#32 else x + BitVec.ofNat 32 n

/-- Counts take effect: each counter saturates at 0xFFFF_FFFF (02 R51). -/
def addCounts (m : SMap Word) (l : List (Nat × Nat)) : SMap Word :=
  l.foldl (fun m p => upd 0 m p.1 (satAdd32 · p.2)) m

/-- Events take effect in a core: F7 bits are set and the counters add up (02 R50 R51). -/
def applyEv (r : CoreRegs) (f7 : Word) (counts : List (Nat × Nat)) : CoreRegs :=
  { r with f := upd 0 r.f 7 (· ||| f7), counters := addCounts r.counters counts }

end Sys2Proof.Machine
end

