-- ==== Sys2Proof/Machine/Operands.lean ====
section
/-! DEFINITION. Number formats (02 R35 to R38), their decoding, read-out and conversion (02 R44 to R48, 03 R68), operand tiles (03 R58) and EA96 accumulation (02 R41 R43). -/

namespace Sys2Proof.Machine

open Sys2Proof DyOps

/-! ## Formats (02 Tables 2-5, 2-6) -/

/-- A floating-point element layout: mantissa bits, exponent of the least subnormal, exponent of
the largest finite value and its significand, the exponent field's width. -/
structure FloatFmt where
  mbits : Nat
  emin : Int
  maxk : Int
  maxn : Nat
  ebits : Nat

def fE4M3 : FloatFmt := ⟨3, -9, 8, 14, 4⟩
def fE5M2 : FloatFmt := ⟨2, -16, 15, 7, 5⟩
def fE2M3 : FloatFmt := ⟨3, -3, 2, 15, 2⟩
def fE3M2 : FloatFmt := ⟨2, -4, 4, 7, 3⟩
def fE2M1 : FloatFmt := ⟨1, -1, 2, 3, 2⟩
def fBF16 : FloatFmt := ⟨7, -133, 127, 255, 8⟩
def fFP32 : FloatFmt := ⟨23, -149, 127, 2 ^ 24 - 1, 8⟩

/-- The element layout of a format code; codes 2 (INT8) and 8 (GL4) have none. -/
def floatOf : Nat → Option FloatFmt
  | 0 | 3 => some fE4M3
  | 1 | 4 => some fE5M2
  | 5 => some fE2M3
  | 6 => some fE3M2
  | 7 => some fE2M1
  | 9 => some fBF16
  | 10 => some fFP32
  | _ => none

/-- MX formats have E8M0 scales over 32 elements (02 R37). -/
def isMx (c : Nat) : Bool := 3 ≤ c && c ≤ 7

def elemBits : Nat → Nat
  | 5 | 6 => 6
  | 7 | 8 => 4
  | 9 => 16
  | 10 => 32
  | _ => 8

/-- Elements to a scale block, 0 for formats without scales. -/
def blockLen (c : Nat) : Nat := if isMx c then 32 else if c = 8 then 16 else 0

/-- The value of an element that has no block scale: none if it is a NaN or an infinity (02 R39). -/
def decodeFloat (f : FloatFmt) (isE4M3 hasInf : Bool) (x : Nat) : Option Dy :=
  let m := x % 2 ^ f.mbits
  let e := x / 2 ^ f.mbits % 2 ^ f.ebits
  let neg := x / 2 ^ (f.mbits + f.ebits) % 2 = 1
  if isE4M3 && x % 128 = 127 then none
  else if hasInf && e = 2 ^ f.ebits - 1 then none
  else
    let mag : Dy := if e = 0 then ⟨m, f.emin⟩ else ⟨m + 2 ^ f.mbits, f.emin + e - 1⟩
    some (if neg then DyOps.neg mag else mag)

/-- An element of format code `c` before its block scale (02 R36 R38). GL4 elements carry the
factor 2^((m - 7) / 2). -/
def decodeElem (c x : Nat) : Option Dy2 :=
  match c with
  | 2 => some (inj2 (ofInt (BitVec.ofNat 8 x).toInt))
  | 8 =>
    let m := x % 8
    let neg := x / 8 % 2 = 1
    if m = 0 then some (inj2 (ofInt 0))
    else
      let s : Int := if neg then -1 else 1
      if m % 2 = 1 then some (inj2 ⟨s, ((m : Int) - 7) / 2⟩)
      else some ⟨ofInt 0, ⟨s, ((m : Int) - 8) / 2⟩⟩
  | _ =>
    match floatOf c with
    | none => none
    | some f =>
      match decodeFloat f (c = 0 || c = 3) (c = 1 || c = 4 || c = 9 || c = 10) x with
      | none => none
      | some d => some (inj2 d)

/-- A block scale: none for 0xFF (02 R36 R38). -/
def decodeScale (x : Nat) : Option Dy := if x = 255 then none else some ⟨1, (x : Int) - 127⟩

/-- Element `i` of a packed run of elements of format `c` (02 R37). -/
def packedAt (c : Nat) (byte : Nat → Byte) (i : Nat) : Nat :=
  match elemBits c with
  | 4 => (byte (i / 2)).toNat / 16 ^ (i % 2) % 16
  | 6 =>
    let g := 3 * (i / 4)
    ((byte g).toNat + 256 * (byte (g + 1)).toNat + 65536 * (byte (g + 2)).toNat) / 64 ^ (i % 4) % 64
  | 16 => (byte (2 * i)).toNat + 256 * (byte (2 * i + 1)).toNat
  | 32 => leNat [byte (4 * i), byte (4 * i + 1), byte (4 * i + 2), byte (4 * i + 3)]
  | _ => (byte i).toNat

/-- Packs elements of format `c`, byte by byte (02 R37). -/
def packByte (c : Nat) (el : Nat → Nat) (b : Nat) : Byte :=
  match elemBits c with
  | 4 => BitVec.ofNat 8 (el (2 * b) % 16 + 16 * (el (2 * b + 1) % 16))
  | 6 =>
    let g := 4 * (b / 3)
    let w := el g + 64 * el (g + 1) + 4096 * el (g + 2) + 262144 * el (g + 3)
    BitVec.ofNat 8 (w / 256 ^ (b % 3) % 256)
  | 16 => BitVec.ofNat 8 (el (b / 2) / 256 ^ (b % 2) % 256)
  | 32 => BitVec.ofNat 8 (el (b / 4) / 256 ^ (b % 4) % 256)
  | _ => BitVec.ofNat 8 (el b % 256)

/-! ## Rounding -/

/-- The largest n below 2^(k+1) with n * 2^u not above the value, by bits from `k` down. -/
def floorBits (c : Cmp) (u : Int) : Nat → Nat → Nat
  | 0, n => if c ⟨(n + 1 : Nat), u⟩ = .lt then n else n + 1
  | k + 1, n =>
    if c ⟨(n + 2 ^ (k + 1) : Nat), u⟩ = .lt then floorBits c u k n else floorBits c u k (n + 2 ^ (k + 1))

/-- Rounds to the grid 2^u, `n` the floor: to nearest with ties to even, or with the 24-bit draw
`r` of 02 R48 (up exactly if r < floor(f * 2^24)). -/
def roundGrid (c : Cmp) (u : Int) (n : Nat) : Option Nat → Nat
  | none =>
    match c ⟨(2 * n + 1 : Nat), u - 1⟩ with
    | .lt => n
    | .gt => n + 1
    | .eq => if n % 2 = 0 then n else n + 1
  | some r => if c ⟨(n * 2 ^ 24 + r + 1 : Nat), u - 24⟩ = .lt then n else n + 1

/-- The largest k from `hi` down over `n` steps with 2^k not above the value. -/
def topExp (c : Cmp) (hi : Int) : Nat → Option Int
  | 0 => none
  | n + 1 => if c (pow2 hi) = .lt then topExp c (hi - 1) n else some hi

/-- Rounds a non-zero magnitude to the unbounded grid of a format: significand and exponent;
none if the value is 2^(maxk + 1) or more. In SR mode a magnitude between the largest finite value and the next grid step is rounded to one of
these two, and the second is then clamped with OUT_HIGH (DESIGN CHOICE, log entry 60). -/
def roundFloat (f : FloatFmt) (c : Cmp) (r : Option Nat) : Option (Nat × Int) :=
  if c (pow2 (f.maxk + 1)) ≠ .lt then none else
  let steps := (f.maxk - (f.emin + f.mbits) + 1).toNat
  let u : Int := match topExp c f.maxk steps with
    | some k => k - f.mbits
    | none => f.emin
  let n := floorBits c u f.mbits 0
  some (roundGrid c u n r, u)

/-- Sign, significand and exponent as the bits of a format. -/
def encodeFloat (f : FloatFmt) (neg : Bool) (n : Nat) (u : Int) : Nat :=
  let (n, u) := if n = 2 ^ (f.mbits + 1) then (2 ^ f.mbits, u + 1) else (n, u)
  let s := b2n neg * 2 ^ (f.mbits + f.ebits)
  if n < 2 ^ f.mbits then s + n
  else s + (u - f.emin + 1).toNat * 2 ^ f.mbits + (n - 2 ^ f.mbits)

/-- 02 R44 for a value that is not invalid: clamps to the largest finite value with OUT_HIGH,
raises OUT_LOW when a non-zero value becomes zero, and gives +0 for an exact zero. -/
def toFloat (f : FloatFmt) (code : Nat) (neg zero : Bool) (c : Cmp) (r : Option Nat) : Nat × Ev :=
  if zero then (0, {})
  else
    let top := encodeFloat f neg f.maxn (f.maxk - f.mbits)
    match roundFloat f c r with
    | none => (top, evOutHigh code)
    | some (n, u) =>
      if DyOps.cmp ⟨n, u⟩ ⟨f.maxn, f.maxk - f.mbits⟩ = .gt then (top, evOutHigh code)
      else (encodeFloat f neg n u, evIf (n = 0) (evOutLow code))

/-- 02 R45, and 03 R75 fn 2 with a wider range: an integer of `w` bits. -/
def toInt (w code : Nat) (neg zero : Bool) (c : Cmp) (r : Option Nat) : Nat × Ev :=
  if zero then (0, {})
  else if c (pow2 (w + 1)) ≠ .lt then
    ((if neg then 2 ^ (w - 1) else 2 ^ (w - 1) - 1), evOutHigh code)
  else
    let n := roundGrid c 0 (floorBits c 0 w 0) r
    if neg && n > 2 ^ (w - 1) then (2 ^ (w - 1), evOutHigh code)
    else if !neg && n ≥ 2 ^ (w - 1) then (2 ^ (w - 1) - 1, evOutHigh code)
    else ((if neg then (2 ^ w - n) % 2 ^ w else n), evIf (n = 0) (evOutLow code))

/-- GL4 candidates for code m, as a + b * sqrt 2 (02 R38 R47). -/
def gl4Cand (m : Nat) : Dy2 :=
  match decodeElem 8 m with
  | some x => x
  | none => inj2 (ofInt 0)

/-- The largest code m from `k` down whose candidate is not above u. -/
def gl4Floor (u : Dy2) : Nat → Nat
  | 0 => 0
  | k + 1 => if cmp2 u (gl4Cand (k + 1)) = .lt then gl4Floor u k else k + 1

/-- 02 R47 for one element: `u` is the normalised magnitude. -/
def toGl4 (neg zero : Bool) (u : Dy2) (r : Option Nat) : Nat × Ev :=
  if zero then (0, {})
  else if cmp2 u (gl4Cand 7) = .gt then (7 + 8 * b2n neg, evOutHigh 8)
  else
    let m := gl4Floor u 7
    let lo := gl4Cand m
    let hi := gl4Cand (m + 1)
    let up : Bool :=
      if m = 7 then false else
      match r with
      | none =>
        match sign2 (sub2 (mulD2 u (ofInt 2)) (add2 lo hi)) with
        | .gt => true
        | .lt => false
        | .eq => m % 2 = 1
      | some r =>
        sign2 (sub2 (mulD2 (sub2 u lo) (pow2 24)) (mulD2 (sub2 hi lo) (ofInt (r + 1)))) ≠ .lt
    let m' := if up then m + 1 else m
    (if m' = 0 then 0 else m' + 8 * b2n neg, evIf (m' = 0) (evOutLow 8))

/-- The exact sign and zero test of a source value. -/
def isNeg (x : Dy2) : Bool := sign2 x = .lt
def isZero (x : Dy2) : Bool := sign2 x = .eq

/-- The largest magnitude of a block. -/
def maxAbs : List Dy2 → Dy2
  | [] => inj2 (ofInt 0)
  | x :: r => let m := maxAbs r; if cmp2 (abs2 x) m = .gt then abs2 x else m

/-- 02 R46: the scale of an MX block, clamped to 0 to 254. -/
def mxScale (emax : Int) (m : Dy2) : Nat :=
  if isZero m then 127 else
  match topExp (cmpOf2 m) (emax + 127) 254 with
  | some k => (k - emax + 127).toNat
  | none => 0

/-- emax of 02 R46. -/
def mxEmax : Nat → Int
  | 3 => 8
  | 4 => 15
  | 5 => 2
  | 6 => 4
  | _ => 2

/-- 02 R47: S = 127 + ceil(log2 max), clamped to 0 to 254. -/
def gl4Scale (m : Dy2) : Nat :=
  if isZero m then 127 else
  match topExp (cmpOf2 m) 127 255 with
  | none => 0
  | some k => if cmpOf2 m (pow2 k) = .eq then (k + 127).toNat else min 254 (k + 128).toNat

/-- Conversion of one element to format `c` after its block scale has been divided out; none is
an invalid element (02 Table 2-7). `r` is the draw of its lane in SR mode. -/
def convElem (c : Nat) (x : Option Dy2) (r : Option Nat) : Nat × Ev :=
  match x with
  | none =>
    ((match c with | 10 => 0x7FC00000 | 9 => 0x7FC0 | 0 | 1 => 0x7F | _ => 0), evOutInvalid c)
  | some v =>
    match c with
    | 2 => toInt 8 2 (isNeg v) (isZero v) (cmpOf2 v) r
    | 8 => toGl4 (isNeg v) (isZero v) (abs2 v) r
    | _ =>
      match floatOf c with
      | some f => toFloat f c (isNeg v) (isZero v) (cmpOf2 v) r
      | none => (0, {})

/-- Conversion of a block to an MX format or GL4 (02 R46 R47): scale byte and elements. An
invalid element makes the block invalid: scale 0xFF, every element 0. -/
def convBlock (c : Nat) (xs : List (Option Dy2)) (rs : List (Option Nat)) : Nat × List Nat × Ev :=
  if xs.any (·.isNone) then
    (255, xs.map fun _ => 0, evAll (xs.map fun x => evIf x.isNone (evOutInvalid c)))
  else
    let vs := xs.map fun x => x.getD (inj2 (ofInt 0))
    let s := if c = 8 then gl4Scale (maxAbs vs) else mxScale (mxEmax c) (maxAbs vs)
    let ys := (vs.zip rs).map fun p => convElem c (some (mulD2 p.1 (pow2 (127 - (s : Int))))) p.2
    (s, ys.map (·.1), evAll (ys.map (·.2)))

/-- A list cut into runs of `n`. -/
def chunks {α : Type} (n : Nat) : Nat → List α → List (List α)
  | 0, _ => []
  | k + 1, l => l.take n :: chunks n k (l.drop n)

/-- Conversion of a run of elements to format `c`: elements, scale bytes, events. -/
def convRun (c : Nat) (xs : List (Option Dy2)) (rs : List (Option Nat)) : List Nat × List Nat × Ev :=
  let b := blockLen c
  if b = 0 then
    let ys := (xs.zip rs).map fun p => convElem c p.1 p.2
    (ys.map (·.1), [], evAll (ys.map (·.2)))
  else
    let k := xs.length / b
    let ys := ((chunks b k xs).zip (chunks b k rs)).map fun p => convBlock c p.1 p.2
    ((ys.map (·.2.1)).flatten, ys.map (·.1), evAll (ys.map (·.2.2)))

/-! ## Stochastic rounding lanes (02 R48 R49) -/

/-- One shift of x^32 + x^22 + x^2 + x + 1. -/
def lfsrStep (s : Word) : Word :=
  let fb := (s >>> 31) ^^^ (s >>> 21) ^^^ (s >>> 1) ^^^ s
  (s <<< 1) ||| (fb &&& 1#32)

/-- `n` shifts. -/
def lfsrSteps : Nat → Word → Word
  | 0, s => s
  | n + 1, s => lfsrSteps n (lfsrStep s)

/-- 02 R48: 32 shifts. -/
def lfsrNext (s : Word) : Word := lfsrSteps 32 s

/-- The draw of a lane: the state after the advance and bits [31:8]. -/
def draw (s : Word) : Word × Nat :=
  let s' := lfsrNext s
  (s', (s' >>> 8).toNat)

/-- Draws for elements that use the given lanes in order, in SR mode; in RNE mode no lane moves. -/
def drawLanes (sr : Bool) (l : SMap Word) : List Nat → SMap Word × List (Option Nat)
  | [] => (l, [])
  | i :: r =>
    if sr then
      let (s, x) := draw (look 0 l i)
      let (l', xs) := drawLanes sr (put 0 l i s) r
      (l', some x :: xs)
    else
      let (l', xs) := drawLanes sr l r
      (l', none :: xs)

/-- 02 R49: the seed of a lane. -/
def srSeed (vs : BitVec 64) (x y lane : Nat) (ordinal : Word) : Word :=
  let lo : Word := vs.setWidth 32
  let hi : Word := (vs >>> 32).setWidth 32
  let s := lo ^^^ hi.rotateLeft 7 ^^^ (ordinal * 0x9E3779B9#32)
    ^^^ (BitVec.ofNat 32 x <<< 24) ^^^ (BitVec.ofNat 32 y <<< 16) ^^^ BitVec.ofNat 32 lane
  lfsrSteps 64 (if s = 0 then 1 else s)

/-- Every lane seeded for an ordinal. -/
def seedLanes (vs : BitVec 64) (x y : Nat) (ordinal : Word) : SMap Word :=
  putRange 0 [] 0 (fun i => srSeed vs x y i ordinal) 96

/-! ## FP32 values in the vector unit (02 R34, 03 R68) -/

/-- A binary32 value. -/
inductive F32 where
  | nan
  | inf (neg : Bool)
  | fin (neg : Bool) (mag : Dy)
  deriving DecidableEq, Repr

def decodeF32 (w : Word) : F32 :=
  let x := w.toNat
  let m : Nat := x % 2 ^ 23
  let e : Nat := x / 2 ^ 23 % 256
  let neg : Bool := x / 2 ^ 31 == 1
  if e = 255 then (if m = 0 then .inf neg else .nan)
  else .fin neg (if e = 0 then ⟨(m : Int), -149⟩ else ⟨((m + 2 ^ 23 : Nat) : Int), (e : Int) - 150⟩)

/-- The canonical NaN. -/
def canonNan : Word := 0x7FC00000#32

/-- An infinity. -/
def infWord (neg : Bool) : Word := if neg then 0xFF800000#32 else 0x7F800000#32

/-- A zero. -/
def zeroWord (neg : Bool) : Word := if neg then 0x80000000#32 else 0#32

/-- The signed value of a finite binary32. -/
def F32.val : F32 → Dy
  | .fin neg m => if neg then DyOps.neg m else m
  | _ => ofInt 0

/-- fp32_round of a finite value (03 R68), given by sign, zero test, the sign of an exact zero,
and its comparison; `r` is the draw in SR mode. -/
def fp32Round (neg zero zneg : Bool) (c : Cmp) (r : Option Nat) : Word × Ev :=
  if zero then (zeroWord zneg, {})
  else
    match roundFloat fFP32 c r with
    | none => (infWord neg, evOutHigh 10)
    | some (n, u) =>
      if DyOps.cmp ⟨n, u⟩ (pow2 128) ≠ .lt then (infWord neg, evOutHigh 10)
      else (BitVec.ofNat 32 (encodeFloat fFP32 neg n u), evIf (n = 0) (evOutLow 10))

/-- fp32_round of an exact dyadic value; `zneg` is the sign of an exact zero. -/
def fp32OfDy (x : Dy) (zneg : Bool) (r : Option Nat) : Word × Ev :=
  fp32Round (x.m < 0) (x.m = 0) zneg (cmpOfD x) r

/-! ## Operand tiles (03 R58 Tables 3-3, 2-4) -/

/-- K of the pair (02 Table 2-4): none if the pair is not listed. -/
def pairDepth (fa fb : Nat) : Option Nat :=
  if fa ≤ 1 && fb ≤ 1 then some 32
  else if fa = 2 && fb = 2 then some 32
  else if (fa = 3 || fa = 4) && (fb = 3 || fb = 4) then some 32
  else if (5 ≤ fa && fa ≤ 7) && (5 ≤ fb && fb ≤ 7) then some 64
  else if (fa = 3 || fa = 4) && (5 ≤ fb && fb ≤ 7) then some 32
  else if (5 ≤ fa && fa ≤ 7) && (fb = 3 || fb = 4) then some 32
  else if fa = 8 && fb = 8 then some 64
  else if fa = 9 && fb = 9 then some 32
  else none

/-- Bytes of one row of K elements. -/
def rowBytes (c k : Nat) : Nat := elemBits c * k / 8

/-- Scale bytes of one row. -/
def rowScales (c k : Nat) : Nat := if blockLen c = 0 then 0 else k / blockLen c

/-- The tile stride of Table 3-3: elements, scales and pad to a multiple of 64. -/
def tileStride (c k : Nat) : Nat := (32 * rowBytes c k + 32 * rowScales c k + 63) / 64 * 64

/-- Element (row, k) of an operand tile whose byte i is `byte i`: its exact value with the block
scale, none if invalid (02 R39). -/
def tileElem (c k : Nat) (byte : Nat → Byte) (row j : Nat) : Option Dy2 :=
  let base := row * rowBytes c k
  match decodeElem c (packedAt c (fun i => byte (base + i)) j) with
  | none => none
  | some x =>
    if blockLen c = 0 then some x
    else
      let sc := byte (32 * rowBytes c k + row * rowScales c k + j / blockLen c)
      match decodeScale sc.toNat with
      | none => none
      | some s => some (mulD2 x s)

/-! ## EA96 accumulation (02 R40 R41 R43, 07 R176) -/

/-- Rounds an exact dyadic number to an integer, ties to even. -/
def roundInt (x : Dy) : Int :=
  if x.e ≥ 0 then x.m * 2 ^ x.e.toNat
  else
    let d : Int := 2 ^ (-x.e).toNat
    let q := x.m / d
    let r := 2 * (x.m - q * d)
    if r > d then q + 1 else if r < d then q else if q % 2 = 0 then q else q + 1

/-- Whether an exact dyadic number is an integer. -/
def isInt (x : Dy) : Bool := x.e ≥ 0 || x.m % 2 ^ (-x.e).toNat = 0

/-- Puts an exact sum into an element, saturating (02 R41, 07 R176). -/
def clampElem (x : Elem) (s : Int) : Elem × Bool :=
  if s > 2 ^ 95 - 1 then ({ x with a := BitVec.ofInt 96 (2 ^ 95 - 1), sat := true }, true)
  else if s < -(2 ^ 95) then ({ x with a := BitVec.ofInt 96 (-(2 ^ 95)), sat := true }, true)
  else ({ x with a := BitVec.ofInt 96 s }, false)

/-- What one operation did to one element (02 R41): invalid input, rounded below the grid,
saturated. -/
structure AccOut where
  inv : Bool
  low : Bool
  high : Bool
  deriving DecidableEq, Repr

/-- 02 R41: adds the terms of one operation to an element under scale exponent `t`. -/
def accumulate (x : Elem) (terms : List (Option Dy)) (t : Int) : Elem × AccOut :=
  if terms.any (·.isNone) then ({ x with inv := true }, ⟨true, false, false⟩)
  else if x.inv || x.sat then (x, ⟨false, false, false⟩)
  else
    let qs := terms.map fun u => shift (u.getD (ofInt 0)) (48 - t)
    let sum := (qs.map roundInt).foldl (· + ·) 0
    let (y, hi) := clampElem x (x.a.toInt + sum)
    (y, ⟨false, qs.any (fun q => !isInt q), hi⟩)

/-- The events of an accumulation counted under format code `c`; a term rounded below the grid
is an event for exact formats only (02 R41 R42). -/
def accEv (c : Nat) (exact_ : Bool) (o : AccOut) : Ev :=
  (evIf o.inv (evAccInvalid c)).and ((evIf (o.low && exact_) (evAccLow c)).and (evIf o.high (evAccHigh c)))

/-- 07 R176: two elements of one tag merge. -/
def mergeElem (x y : Elem) : Elem :=
  let inv := x.inv || y.inv
  let sat := x.sat || y.sat
  if inv then { a := 0, sat := sat, inv := true }
  else { (clampElem { a := 0, sat := sat, inv := false } (x.a.toInt + y.a.toInt)).1 with inv := false }

/-- 07 R177: an FP32 lane as an element at scale exponent `t`. -/
def fp32ToElem (w : Word) (t : Int) : Elem :=
  match decodeF32 w with
  | .fin _ _ => (clampElem {} (roundInt (shift (decodeF32 w).val (48 - t)))).1
  | _ => { inv := true }

/-- The exact value of an element under `t` (02 R40), times 2^sh. -/
def elemVal (x : Elem) (t sh : Int) : Dy := ⟨x.a.toInt, t - 48 + sh⟩

end Sys2Proof.Machine
end

