-- ==== Sys2Proof/Machine/Encoding.lean ====
section
/-! DEFINITION. When a decoded slot operation is well formed (02 R25, 03 R52 R59 to R61 R67 R70 R79, 04 R80 R91 to R97 R104 R105) and the registers that a slot reads and writes (02 R28 and the Timing lines of 03 and 04). -/

namespace Sys2Proof.Machine

open Sys2Proof

/-- Bytes of a row of a read-out (03 Table 3-7). -/
def mrdRow (c : Nat) : Nat := rowBytes c 32

/-- V registers of a read-out (03 Table 3-7). -/
def mrdRegs (c : Nat) : Nat := 32 * mrdRow c / 512

def hasScales (c : Nat) : Bool := blockLen c ≠ 0

/-- 03 R59 to R61. -/
def mOk : MOp → Bool
  | .nop => true
  | .mma f => (pairDepth f.fa.toNat f.fb.toNat).isSome && !(f.fa.toNat = 8 && f.ed.toNat % 2 = 1)
      && !(f.inc && f.pa = f.pb)
  | .mrd f => f.fo.toNat ≤ 10 && !(f.pair && f.es.toNat % 2 = 1)
      && (if f.dst then !hasScales f.fo.toNat && f.vd.toNat + mrdRegs f.fo.toNat ≤ 32 && f.pd = 0 && f.od = 0
          else f.vd = 0)
  | .mclr f => !(f.pair && f.ed.toNat % 2 = 1)
  | .mst _ => true
  | .mld _ => true

/-- The fields of form VR that an instruction uses: b, c, broadcast, flag write (03 R52 R67). -/
def vrOk (f : VrF) (b c bb fw : Bool) : Bool :=
  (b || f.vb = 0) && (c || f.vc = 0)
    && (if bb then f.bb || f.lane = 0 else !f.bb && f.lane = 0)
    && (if fw then (if f.fw then f.fd ≠ 7 else f.fd = 0 && f.fbit = 0) else !f.fw && f.fd = 0 && f.fbit = 0)

/-- VQ form: element formats 0 to 9, scale fields zero for formats without scales (03 R70). -/
def vqOk (f : VqF) : Bool := f.fmt.toNat ≤ 9 && (hasScales f.fmt.toNat || (f.ps = 0 && f.os = 0))

/-- Comparison codes of 03 Table 3-17. -/
def cmpFn (fn : Nat) : Bool := fn ≤ 5 || (8 ≤ fn && fn ≤ 10)

/-- 03 R67 and the instructions' own conditions. Vb and Vc of VFP may hold any value for a function that does not read them: R52 leaves open whether fn is a
mode value (DESIGN CHOICE, log entry 60). -/
def vOk : VOp → Bool
  | .nop => true
  | .vld _ => true
  | .vst _ => true
  | .vdq f => vqOk f
  | .vqnt f => vqOk f
  | .vfp f => f.fn.toNat ≤ 9 && (!f.rm || f.fn.toNat ≤ 4) && vrOk f true true true false
  | .vfpi f => f.fn.toNat ≤ 9 && (!f.rm || f.fn.toNat ≤ 4)
  | .vint f => f.fn.toNat ≤ 10 && !f.rm && vrOk f true false true false
  | .vinti f => f.fn.toNat ≤ 10 && !f.rm
  | .vcmp f => cmpFn f.fn.toNat && !f.rm && vrOk f true false true true
  | .vsel f => f.fn = 0 && !f.rm && vrOk f true true false false
  | .vcvt f => f.fn.toNat ≤ 3 && !(f.rm && f.fn = 1) && vrOk f false false false false
  | .vtr f => f.fn.toNat ≤ 4 && vrOk f false false false false
  | .vexpd f => f.fn = 0 && vrOk f true true true false
  | .vred f => f.fn.toNat ≤ 4 && (!f.rm || f.fn = 0) && vrOk f false false false false
  | .vtopk f => f.km1.toNat ≤ f.nm1.toNat && (if f.fw then f.fd ≠ 7 else f.fd = 0 && f.wnd = 0)

/-- 04 R80 R91 R92 R94 to R97. -/
def cOk : COp → Bool
  | .cwait f => f.fd = 0 && f.fbit = 0
  | .ctest f => f.fd ≠ 7
  | .cstat _ fd => fd ≠ 7
  | .cfence m => m ≠ 0
  | .bopen f => 1 ≤ f.len.toNat && f.len.toNat ≤ 98304 && (f.nen || f.qe = 0)
  | .bclose f => f.aen || f.qe = 0
  | _ => true

/-- 04 Table 4-13, R80 R105. -/
def sOk : SOp → Bool
  | .loop f => !f.r || f.count.toNat % 2 ^ 20 = 0
  | .pmov f => f.ul || (f.ls = 0 && f.scale = 0)
  | .fset f => f.mode ≠ 3 && (f.fd ≠ 7 || f.mode = 1)
  | _ => true

/-! ## Registers read and written (02 R28) -/

/-- A tile or a pair. -/
def tiles (e : BitVec 3) (pair : Bool) : List Reg := if pair then [.e e, .e (e + 1)] else [.e e]

/-- V registers from vd. -/
def vRun (vd : BitVec 5) (n : Nat) : List Reg := (List.range n).map fun i => .v (vd + BitVec.ofNat 5 i)

def mWrites : MOp → List Reg
  | .nop => []
  | .mma f => tiles f.ed (f.fa = 8) ++ (if f.inc then [.p f.pa, .p f.pb] else [])
  | .mrd f => (if f.dst then vRun f.vd (mrdRegs f.fo.toNat) else []) ++ (if f.clr then tiles f.es f.pair else [])
  | .mclr f => tiles f.ed f.pair
  | .mst f => if f.flag then [.e f.e] else []
  | .mld f => [.e f.e]

def mReads : MOp → List Reg
  | .nop => []
  | .mma f => tiles f.ed (f.fa = 8) ++ [.p f.pa, .p f.pb]
  | .mrd f => tiles f.es f.pair ++ (if f.dst then [] else [.p f.pd])
  | .mclr _ => []
  | .mst f => [.e f.e, .p f.p]
  | .mld f => [.e f.e, .p f.p]

def vWrites : VOp → List Reg
  | .nop => []
  | .vld f => [.v f.vr]
  | .vst _ => []
  | .vdq f => [.v f.vr]
  | .vqnt _ => []
  | .vfp f | .vint f | .vsel f | .vcvt f | .vtr f | .vexpd f | .vred f => [.v f.vd]
  | .vfpi f | .vinti f => [.v f.vd]
  | .vcmp f => .v f.vd :: (if f.fw then [.f f.fd] else [])
  | .vtopk f => .v f.vd :: (if f.fw then [.f f.fd] else [])

def vReads : VOp → List Reg
  | .nop => []
  | .vld f => [.p f.p]
  | .vst f => [.v f.vr, .p f.p]
  | .vdq f => .p f.pe :: (if hasScales f.fmt.toNat then [.p f.ps] else [])
  | .vqnt f => [.v f.vr, .p f.pe] ++ (if hasScales f.fmt.toNat then [.p f.ps] else [])
  | .vfp f => [.v f.va, .v f.vb, .v f.vc]
  | .vfpi f => [.v f.va, .v f.vd]
  | .vint f => [.v f.va, .v f.vb]
  | .vinti f => [.v f.va]
  | .vcmp f => [.v f.va, .v f.vb] ++ (if f.fw then [.f f.fd] else [])
  | .vsel f => [.v f.va, .v f.vb, .v f.vc]
  | .vcvt f | .vtr f | .vred f => [.v f.va]
  | .vexpd f => [.v f.va, .v f.vb, .v f.vc]
  | .vtopk f => [.v f.va]

def cWrites : COp → List Reg
  | .ctest f => [.f f.fd]
  | .cstat _ fd => [.f fd]
  | _ => []

def cReads : COp → List Reg
  | .cxfr f => [.p f.p]
  | .bopen f => [.p f.p]
  | .ctest f => [.f f.fd]
  | .cstat _ fd => [.f fd]
  | _ => []

/-- The P field of a LOOP whose count comes from a pointer (04 Table 4-13). -/
def loopP (f : LoopF) : BitVec 4 := BitVec.ofNat 4 (f.count.toNat / 2 ^ 20)

/-- The registers that a MOOR clears: V, E and F0 to F6 (04 R110). -/
def moorClears : List Reg :=
  ((List.range 32).map fun i => .v (BitVec.ofNat 5 i)) ++ ((List.range 8).map fun i => .e (BitVec.ofNat 3 i)) ++
    (List.range 7).map fun i => .f (BitVec.ofNat 3 i)

/-- The registers that a MOOR records: P, L and F7. -/
def moorReads : List Reg :=
  ((List.range 16).map fun i => .p (BitVec.ofNat 4 i)) ++ ((List.range 4).map fun i => .l (BitVec.ofNat 2 i)) ++ [.f 7]

def sWrites : SOp → List Reg
  | .loop f => [.l f.ln]
  | .pset f => [.p f.pd]
  | .pmov f => [.p f.pd]
  | .fset f => [.f f.fd]
  | .moor _ => moorClears
  | _ => []

def sReads : SOp → List Reg
  | .loop f => .l f.ln :: (if f.r then [.p (loopP f)] else [])
  | .xcall f => [.p f.p]
  | .brf f => [.f f.fd]
  | .pset f => if f.add then [.p f.pd] else []
  | .pmov f => .p f.ps :: (if f.ul then [.l f.ls] else [])
  | .fset f => [.f f.fd]
  | .moor _ => moorReads
  | .rsend f => [.p f.p]
  | _ => []

def stepReads (st : Step4) : List Reg := mReads st.m ++ vReads st.v ++ cReads st.c ++ sReads st.s
def stepWrites (st : Step4) : List Reg := mWrites st.m ++ vWrites st.v ++ cWrites st.c ++ sWrites st.s

/-- Whether two lists have no register in common. -/
def disjoint (a b : List Reg) : Bool := a.all fun r => decide (r ∉ b)

/-- No two slots write the same register (02 R25). -/
def slotsDisjoint (st : Step4) : Bool :=
  disjoint (mWrites st.m) (vWrites st.v) && disjoint (mWrites st.m) (cWrites st.c)
    && disjoint (mWrites st.m) (sWrites st.s) && disjoint (vWrites st.v) (cWrites st.c)
    && disjoint (vWrites st.v) (sWrites st.s) && disjoint (cWrites st.c) (sWrites st.s)

/-- MOOR and END stand alone in their step (04 R110 R112). -/
def aloneOk (st : Step4) : Bool :=
  match st.s with
  | .moor _ | .fin => st.m = .nop && st.v = .nop && st.c = .nop
  | _ => true

/-- A step that is not malformed by itself (02 R25). -/
def stepOk (st : Step4) : Bool :=
  mOk st.m && vOk st.v && cOk st.c && sOk st.s && slotsDisjoint st && aloneOk st

/-! ## Steps of one slot -/

def onlyM (m : MOp) : Step4 := ⟨m, .nop, .nop, .nop⟩
def onlyV (v : VOp) : Step4 := ⟨.nop, v, .nop, .nop⟩
def onlyC (c : COp) : Step4 := ⟨.nop, .nop, c, .nop⟩
def onlyS (t : SOp) : Step4 := ⟨.nop, .nop, .nop, t⟩

end Sys2Proof.Machine
end

