-- ==== Sys2Proof/Machine/Flow.lean ====
section
/-! DEFINITION. Checks of a manifest as a whole: what its voyage binds (04 R96 R108 R109, 06 R137), nested control flow (04 R100 R101 R103), and the depth of the loop stack (02 R30). -/

namespace Sys2Proof.Machine

open Sys2Proof

/-- First step of the overlay window and steps of manifest memory (02 R31). -/
def overlayBase : Nat := 7168
def stepCount : Nat := 8192

/-- Whether core (x, y) lies in a binding's contributor rectangle (07 Table 7-9). -/
def contributes (b : Binding) (x y : Nat) : Bool :=
  decide (b.cx0.toNat ≤ x) && decide (x ≤ b.cx1.toNat) && decide (b.cy0.toNat ≤ y) && decide (y ≤ b.cy1.toNat)

/-- The binding of a tag. -/
def findTag (img : Image) (tag : BitVec 16) : Option Binding := img.tags.find? fun b => b.tag = tag

/-- Whether a binding's destination is core (x, y). -/
def destCore (b : Binding) (x y : Nat) : Bool := b.dtype = 0 && b.da.toNat = x && b.db.toNat = y

/-- Conditions on a step that its voyage decides. -/
def stepFits (img : Image) (x y : Nat) (qopen : Nat → Bool) (overlay : Bool) (st : Step4) : Bool :=
  (match st.c with
    | .bopen f => decide (f.src.toNat < img.sources.length) && (!f.nen || qopen f.qe.toNat)
    | _ => true) &&
  (match st.s with
    | .xcall _ => !overlay
    | .rsend f =>
      (match findTag img f.tag with
        | some b => decide (b.kind.toNat = b2n f.kind) && contributes b x y
        | none => false)
    | .rwait tag =>
      (match findTag img tag with
        | some b => destCore b x y
        | none => false)
    | _ => true)

/-! ## Control flow (04 R100) -/

/-- The body of a loop: its LOOP step and END. -/
def loopsOf (base : Nat) (steps : List Step4) : List (Nat × Nat) :=
  steps.zipIdx.filterMap fun p =>
    match p.1.s with
    | .loop f => some (base + p.2, f.last.toNat)
    | _ => none

/-- Whether a step lies in a loop's body. -/
def inBody (l : Nat × Nat) (k : Nat) : Bool := decide (l.1 < k) && decide (k ≤ l.2)

/-- The region of a step (04 R100). -/
def inOverlay (k : Nat) : Bool := decide (overlayBase ≤ k)

/-- The smallest body that contains a step. -/
def innermost (ls : List (Nat × Nat)) (k : Nat) : Option (Nat × Nat) :=
  (ls.filter (inBody · k)).foldl (fun m l =>
    match m with
    | none => some l
    | some b => if l.2 - l.1 < b.2 - b.1 then some l else some b) none

/-- Whether step k of a manifest keeps control flow nested. `ext` is whether the manifest uses
the overlay window (04 R101). -/
def flowOk (ls : List (Nat × Nat)) (ext : Bool) (k : Nat) (st : Step4) : Bool :=
  let into (t : Nat) : Bool := ls.all fun l => !inBody l t || inBody l k
  let atEnd : Bool := ls.any fun l => l.2 = k
  match st.s with
  | .loop f =>
    let e := f.last.toNat
    decide (k < e) && (!ext || inOverlay k = inOverlay e) && !atEnd &&
      ls.all fun l => decide (l.2 ≤ k) || decide (e ≤ l.1) || (decide (l.1 ≤ k) && decide (e ≤ l.2))
        || (decide (k ≤ l.1) && decide (l.2 ≤ e))
  | .brf f =>
    let t := f.tgt.toNat
    !atEnd && (!ext || inOverlay k = inOverlay t) && into t &&
      (match innermost ls k with
        | some l => inBody l t
        | none => true)
  | .call t => !atEnd && into t.toNat && (!ext || decide (t.toNat < overlayBase))
  | .ret | .xcall _ => !atEnd
  | _ => true

/-- Whether any step makes an extension call. -/
def hasXcall (steps : List Step4) : Bool := steps.any fun st => match st.s with | .xcall _ => true | _ => false

/-! ## Depth (02 R30) -/

/-- Successors of a step at depth `d` with the ends of the loops on top of the last call frame;
none if a push would exceed 8 frames. -/
def flowNext (steps : List Step4) (n : Nat × Nat × List Nat) : Option (List (Nat × Nat × List Nat)) :=
  let (k, d, ls) := n
  match steps[k]? with
  | none => some []
  | some st =>
    let seq : List (Nat × Nat × List Nat) :=
      match ls with
      | l :: r => if l = k then [(k + 1, d - 1, r)] else [(k + 1, d, ls)]
      | [] => [(k + 1, d, ls)]
    match st.s with
    | .loop f =>
      let skip := (f.last.toNat + 1, d, ls)
      if !f.r && f.count = 0 then some [skip]
      else if d ≥ 8 then none
      else some ((k + 1, d + 1, f.last.toNat :: ls) :: (if f.r then [skip] else []))
    | .call t => if d ≥ 8 then none else some [(t.toNat, d + 1, []), (k + 1, d, ls)]
    | .xcall _ => if d ≥ 8 then none else some [(k + 1, d, ls)]
    | .ret | .fin => some []
    | .brf f => some [(f.tgt.toNat, d, ls), (k + 1, d, ls)]
    | _ => some seq

/-- Walks every reachable step at every depth; false where a push exceeds 8 frames. -/
def depthOk (steps : List Step4) : Nat → List (Nat × Nat × List Nat) → List (Nat × Nat × List Nat) → Bool
  | 0, _, _ => true
  | _ + 1, [], _ => true
  | n + 1, x :: r, seen =>
    if x ∈ seen then depthOk steps n r seen
    else
      match flowNext steps x with
      | none => false
      | some ys => depthOk steps n (ys ++ r) (x :: seen)

/-- The first malformed step of a manifest of `base`, none if there is none (02 R25). `outer` are the loop bodies
of the steps that stand beside it. -/
def badStep (img : Image) (x y : Nat) (qopen : Nat → Bool) (outer : List (Nat × Nat)) (base : Nat) (ext overlay : Bool)
    (words : List (BitVec 256)) : Option Nat :=
  let ds := words.map decodeStep
  let steps := ds.map fun d => d.getD (onlyS .nop)
  let ls := outer ++ loopsOf base steps
  (List.range words.length).find? fun i =>
    match ds.getD i none with
    | none => true
    | some st => !(stepOk st && stepFits img x y qopen overlay st && flowOk ls ext (base + i) st)

end Sys2Proof.Machine
end

