-- ==== Sys2Proof/Machine/Check.lean ====
section
/-! DEFINITION. Check values (04 R88): CRC-32C, CRC-32 and CRC-64/ECMA-182, reflected. -/

namespace Sys2Proof.Machine

open Sys2Proof

/-- The reflected polynomial of a check mode: 1 CRC-32C, 2 CRC-32, 3 CRC-64. -/
def checkPoly : Nat → BitVec 64
  | 1 => 0x82F63B78#64
  | 2 => 0xEDB88320#64
  | _ => 0xC96C5795D7870F42#64

/-- All ones in the width of a mode. -/
def checkOnes (mode : Nat) : BitVec 64 := if mode = 3 then 0xFFFFFFFFFFFFFFFF#64 else 0xFFFFFFFF#64

/-- One bit of the reflected register, `n` times. -/
def checkBits (poly : BitVec 64) : Nat → BitVec 64 → BitVec 64
  | 0, r => r
  | n + 1, r => checkBits poly n (if r.getLsbD 0 then (r >>> 1) ^^^ poly else r >>> 1)

/-- 04 R88 check_init. -/
def checkInit (mode : Nat) (raddr : Nat) (seq : BitVec 16) : BitVec 64 :=
  (checkOnes mode ^^^ (BitVec.ofNat 64 raddr &&& checkOnes mode)) ^^^ seq.setWidth 64

/-- The register after the bytes of a string. -/
def checkRun (mode : Nat) : BitVec 64 → Bytes → BitVec 64
  | r, [] => r
  | r, b :: bs => checkRun mode (checkBits (checkPoly mode) 8 (r ^^^ b.setWidth 64)) bs

/-- The check value of a register. -/
def checkEnd (mode : Nat) (r : BitVec 64) : BitVec 64 := r ^^^ checkOnes mode

/-- The check value of a string. -/
def checkOf (mode raddr : Nat) (seq : BitVec 16) (b : Bytes) : BitVec 64 :=
  checkEnd mode (checkRun mode (checkInit mode raddr seq) b)

end Sys2Proof.Machine
end

