-- ==== Sys2Proof/Config.lean ====
section
/-! DEFINITION. What the spec leaves open or what an implementation fixes: constants without a body, so that no proof can rest on a value of theirs. -/

namespace Sys2Proof.Config

open Sys2Proof

/-- The n-th free value (log entry 1): a value the spec leaves open, drawn once and never chosen. -/
opaque freeWord : Nat → BitVec 64

/-- The version that GET_INFO reports in FWVER (10 Table 10-11) comes from the image header;
before an image is known it is whatever the part was shipped with. -/
opaque shippedVersion : Word

/-- SLH-DSA-SHA2-128s verification (14 Table 14-9): key, message, signature. -/
opaque sigVerify : Bytes → Bytes → Bytes → Bool

/-- SHA-256 (14 Table 14-9). -/
opaque sha256 : Bytes → Bytes

/-- The n-th output of the DRBG after k reseeds (14 Table 14-9 CTR_DRBG). -/
opaque drbg : Nat → Nat → Bytes

/-- AES-256-GCM of a crash dump (14 R373): dump key number, IV number, associated data, plaintext. -/
opaque gcmSeal : Nat → Nat → Bytes → Bytes → Bytes

/-- The GCM tag of the same. -/
opaque gcmTag : Nat → Nat → Bytes → Bytes → Bytes

/-- ML-KEM-1024 encapsulation to a key with the randomness of a DRBG draw (14 R371 R373):
the ciphertext. -/
opaque kemCipher : Bytes → Bytes → Bytes

/-- The shared secret of the same encapsulation. -/
opaque kemSecret : Bytes → Bytes → Bytes

/-- Signature of the device identity key (14 R370). -/
opaque identitySign : Bytes → Bytes

/-- The certificate chain that Soldusin provisions into slot 0 (14 R370). -/
opaque certChain : Bytes

/-- ROM public keys (14 R363): purpose 0 firmware, 1 licence, 2 partner admission; key 0 or 1. -/
opaque romKey : Nat → Nat → Bytes

/-- The ROM image (14 Table 14-12 block 1). -/
opaque rom : Bytes

/-- Firmware images in the slots as shipped: component 0 lighthouse, 1 harbour. -/
opaque shippedImage : Nat → Bytes

/-- The bytes in which a record lists numbers whose layout the spec does not give (log entry 1): record
kind 0 topology report, 1 sensor detail, 2 IDE_KM response, 3 fuses, 4 security state. -/
opaque layout : Nat → List Int → Bytes

/-- Identity keys installed at manufacture (14 R368): the Crypto Officer's, by slot. -/
opaque officerKey : Nat → Bytes

/-- The service recipient key to which the dump key is bound at manufacture (14 R373). -/
opaque serviceKey : Bytes

/-- SVN fuses at manufacture (14 Table 14-16): component 0 lighthouse, 1 harbour. -/
opaque svnFuse : Nat → Nat

end Sys2Proof.Config
end

