-- ==== Sys2Proof/Machine/RegMap.lean ====
section
/-! DEFINITION. The register map of BAR0 (10 R239 Table 10-2 and the register tables of 07, 08, 10, 11, 12, 13, 14): for each 32-bit word by byte offset, its fields by access type (00 R6) and its reset value. -/

namespace Sys2Proof.Machine

open Sys2Proof

/-- The fields of a register word by access type; bits in none of them are RO or reserved. -/
structure RegDef where
  rw : Word := 0
  w1c : Word := 0
  rc : Word := 0
  reset : Word := 0
  deriving DecidableEq, Repr

/-- A cause register of `n` bits. -/
def causeDef (m : Word) : RegDef := { w1c := m }

/-- A mask register, set at reset. -/
def maskDef (m : Word) : RegDef := { rw := m, reset := m }

/-! Block bases (10 Table 10-2). -/
def hmBase : Nat := 0x20000
def irqBase : Nat := 0x60000
def fabBase : Nat := 0x70000
def pwrBase : Nat := 0x80000
def clkBase : Nat := 0x90000
def thmBase : Nat := 0xA0000
def secBase : Nat := 0xB0000
def lnkBase : Nat := 0xC0000
def msixBase : Nat := 0xF0000

/-- HM registers of Tables 10-3 and 13-7. -/
def hmDef : Nat → RegDef
  | 0x00 => { reset := 0x5184 }
  | 0x10 => { reset := 0x8 }
  | 0x20 => causeDef 0xF
  | 0x24 => maskDef 0xF
  | 0x2C => { rw := 0xFFFFFFFF }
  | 0x30 => causeDef 0x7F
  | 0x34 => maskDef 0x7F
  | 0x40 => causeDef 0x3FFF
  | 0x44 => maskDef 0x3FFF
  | 0x48 => causeDef 0x3F
  | 0x4C => maskDef 0x3F
  | _ => {}

/-- HM_MIF registers (08 R194 Tables 8-3 to 8-5). -/
def mifDef : Nat → RegDef
  | 0x00 => causeDef 0xFFF
  | 0x04 => maskDef 0xFFF
  | 0x08 => { rc := 0xFFFFFFFF }
  | 0x0C => { rc := 0xFFFFFFFF }
  | _ => {}

/-- HM_CORE_CAUSE, HM_CORE_MASK and HM_CORE_FIRST (10 R265 Table 10-22). -/
def coreLeafDef : Nat → RegDef
  | 0x0 => causeDef 0x7FFF
  | 0x4 => { rw := 0x7FFF, reset := 0x5FFB }
  | _ => {}

/-- The defined leaves of a group (10 Table 10-21), bits [32w + 31 : 32w]. -/
def groupLeaves (g w : Nat) : Word :=
  if 2 ≤ g ∧ g ≤ 25 then (if w < 7 then 0xFFFFFFFF else if w = 7 then 0x0FFFFFFF else 0)
  else if w ≠ 0 then 0
  else if 34 ≤ g ∧ g ≤ 41 then 7
  else if g = 50 then 0xFF
  else if g ≤ 50 then 1
  else 0

/-- IRQ registers (10 Table 10-20). -/
def irqDef (o : Nat) : RegDef :=
  if o = 0x08 then { rw := 0xFFFFFFFF }
  else if o = 0x0C then { rw := 0x0007FFFF }
  else if o = 0x18 then { rw := 0xFFFF, reset := 0x10000 }
  else if o = 0x40 then causeDef 0xFFFFFFFF
  else if o = 0x44 then maskDef 0xFFFFFFFF
  else if 0x1000 ≤ o ∧ o < 0x1000 + 0x40 * 64 ∧ o % 0x40 ≥ 0x20 then
    { rw := 0xFFFFFFFF, reset := groupLeaves ((o - 0x1000) / 0x40) ((o % 0x40 - 0x20) / 4) }
  else {}

/-- LNK registers of a link die and its two ports (11 R281), and of an open site (11 R290). -/
def lnkDef (o : Nat) : RegDef :=
  if o < 0x400 * 24 then
    let q := o % 0x400
    if q = 0 then causeDef 0x7F7F
    else if q = 4 then { rw := 0xFFFF, reset := 0x7F7F }
    else if 0x100 ≤ q ∧ q < 0x180 then
      match q % 0x40 with
      | 0x04 => { rw := 0x2 }
      | 0x10 => { rc := 0xFFFFFFFF }
      | 0x14 => { rc := 0xFFFFFFFF }
      | _ => {}
    else {}
  else if 0x8000 ≤ o ∧ o < 0x8800 then
    match o % 0x100 with
    | 0 => causeDef 0x3F
    | 4 => maskDef 0x3F
    | _ => {}
  else {}

/-- The map: fields and reset value of the word at a byte offset of BAR0. -/
def regDef (off : Nat) : RegDef :=
  if off < hmBase then {}
  else if off < irqBase then
    let o := off - hmBase
    if o < 0x2000 then hmDef o
    else if o < 0x2000 + 0x40 * 8 then mifDef (o % 0x40)
    else if 0x10000 ≤ o ∧ o < 0x10000 + 0x1000 * 24 ∧ o % 0x1000 < 0x10 * 252 then coreLeafDef (o % 0x10)
    else {}
  else if off < fabBase then irqDef (off - irqBase)
  else if off < pwrBase then
    match off - fabBase with
    | 0x00 => causeDef 0x7FF
    | 0x04 => maskDef 0x7FF
    | 0x20 => { rc := 0xFFFFFFFF }
    | _ => {}
  else if off < clkBase then
    match off - pwrBase with
    | 0x00 => causeDef 0x1FF
    | 0x04 => maskDef 0x1FF
    | 0x10 => { rw := 0x7 }
    | 0x14 => { reset := 0x2D }
    | 0x28 => { reset := 0x10000 }
    | _ => {}
  else if off < thmBase then
    match off - clkBase with
    | 0x00 => causeDef 0x3F
    | 0x04 => maskDef 0x3F
    | o => if 0x100 ≤ o ∧ o < 0x100 + 4 * 24 then { rc := 0xFFFFFFFF } else {}
  else if off < secBase then
    match off - thmBase with
    | 0x00 => causeDef 0xFFF
    | 0x04 => maskDef 0xFFF
    | 0x1C => { rw := 0xFFFF, reset := 300 }
    | 0x20 => { reset := 1000 }
    | 0x24 => { rw := 0xFF, reset := 60 }
    | 0x28 => { reset := 2500 }
    | _ => {}
  else if off < lnkBase then
    match off - secBase with
    | 0x00 => causeDef 0xFFF
    | 0x04 => maskDef 0xFFF
    | _ => {}
  else if off < msixBase then lnkDef (off - lnkBase)
  else if off < msixBase + 0x10 then
    match off - msixBase with
    | 0x0 => { rw := 0xFFFFFFFC }
    | 0x4 => { rw := 0xFFFFFFFF }
    | 0x8 => { rw := 0xFFFFFFFF }
    | _ => { rw := 1, reset := 1 }
  else {}

/-- The leaf cause register of leaf `leaf` of group `g` (10 Table 10-21); its mask lies at +4. -/
def leafOff (g leaf : Nat) : Nat :=
  if g = 0 then irqBase + 0x40
  else if g = 1 then hmBase + 0x20
  else if g < 26 then hmBase + 0x10000 + 0x1000 * (g - 2) + 0x10 * leaf
  else if g < 34 then hmBase + 0x2000 + 0x40 * (g - 26)
  else if g < 42 then lnkBase + 0x400 * (8 * leaf + (g - 34))
  else match g with
    | 42 => fabBase
    | 43 => pwrBase
    | 44 => thmBase
    | 45 => clkBase
    | 46 => secBase
    | 47 => hmBase + 0x40
    | 48 => hmBase + 0x48
    | 49 => hmBase + 0x30
    | _ => lnkBase + 0x8000 + 0x100 * leaf

end Sys2Proof.Machine
end

