-- ==== Sys2Proof/Machine/Ops.lean ====
section
/-! DEFINITION. The shared operations: access to the parts of State, the topology (01 R10 to R14, 07 R166), registers, causes and the error log (10 R262 R265, 13 R348 R349), Tier S addressing (03 R54 R55), the memory of the engines, the clock (00, 12 R305), and free values. -/

namespace Sys2Proof.Machine

open Sys2Proof

/-- What a command answers. -/
abbrev Out := Host.Outcome State Fault Refusal

/-- The next state if an operand names a unit that the panel has (log entry 8). -/
def onUnit (ok : Bool) (s : State) : Out := if ok then .next s else .refused .noSuchUnit

/-! ## Unit numbers (07 R166, 01 Table 1-1) -/

def coreCount : Nat := 5184
def memCount : Nat := 80
def portCount : Nat := 48
def basinCount : Nat := 24
def siteCount : Nat := 8
def boxCount : Nat := 16
def noVoyage : BitVec 16 := 0xFFFF#16
def panelUnit : Nat := 0x1FFF
/-- Local index of memory engine m, port p, the harbour die and open site i. -/
def memUnit (m : Nat) : Nat := 5184 + m
def portUnit (p : Nat) : Nat := 5264 + p
def harbourUnit : Nat := 5312
def siteUnit (i : Nat) : Nat := 5313 + i

/-! ## Parts of the state -/

namespace State

def core (s : State) (c : Nat) : Core := look {} s.cores c
def router (s : State) (r : Nat) : Router := look {} s.routers r
def engine (s : State) (m : Nat) : Engine := look {} s.engines m
def port (s : State) (p : Nat) : Port := look {} s.ports p
def site (s : State) (i : Nat) : OpenSite := look {} s.sites i
def seg (s : State) (i : Nat) : SegRec := look {} s.segs i
def rset (s : State) (i : Nat) : Option RepSet := look none s.sets i
def part (s : State) (i : Nat) : Option Partition := look none s.parts i
def voyage (s : State) (i : Nat) : Option Voyage := look none s.voyages i
def box (s : State) (i : Nat) : Mailbox := look {} s.hm.boxes i
def bus (s : State) (i : Nat) : Mgmt := look {} s.mgmt i

def setCore (s : State) (c : Nat) (k : Core) : State := { s with cores := put {} s.cores c k }
def setRouter (s : State) (r : Nat) (k : Router) : State := { s with routers := put {} s.routers r k }
def setEngine (s : State) (m : Nat) (k : Engine) : State := { s with engines := put {} s.engines m k }
def setPort (s : State) (p : Nat) (k : Port) : State := { s with ports := put {} s.ports p k }
def setSite (s : State) (i : Nat) (k : OpenSite) : State := { s with sites := put {} s.sites i k }
def setSeg (s : State) (i : Nat) (k : SegRec) : State := { s with segs := put {} s.segs i k }
def setRset (s : State) (i : Nat) (k : Option RepSet) : State := { s with sets := put none s.sets i k }
def setPart (s : State) (i : Nat) (k : Option Partition) : State := { s with parts := put none s.parts i k }
def setVoyage (s : State) (i : Nat) (k : Option Voyage) : State := { s with voyages := put none s.voyages i k }
def setBox (s : State) (i : Nat) (k : Mailbox) : State :=
  { s with hm := { s.hm with boxes := put {} s.hm.boxes i k } }
def setBus (s : State) (i : Nat) (k : Mgmt) : State := { s with mgmt := put {} s.mgmt i k }

def updCore (s : State) (c : Nat) (g : Core → Core) : State := s.setCore c (g (s.core c))
def updRouter (s : State) (r : Nat) (g : Router → Router) : State := s.setRouter r (g (s.router r))
def updEngine (s : State) (m : Nat) (g : Engine → Engine) : State := s.setEngine m (g (s.engine m))
def updPort (s : State) (p : Nat) (g : Port → Port) : State := s.setPort p (g (s.port p))
def updSeg (s : State) (i : Nat) (g : SegRec → SegRec) : State := s.setSeg i (g (s.seg i))
def updVoyage (s : State) (i : Nat) (g : Voyage → Voyage) : State :=
  match s.voyage i with
  | none => s
  | some v => s.setVoyage i (some (g v))
def updRset (s : State) (i : Nat) (g : RepSet → RepSet) : State :=
  match s.rset i with
  | none => s
  | some v => s.setRset i (some (g v))

end State

/-! ## Topology -/

/-- Logical coordinates of core c (01 R12). -/
def coreX (c : Nat) : Nat := c % 72
def coreY (c : Nat) : Nat := c / 72

/-- The spared site of a compute row and the spared core of a core row of a die (01 R12). -/
def spareSite (s : State) (row : Nat) : Nat := look 6 s.bring.spareSite row
def spareCore (s : State) (row col cr : Nat) : Nat := look 6 s.bring.spareCore ((row * 13 + col) * 6 + cr)

/-- 01 R12: the physical column of logical die column `ld`, the site of logical core column `lc`. -/
def physCol (s : State) (row ld : Nat) : Nat := if ld < spareSite s row then ld else ld + 1
def physCore (s : State) (row col cr lc : Nat) : Nat := if lc < spareCore s row col cr then lc else lc + 1

/-- The basin of a core (01 R13): the row's west half holds sites 0 to 6. -/
def basinOf (s : State) (c : Nat) : Nat :=
  let row := coreY c / 6
  2 * row + (if physCol s row (coreX c / 6) ≤ 6 then 0 else 1)

/-- Active dies in the west half of a row (01 R13). -/
def westDies (s : State) (row : Nat) : Nat := if spareSite s row ≤ 6 then 6 else 7

/-- The leaf of a core in its basin's group (10 Table 10-21). -/
def leafOf (s : State) (c : Nat) : Nat :=
  let row := coreY c / 6
  let ld := coreX c / 6
  let w := westDies s row
  36 * (if ld < w then ld else ld - w) + 6 * (coreY c % 6) + coreX c % 6

/-- The active core of leaf i of basin b, if there is one (10 Table 10-21). -/
def coreOfLeaf (s : State) (b i : Nat) : Option Nat :=
  let row := b / 2
  let w := westDies s row
  let j := i / 36
  let ld := if b % 2 = 0 then j else w + j
  if (if b % 2 = 0 then j < w else ld < 12) then
    some (72 * (6 * row + i % 36 / 6) + 6 * ld + i % 6)
  else none

/-- The cores of a basin, in ascending order of leaf. -/
def coresOfBasin (s : State) (b : Nat) : List Nat :=
  (List.range 252).filterMap (coreOfLeaf s b)

/-- The basin of a memory engine's die, for a quay die (01 R13). -/
def basinOfMem (m : Nat) : Option Nat := if m < 72 then some (2 * (m / 6) + m % 6 / 3) else none

/-- The memory-interface group of a memory (01 Table 1-3). -/
def mifOf (m : Nat) : Nat :=
  if m < 72 then 2 * (m / 18) + m % 6 / 3 else m - 72

/-- The strap word of a unit's die (01 R10). A log record whose unit is the panel names no die: 0 there (DESIGN CHOICE, log entry 60). -/
def strapOf (s : State) (u : Nat) : Nat :=
  let w (t r c : Nat) : Nat := t * 512 + r * 32 + c
  if u < 5184 then w 1 (coreY u / 6) (physCol s (coreY u / 6) (coreX u / 6))
  else if u < 5256 then w 2 ((u - 5184) / 6) ((u - 5184) % 6)
  else if u < 5264 then w 3 ((u - 5256) / 2) ((u - 5256) % 2)
  else if u < 5312 then w 4 ((u - 5264) / 16) ((u - 5264) / 2 % 8)
  else if u = 5312 then w 5 0 0
  else if u < 5321 then w 7 ((u - 5313) / 2) ((u - 5313) % 2)
  else 0

/-- FAB_PANEL_ID. -/
def panelIdOff : Nat := fabBase + 0x18

/-! ## Registers -/

/-- The stored value of a register word (state.regs holds it exclusive-or its reset value). -/
def reg (s : State) (off : Nat) : Word := look 0 s.regs off ^^^ (regDef off).reset

def setReg (s : State) (off : Nat) (x : Word) : State :=
  { s with regs := put 0 s.regs off (x ^^^ (regDef off).reset) }

/-- An event of the running cycle in a register word: what it was before the first one is kept, with the bits or counts since (00 R6). -/
def noteEvent (s : State) (off : Nat) (add : Word → Word) : State :=
  let e := look (0, 0) s.events off
  { s with events := put (0, 0) s.events off (if e.2 = 0 then reg s off else e.1, add e.2) }

/-- An event sets bits of a register word. -/
def orReg (s : State) (off : Nat) (m : Word) : State := setReg (noteEvent s off (· ||| m)) off (reg s off ||| m)

/-- Writes bits [lo + n - 1 : lo] of a register word. -/
def putField (s : State) (off lo n x : Nat) : State :=
  let old := (reg s off).toNat
  setReg s off (BitVec.ofNat 32 (old - bits old lo n * 2 ^ lo + x % 2 ^ n * 2 ^ lo))

/-- Bits [lo + n - 1 : lo] of a register word. -/
def getField (s : State) (off lo n : Nat) : Nat := bits (reg s off).toNat lo n

/-- A word with k added to its field of n bits from bit lo, saturating. -/
def addField (w : Word) (lo n k : Nat) : Word :=
  BitVec.ofNat 32 (w.toNat - bits w.toNat lo n * 2 ^ lo + min (2 ^ n - 1) (bits w.toNat lo n + k) * 2 ^ lo)

/-- An event adds to a counter field of a register word, saturating. -/
def countField (s : State) (off lo n k : Nat) : State :=
  setReg (noteEvent s off fun w => addField w lo n k) off (addField (reg s off) lo n k)

/-- Writes a 64-bit register. -/
def setReg64 (s : State) (off : Nat) (x : BitVec 64) : State :=
  setReg (setReg s off (x.setWidth 32)) (off + 4) ((x >>> 32).setWidth 32)

def reg64 (s : State) (off : Nat) : BitVec 64 :=
  BitVec.ofNat 64 ((reg s off).toNat + 2 ^ 32 * (reg s (off + 4)).toNat)

/-- This panel's PANEL_ID. -/
def panelId (s : State) : Nat := (reg s panelIdOff).toNat % 256

/-- The home ID of a unit (07 R166). -/
def homeId (s : State) (u : Nat) : BitVec 21 := BitVec.ofNat 21 (panelId s * 8192 + u)

/-- The ID in a core's identity register (07 R166). -/
def coreId (s : State) (c : Nat) : BitVec 21 := ((s.core c).misc.ident).getD (homeId s c)

/-! ## The error log (13 R349) -/

/-- What a log record says beside its code: unit, voyage, leaf, ordinal, data. -/
structure LogInfo where
  unit : Nat := 0x1FFF
  vid : BitVec 16 := 0xFFFF#16
  leaf : Nat := 0xFF
  ordinal : Word := 0
  data : BitVec 256 := 0
  deriving DecidableEq, Repr

/-- The lowest severity present. -/
def lowestSev (l : List LogRec) : Nat := l.foldl (fun m r => min m r.sev.toNat) 255

/-- Adds a record: folds it into the newest record with the same CODE and SOURCE within 1 ms, or
appends it, over the oldest record of the lowest severity present when the log is full. The
second result says whether a record was overwritten. -/
def addLog (s : State) (code : BitVec 16) (sev : Nat) (o : LogInfo) : State × Bool :=
  let src : Word := BitVec.ofNat 32 (o.unit + 8192 * strapOf s o.unit)
  let l := s.log.recs
  let fresh : LogRec :=
    { tick := s.tide, code := code, sev := BitVec.ofNat 8 sev, rep := 0, source := src, vid := o.vid,
      leaf := BitVec.ofNat 8 o.leaf, ordinal := o.ordinal, data := o.data, seq := s.log.nextSeq }
  let app (l : List LogRec) : State :=
    { s with log := { s.log with recs := l ++ [fresh], nextSeq := s.log.nextSeq + 1 } }
  match l.getLast? with
  | some r =>
    if r.code = code ∧ r.source = src ∧ s.tide.toNat ≤ r.tick.toNat + 250000 then
      let r' := { r with rep := if r.rep = 255#8 then 255#8 else r.rep + 1 }
      ({ s with log := { s.log with recs := l.dropLast ++ [r'] } }, false)
    else if l.length < 262144 then (app l, false)
    else
      let m := lowestSev l
      if m ≤ sev then
        match takeFirst (fun r => r.sev.toNat = m) l with
        | some (_, l') => (app l', true)
        | none => (app l, false)
      else (s, false)
  | none => (app l, false)

/-- Writes a log record; an overwrite raises LOG_WRAP, which is itself not logged. -/
def logIt (s : State) (code : BitVec 16) (sev : Nat) (o : LogInfo) : State :=
  let (s', wrapped) := addLog s code sev o
  if wrapped then orReg s' (leafOff 48 0) 0x20 else s'

/-- A firmware record (13 Table 13-10). -/
def logFw (s : State) (code : Nat) (sev : Nat) (o : LogInfo := {}) : State :=
  logIt s (BitVec.ofNat 16 (0xFF00 + code)) sev o

/-- A firmware record of a change that 01 R22 wants logged and for which Table 13-10 has no code: the code is free, the severity 0 (DESIGN CHOICE,
log entry 58). -/
def logOpen (s : State) (o : LogInfo) : State :=
  logFw { s with free := s.free + 1 } ((Config.freeWord s.free).toNat % 256) 0 o

/-! ## Causes (10 R262, 13 R349) -/

/-- Severity of a hardware cause (13 R349): the corrected kind 0, divergences 4, others 1. -/
def sevOf (g bit : Nat) : Nat :=
  if (26 ≤ g ∧ g ≤ 33 ∧ bit = 0) ∨ (2 ≤ g ∧ g ≤ 25 ∧ bit = 13) then 0
  else if 26 ≤ g ∧ g ≤ 33 ∧ (bit = 9 ∨ bit = 10) then 4
  else 1

/-- Raises cause `bit` of leaf `leaf` of group `g`: the bit is set and a record is logged. -/
def raise (s : State) (g leaf bit : Nat) (o : LogInfo := {}) : State :=
  logIt (orReg s (leafOff g leaf) (BitVec.ofNat 32 (2 ^ bit)))
    (BitVec.ofNat 16 (256 * g + bit)) (sevOf g bit) { o with leaf := leaf }

/-- Core leaf causes (10 Table 10-22). -/
def cSpadBound : Nat := 0
def cSpadAlign : Nat := 1
def cBankConflict : Nat := 2
def cImageInvalid : Nat := 3
def cCoreFault : Nat := 4
def cCraneErr : Nat := 5
def cCheckMismatch : Nat := 6
def cWaitEmpty : Nat := 7
def cWaitLong : Nat := 8
def cQueueOverflow : Nat := 9
def cBerthState : Nat := 10
def cMoorState : Nat := 11
def cSyncMismatch : Nat := 12
def cSpadCe : Nat := 13
def cSpadUe : Nat := 14

/-- Raises a condition of a core and records the first event in HM_CORE_FIRST (03 R55, 04 R81,
13 Table 13-8); `at_` is the slot and step, none for an event of no step. -/
def raiseCore (s : State) (c cond : Nat) (at_ : Option (Nat × BitVec 13)) : State :=
  let g := 2 + basinOf s c
  let leaf := leafOf s c
  let k := s.core c
  let s1 := raise s g leaf cond { unit := c, vid := k.misc.vid, ordinal := k.seq.ordinal }
  let first := leafOff g leaf + 8
  if bitOf (reg s1 first).toNat 19 then s1
  else
    let x := match at_ with
      | some (slot, step) => step.toNat + 8192 * slot
      | none => 2 ^ 20
    setReg s1 first (BitVec.ofNat 32 (x + 2 ^ 15 * cond + 2 ^ 19))

/-- Raises conditions in order. -/
def raiseCores (s : State) (c : Nat) (step : BitVec 13) : List (Nat × Nat) → State
  | [] => s
  | (slot, cond) :: r => raiseCores (raiseCore s c cond (some (slot, step))) c step r

/-- FAB, PWR, THM, CLK, SEC, firmware, lighthouse and PCIe causes. -/
def raiseFab (s : State) (bit : Nat) (o : LogInfo := {}) : State := raise s 42 0 bit o
def raisePwr (s : State) (bit : Nat) (o : LogInfo := {}) : State := raise s 43 0 bit o
def raiseThm (s : State) (bit : Nat) (o : LogInfo := {}) : State := raise s 44 0 bit o
def raiseClk (s : State) (bit : Nat) (o : LogInfo := {}) : State := raise s 45 0 bit o
def raiseSec (s : State) (bit : Nat) (o : LogInfo := {}) : State := raise s 46 0 bit o
def raiseFw (s : State) (bit : Nat) (o : LogInfo := {}) : State := raise s 47 0 bit o
def raiseLh (s : State) (bit : Nat) (o : LogInfo := {}) : State := raise s 48 0 bit o
def raisePcie (s : State) (bit : Nat) (o : LogInfo := {}) : State := raise s 49 0 bit o
def raiseMif (s : State) (m bit : Nat) (o : LogInfo := {}) : State :=
  raise s (26 + mifOf m) 0 bit { o with unit := memUnit m }
def raiseSite (s : State) (i bit : Nat) : State := raise s 50 i bit { unit := siteUnit i }
/-- A cause of port p: bit 8j' + n of its link die's leaf (11 Table 11-7). -/
def raiseLnk (s : State) (p n : Nat) : State :=
  raise s (34 + p / 2 % 8) (p / 16) (8 * (p % 2) + n) { unit := portUnit p }

/-! ## Interrupt summary (10 R262) -/

/-- IRQ_GRP_CAUSE_g word w: the leaves with an enabled cause. -/
def grpCause (s : State) (g w : Nat) : Word :=
  BitVec.ofNat 32 (((List.range 32).map fun i =>
    let leaf := 32 * w + i
    if bitOf (groupLeaves g w).toNat i &&
        decide (reg s (leafOff g leaf) &&& reg s (leafOff g leaf + 4) ≠ 0)
    then 2 ^ i else 0).foldl (· + ·) 0)

/-- IRQ_GRP_MASK_g word w. -/
def grpMask (s : State) (g w : Nat) : Word := reg s (irqBase + 0x1000 + 0x40 * g + 0x20 + 4 * w)

/-- Whether group g shows in IRQ_SUMMARY. -/
def grpSet (s : State) (g : Nat) : Bool :=
  (List.range 8).any fun w => decide (grpCause s g w &&& grpMask s g w ≠ 0)

/-- IRQ_SUMMARY. -/
def irqSummary (s : State) : BitVec 64 :=
  BitVec.ofNat 64 (((List.range 51).map fun g => if grpSet s g then 2 ^ g else 0).foldl (· + ·) 0)

/-- The interrupt condition of 10 R263: (IRQ_SUMMARY AND IRQ_ENABLE) is not zero. -/
def irqCond (s : State) : Bool := decide (irqSummary s &&& reg64 s (irqBase + 8) ≠ 0)

/-! ## Free values (log entry 1) -/

/-- Draws a value the spec leaves open. -/
def drawFree (s : State) : State × BitVec 64 := ({ s with free := s.free + 1 }, Config.freeWord s.free)

/-! ## Tier S (03 R54 R55, 06 R125) -/

/-- Bytes of Tier S. -/
def spadSize : Nat := 0x600000

/-- A byte of a core's Tier S; bytes out of range read zero. -/
def spadByte (k : Core) (a : Nat) : Byte := if a < spadSize then look 0 k.tierS a else 0

/-- Writes bytes to Tier S; writes out of range are dropped. -/
def spadPut : SMap Byte → Nat → Bytes → SMap Byte
  | m, _, [] => m
  | m, a, b :: r => spadPut (if a < spadSize then put 0 m a b else m) (a + 1) r

/-- Writes bytes to a core's Tier S; a correction still to be written back to a word that they reach is dropped
(06 R132). -/
def spadWrite (k : Core) (a : Nat) (b : Bytes) : Core :=
  { k with
    tierS := spadPut k.tierS a b
    misc := { k.misc with writebacks := k.misc.writebacks.filter fun w => decide (w + 64 ≤ a ∨ a + b.length ≤ w) } }

def spadRead (k : Core) (a n : Nat) : Bytes := (List.range n).map fun i => spadByte k (a + i)

/-- A register value of a core. -/
def pReg (k : Core) (r : BitVec 4) : Word := look 0 k.regs.p r.toNat
def lReg (k : Core) (r : BitVec 2) : BitVec 24 := look 0 k.regs.l r.toNat
def fReg (k : Core) (r : BitVec 3) : Word := look 0 k.regs.f r.toNat
/-- Lane i of V[r] (32-bit view) and byte i. -/
def vLane (k : Core) (r : BitVec 5) (i : Nat) : Word := look 0 k.regs.v (128 * r.toNat + i)

/-- 03 R54: ea(p, o, u), 32 bits. -/
def ea (k : Core) (p : BitVec 4) (o u : Nat) : Nat := ((pReg k p).toNat + o * u) % 2 ^ 32

/-! ## Memory of the engines (08 R188 R189) -/

/-- Bytes of memory m: 48 GiB of a stack, 256 GiB of an LPDDR6 pair. -/
def memSize (m : Nat) : Nat := if m < 72 then 48 * 2 ^ 30 else 256 * 2 ^ 30

/-- The key of a byte of memory m. -/
def memKey (m a : Nat) : Nat := m * 2 ^ 40 + a

def memByte (s : State) (m a : Nat) : Byte := look 0 s.mem (memKey m a)

def memRead (s : State) (m a n : Nat) : Bytes := lookRange 0 s.mem (memKey m a) n

def memWrite (s : State) (m a : Nat) (b : Bytes) : State :=
  { s with mem := putList 0 s.mem (memKey m a) b }

/-- Host memory by the address the device uses. -/
def hostWrite (s : State) (a : Nat) (b : Bytes) : State := { s with host := putList 0 s.host a b }

def hostRead (s : State) (a n : Nat) : Bytes := lookRange 0 s.host a n

/-! ## Voyages and partitions -/

/-- The cores that hold voyage `vid`, in ascending order. -/
def coresOf (s : State) (vid : BitVec 16) : List Nat :=
  (s.cores.filter fun p => p.2.misc.vid = vid).map (·.1)

/-- Applies `g` to each of a list of cores. -/
def updCores (s : State) (l : List Nat) (g : Core → Core) : State :=
  l.foldl (fun s c => s.updCore c g) s

/-- The members of a barrier or a mooring join (04 R107): the voyage's cores that have not ended. -/
def membersOf (s : State) (vid : BitVec 16) : List Nat :=
  (coresOf s vid).filter fun c => (s.core c).sync.run ≠ .ended

/-- The partition that holds a basin, running or in reserve. -/
def partOfBasin (s : State) (b : Nat) : Option Nat :=
  (List.range 24).find? fun i =>
    match s.part i with
    | some p => p.basins.getLsbD b || p.reserve.getLsbD b
    | none => false

/-- Basins of a 24-bit map. -/
def basinsIn (m : BitVec 24) : List Nat := (List.range 24).filter fun b => m.getLsbD b

/-- The cores of a set of basins. -/
def coresOfBasins (s : State) (m : BitVec 24) : List Nat :=
  ((basinsIn m).map (coresOfBasin s)).flatten

/-- Table 10-16 states of a voyage. -/
def vLoaded : Nat := 0
def vRunning : Nat := 1
def vSaving : Nat := 2
def vPreempted : Nat := 3
def vHeld : Nat := 4
def vEnded : Nat := 5

/-! ## The clock (00, 12 R305; log entry 2) -/

/-- Tenths of a cc to a tick at each operating point (12 Table 12-4). -/
def ccRate : Nat → Nat
  | 0 => 160 | 1 => 144 | 2 => 128 | 3 => 112 | 4 => 96 | 5 => 80 | 6 => 56 | _ => 32

/-- The running operating point, PWR_OP_STATUS.CUR. -/
def opNow (s : State) : Nat := getField s (pwrBase + 0x14) 0 3

/-- One period of CLK_CORE passes, longer by `extra` tenths where it is stretched; in the relock hold one tick
passes without a period. -/
def passCc (extra : Nat) (s0 : State) : State :=
  let s : State := { s0 with events := [] }
  if s.power.holding.isSome then { s with tide := s.tide + 1 }
  else
    let r := ccRate (opNow s)
    let ph := s.ccPhase + 10 + extra
    if ph ≥ r then { s with cc := s.cc + 1, ccPhase := ph - r, tide := s.tide + 1 }
    else { s with cc := s.cc + 1, ccPhase := ph }

/-- A command put in front of the queue. -/
def pushFront (s : State) (c : Instr) : State := { s with pending := c :: s.pending }

end Sys2Proof.Machine
end

