-- ==== Sys2Proof/Machine/Slots.lean ====
section
/-! DEFINITION. What the execution of an M or V slot yields (03 R53 R55 R56, 06 R127), and the EA96 tile image (03 R63). -/

namespace Sys2Proof.Machine

open Sys2Proof

/-- What an M or V slot operation yields when it issues: its late results with the latency, the
pointer results of latency 1, events, generator lanes, conditions, the access streams and the byte ranges it
reads and writes. The results and events of an operation that is `late` follow from what its accesses read. -/
structure SlotOut where
  writes : List Wr := []
  fast : List Wr := []
  ev : Ev := {}
  lfsr : SMap Word
  conds : List Nat := []
  lat : Nat := 0
  ival : Nat := 0
  streams : List Stream := []
  reads : List (Nat × Nat) := []
  stores : List (Nat × Nat) := []
  halt : Bool := false
  late : Bool := false

/-- The late results of an operation: register writes, events and conditions. -/
structure LateOut where
  writes : List Wr
  ev : Ev
  conds : List Nat := []

/-- Nothing: a no-op. -/
def slotNop (k : Core) : SlotOut := { lfsr := k.regs.lfsr }

/-! ## Tier S accesses (03 R54 R55, 06 R125 to R128) -/

/-- An address with the bits below the alignment taken as zero. -/
def aligned (a u : Nat) : Nat := a / u * u

/-- SPAD_ALIGN if the address is not aligned. -/
def alignCond (a u : Nat) : List Nat := if a % u = 0 then [] else [cSpadAlign]

/-- SPAD_BOUND if a byte of the access lies above 0x005F_FFFF. -/
def boundCond (lo n : Nat) : List Nat := if lo + n ≤ spadSize then [] else [cSpadBound]

/-- The bank of a byte address (06 Table 6-1). -/
def bankOf (a : Nat) : Nat := Nat.xor (a / 64 % 32) (a / 2 ^ 18 % 32)

/-- Reads of `n` words from a 64-byte-aligned address, `per` to a cc from cc `t0`. -/
def readWords (base n per t0 : Nat) : List Acc :=
  (List.range n).map fun i => { off := t0 + i / per, word := base + 64 * i }

/-- Bytes with their addresses from an address on. -/
def located (a : Nat) (b : Bytes) : List (Nat × Byte) := b.zipIdx.map fun p => (a + p.2, p.1)

/-- Writes of bytes from a 64-byte-aligned address, `per` words to a cc from cc `t0`. -/
def writeWords (base : Nat) (b : Bytes) (per t0 : Nat) : List Acc :=
  (List.range ((b.length + 63) / 64)).map fun i =>
    { off := t0 + i / per, word := base + 64 * i, bytes := located (base + 64 * i) ((b.drop (64 * i)).take 64) }

/-- Words that a list of byte ranges touches, ascending. -/
def wordsOf (l : List (Nat × Nat)) : List Nat :=
  let ws := (l.map fun r => (List.range (r.2 / 64 - r.1 / 64 + 1)).map (r.1 / 64 + ·)).flatten
  ws.foldl (fun acc w => if w ∈ acc then acc else acc.takeWhile (· < w) ++ w :: acc.dropWhile (· < w)) []

/-! ## E tiles -/

/-- Key of element (i, j), index 32i + j, of tile e. -/
def elemKey (e i : Nat) : Nat := 1024 * e + i

/-- The scale exponent of a tile. -/
def tileT (k : Core) (e : Nat) : BitVec 10 := look 0 k.regs.tileT e

/-- Clears a tile's elements, side bits and NX, keeping T (03 R61). -/
def clearTile (e : BitVec 3) : List Wr :=
  ((List.range 1024).map fun i => .e (elemKey e.toNat i) {}) ++ [.nx e false]

/-! ## The EA96 tile image (03 R63 Table 3-8) -/

def imageBytes : Nat := 12608

/-- Byte `o` of an image. -/
def imageByte (m : TileImg) (o : Nat) : Byte :=
  if o < 2 then BitVec.ofNat 8 (m.t.toNat / 256 ^ o)
  else if o = 2 then BitVec.ofNat 8 (b2n m.nx)
  else if o < 64 then 0
  else if o < 12352 then BitVec.ofNat 8 ((look {} m.elems ((o - 64) / 12)).a.toNat / 256 ^ ((o - 64) % 12))
  else
    let inv := o < 12480
    let base := 8 * (if inv then o - 12352 else o - 12480)
    BitVec.ofNat 8 (((List.range 8).map fun i =>
      let x := look {} m.elems (base + i)
      b2n (if inv then x.inv else x.sat) * 2 ^ i).foldl (· + ·) 0)

def imageOut (m : TileImg) : Bytes := (List.range imageBytes).map (imageByte m)

/-- Reads an image. -/
def imageIn (byte : Nat → Byte) : TileImg :=
  let t : BitVec 16 := BitVec.ofNat 16 ((byte 0).toNat + 256 * (byte 1).toNat)
  let bit (o i : Nat) : Bool := bitOf (byte (o + i / 8)).toNat (i % 8)
  { t := t
    nx := bitOf (byte 2).toNat 0
    rsvd := decide ((byte 2).toNat / 2 ≠ 0) || (List.range 61).any (fun i => decide (byte (3 + i) ≠ 0))
    elems := putRange {} [] 0 (fun i =>
      { a := BitVec.ofNat 96 (leNat ((List.range 12).map fun j => byte (64 + 12 * i + j)))
        inv := bit 12352 i, sat := bit 12480 i }) 1024 }

/-- 03 R65: T from -512 to 511 and reserved header bits zero. -/
def imageValid (m : TileImg) : Bool := !m.rsvd && decide (-512 ≤ m.t.toInt) && decide (m.t.toInt ≤ 511)

/-- The image of a tile of a core. -/
def tileImage (k : Core) (e : Nat) : TileImg :=
  { t := (tileT k e).signExtend 16
    nx := look false k.regs.tileNx e
    elems := putRange {} [] 0 (fun i => look {} k.regs.e (elemKey e i)) 1024 }

end Sys2Proof.Machine
end

