-- ==== Sys2Proof/Machine/Matrix.lean ====
section
/-! DEFINITION. The M slot (03 R57 to R65): what MMA, MRD, MCLR, MST and MLD yield. -/

namespace Sys2Proof.Machine

open Sys2Proof DyOps

/-! ## MMA (03 R59, 02 R41 to R43) -/

/-- The product of two factors, none if one of them is invalid (02 R39). -/
def product (x y : Option Dy2) : Option Dy2 :=
  match x, y with
  | some a, some b => some ⟨add (mul a.a b.a) (shift (mul a.b b.b) 1), add (mul a.a b.b) (mul a.b b.a)⟩
  | _, _ => none

/-- The K product terms of output element (i, j) of a block. -/
def blockTerms (fa fb k : Nat) (a b : Nat → Byte) (i j : Nat) : List (Option Dy2) :=
  (List.range k).map fun q => product (tileElem fa k a i q) (tileElem fb k b j q)

/-- One block into one element of a tile (02 R41): the element and its events under `fb`. -/
def mmaElem (fb : Nat) (exact_ : Bool) (t : Int) (x : Elem) (terms : List (Option Dy2)) : Elem × Ev :=
  let (y, o) := accumulate x (terms.map fun u => u.map (·.a)) t
  (y, accEv fb exact_ o)

/-- One GL4 block into one pair of rail elements (02 R43); events count once for the pair. -/
def mmaPair (t : Int) (x y : Elem) (terms : List (Option Dy2)) : Elem × Elem × Ev :=
  let (x', o) := accumulate x (terms.map fun u => u.map (·.a)) t
  let (y', q) := accumulate y (terms.map fun u => u.map (·.b)) t
  (x', y', accEv 8 true ⟨o.inv || q.inv, o.low || q.low, o.high || q.high⟩)

/-- The blocks of an MMA in order into element (i, j) of a tile. -/
def mmaElems (fa fb k : Nat) (t : Int) (a b : Nat → Nat → Byte) (i j : Nat) : Nat → Elem → Elem × Ev
  | 0, x => (x, {})
  | n + 1, x =>
    let (y, e) := mmaElems fa fb k t a b i j n x
    let (z, e') := mmaElem fb (fa ≠ 9) t y (blockTerms fa fb k (a n) (b n) i j)
    (z, e.and e')

/-- The same for a GL4 pair. -/
def mmaPairs (t : Int) (a b : Nat → Nat → Byte) (i j : Nat) : Nat → Elem → Elem → Elem × Elem × Ev
  | 0, x, y => (x, y, {})
  | n + 1, x, y =>
    let (x', y', e) := mmaPairs t a b i j n x y
    let (x2, y2, e') := mmaPair t x' y' (blockTerms 8 8 64 (a n) (b n) i j)
    (x2, y2, e.and e')

/-- Number of blocks, depth, and bytes of a left and a right tile of an MMA. -/
def mmaDims (f : MmaF) : Nat × Nat × Nat × Nat :=
  let d := (pairDepth f.fa.toNat f.fb.toNat).getD 32
  (f.nblk.toNat + 1, d, tileStride f.fa.toNat d, tileStride f.fb.toNat d)

/-- Where the tiles of an MMA begin, as its pointers stand. -/
def mmaLeft (k : Core) (f : MmaF) : Nat := ea k f.pa f.oa.toNat 64
def mmaRight (k : Core) (f : MmaF) : Nat := ea k f.pb f.ob.toNat 64

/-- The accesses of one operand of an MMA (06 Table 6-2): word j of block b at w * b + j. -/
def mmaWords (base n stride w : Nat) : List Acc :=
  (List.range n).flatMap fun q => (List.range (stride / 64)).map fun j =>
    { off := w * q + j, word := base + q * stride + 64 * j }

/-- MMA at issue. -/
def mmaOut (k : Core) (f : MmaF) : SlotOut :=
  let (n, _, sa, sb) := mmaDims f
  let e := f.ed.toNat
  if f.fa = 8 ∧ tileT k e ≠ tileT k (e + 1) then
    { lfsr := k.regs.lfsr, conds := [cCoreFault], halt := true }
  else
    let a0 := mmaLeft k f
    let b0 := mmaRight k f
    let a := aligned a0 64
    let b := aligned b0 64
    let w := if f.fa = 9 then 128 else 32
    { fast := if f.inc then
          [.p f.pa (pReg k f.pa + BitVec.ofNat 32 (n * sa)), .p f.pb (pReg k f.pb + BitVec.ofNat 32 (n * sb))]
        else []
      lfsr := k.regs.lfsr
      conds := alignCond a0 64 ++ alignCond b0 64 ++ boundCond a (n * sa) ++ boundCond b (n * sb)
      lat := w * n + 6
      ival := w * n
      streams := [{ rd := true, left := mmaWords a n sa w }, { rd := true, left := mmaWords b n sb w }]
      reads := [(a, a + n * sa - 1), (b, b + n * sb - 1)]
      late := true }

/-- The results of an MMA from the bytes that its left and right accesses have read: each element, or pair of
elements, of its tile takes the blocks in order on top of what it holds (02 R28 R41 R43). -/
def mmaResult (k : Core) (rd : Nat → Nat → Byte) (f : MmaF) : LateOut :=
  let (n, d, sa, sb) := mmaDims f
  let a := aligned (mmaLeft k f) 64
  let b := aligned (mmaRight k f) 64
  let e := f.ed.toNat
  let t := (tileT k e).toInt
  let ra (q i : Nat) : Byte := rd 0 (a + q * sa + i)
  let rb (q i : Nat) : Byte := rd 1 (b + q * sb + i)
  let per (i : Nat) : List Wr × Ev :=
    let x := look {} k.regs.e (elemKey e i)
    if f.fa = 8 then
      let (x', y', ev) := mmaPairs t ra rb (i / 32) (i % 32) n x (look {} k.regs.e (elemKey (e + 1) i))
      ([.e (elemKey e i) x', .e (elemKey (e + 1) i) y'], ev)
    else
      let (x', ev) := mmaElems f.fa.toNat f.fb.toNat d t ra rb (i / 32) (i % 32) n x
      ([.e (elemKey e i) x'], ev)
  let rs := (List.range 1024).map per
  let bf : Bool := f.fa = 9
  { writes := rs.flatMap (·.1) ++ (if bf then [.nx f.ed true] else [])
    ev := (evAll (rs.map (·.2))).and (evIf bf evNonExact) }

/-! ## MRD (03 R61, 02 R44 to R48) -/

/-- The exact value that a read-out converts, none if INV is set. -/
def readOutVal (k : Core) (f : MrdF) (i : Nat) : Option Dy2 :=
  let e := f.es.toNat
  let x := look {} k.regs.e (elemKey e i)
  let sh := f.sh.toInt
  if f.pair then
    let y := look {} k.regs.e (elemKey (e + 1) i)
    if x.inv || y.inv then none
    else some ⟨elemVal x (tileT k e).toInt sh, elemVal y (tileT k (e + 1)).toInt sh⟩
  else if x.inv then none
  else some (inj2 (elemVal x (tileT k e).toInt sh))

/-- Rows in ascending order, each on lanes 0 to 31: element codes, scales and events of every row. -/
def readOutRows (k : Core) (f : MrdF) : Nat → SMap Word → SMap Word × List (List Nat × List Nat × Ev)
  | 0, l => (l, [])
  | n + 1, l =>
    let (l1, rows) := readOutRows k f n l
    let (l2, rs) := drawLanes f.rm l1 (List.range 32)
    (l2, rows ++ [convRun f.fo.toNat ((List.range 32).map fun j => readOutVal k f (32 * n + j)) rs])

/-- The bytes of a row. -/
def rowOut (c : Nat) (codes : List Nat) : Bytes :=
  (List.range (mrdRow c)).map (packByte c fun i => codes.getD i 0)

/-- Bytes as the 32-bit words of V registers from `vd`. -/
def vWords (vd : BitVec 5) (b : Bytes) : List Wr :=
  (List.range (b.length / 4)).map fun i =>
    .v (128 * vd.toNat + i) (BitVec.ofNat 32 (leNat ((b.drop (4 * i)).take 4)))

def mrdOut (k : Core) (f : MrdF) : SlotOut :=
  let c := f.fo.toNat
  let (l, rows) := readOutRows k f 32 k.regs.lfsr
  let elems := (rows.map fun r => rowOut c r.1).flatten
  let scales := (rows.map fun r => r.2.1.map (BitVec.ofNat 8)).flatten
  let a0 := ea k f.pd f.od.toNat 64
  let a := aligned a0 64
  let out := elems ++ scales
  let lat := if f.pair then 42 else 38
  let n := (out.length + 63) / 64
  { writes := (if f.dst then vWords f.vd elems else [])
      ++ (if f.clr then clearTile f.es ++ (if f.pair then clearTile (f.es + 1) else []) else [])
    ev := evAll (rows.map (·.2.2))
    lfsr := l
    conds := if f.dst then [] else alignCond a0 64 ++ boundCond a out.length
    lat := lat
    ival := 32
    streams := if f.dst then [] else [{ rd := false, left := writeWords a out 2 (lat - (n + 1) / 2) }]
    stores := if f.dst then [] else [(a, a + out.length - 1)] }

/-! ## MCLR, MST, MLD (03 R60 R64 R65) -/

def mclrOut (k : Core) (f : MclrF) : SlotOut :=
  { writes := clearTile f.ed ++ [.t f.ed f.t]
      ++ (if f.pair then clearTile (f.ed + 1) ++ [.t (f.ed + 1) f.t] else [])
    lfsr := k.regs.lfsr
    lat := 2
    ival := 1 }

def mstOut (k : Core) (f : TileF) : SlotOut :=
  let a0 := ea k f.p f.o.toNat 64
  let a := aligned a0 64
  { writes := if f.flag then clearTile f.e else []
    lfsr := k.regs.lfsr
    conds := alignCond a0 64 ++ boundCond a imageBytes
    lat := 104
    ival := 99
    streams := [{ rd := false, left := writeWords a (imageOut (tileImage k f.e.toNat)) 2 5 }]
    stores := [(a, a + imageBytes - 1)] }

/-- One element of an added image (03 R65 MODE 0). -/
def mldElem (x y : Elem) (t it : Int) : Elem × Ev :=
  if y.inv then ({ x with inv := true }, evAccInvalid 10)
  else
    let (z, o) := accumulate x [some ⟨y.a.toInt, it - 48⟩] t
    let e := accEv 10 true o
    if y.sat then ({ z with sat := true }, e.and (evIf (!z.sat || x.sat) (evAccHigh 10))) else (z, e)

/-- MLD at issue. -/
def mldOut (k : Core) (f : TileF) : SlotOut :=
  let a0 := ea k f.p f.o.toNat 64
  let a := aligned a0 64
  { lfsr := k.regs.lfsr
    conds := alignCond a0 64 ++ boundCond a imageBytes
    lat := 104
    ival := 99
    streams := [{ rd := true, left := readWords a 197 2 0 }]
    reads := [(a, a + imageBytes - 1)]
    late := true }

/-- The results of an MLD from the bytes that its accesses have read. -/
def mldResult (k : Core) (rd : Nat → Nat → Byte) (f : TileF) : LateOut :=
  let a := aligned (ea k f.p f.o.toNat 64) 64
  let img := imageIn fun i => rd 0 (a + i)
  let e := f.e.toNat
  let key := elemKey e
  if !imageValid img then
    { writes := (List.range 1024).map (fun i => .e (key i)
          { (if f.flag then {} else look {} k.regs.e (key i)) with inv := true })
        ++ (if f.flag then [.t f.e 0, .nx f.e false] else [])
      ev := evAll ((List.range 1024).map fun _ => evAccInvalid 10)
      conds := [cImageInvalid] }
  else if f.flag then
    { writes := (List.range 1024).map (fun i => .e (key i) (look {} img.elems i))
        ++ [.t f.e (img.t.setWidth 10), .nx f.e img.nx]
      ev := evIf img.nx evNonExact }
  else
    let rs := (List.range 1024).map fun i =>
      mldElem (look {} k.regs.e (key i)) (look {} img.elems i) (tileT k e).toInt img.t.toInt
    let nx := look false k.regs.tileNx e || img.nx
    { writes := rs.zipIdx.map (fun p => .e (key p.2) p.1.1) ++ [.nx f.e nx]
      ev := (evAll (rs.map (·.2))).and (evIf nx evNonExact) }

/-- The M slot. -/
def mSlot (k : Core) : MOp → SlotOut
  | .nop => slotNop k
  | .mma f => mmaOut k f
  | .mrd f => mrdOut k f
  | .mclr f => mclrOut k f
  | .mst f => mstOut k f
  | .mld f => mldOut k f

/-- The results of an M slot operation that follow from what its accesses have read. -/
def mResult (k : Core) (rd : Nat → Nat → Byte) : MOp → LateOut
  | .mma f => mmaResult k rd f
  | .mld f => mldResult k rd f
  | _ => { writes := [], ev := {} }

end Sys2Proof.Machine
end

