-- ==== Sys2Proof/Machine/Vector.lean ====
section
/-! DEFINITION. The V slot (03 R66 to R79): what its sixteen opcodes yield. -/

namespace Sys2Proof.Machine

open Sys2Proof DyOps

/-! ## FP32 results (03 R68, 02 R34) -/

/-- The result that fp32_round takes: a NaN (`fresh` if no operand was one), an infinity, or an
exact value with the sign that an exact zero takes. -/
inductive FRes where
  | nan (fresh : Bool)
  | inf (neg : Bool)
  | fin (x : Dy) (zneg : Bool)
  deriving DecidableEq, Repr

/-- 03 R68. -/
def fround (x : FRes) (r : Option Nat) : Word × Ev :=
  match x with
  | .nan fresh => (canonNan, evIf fresh (evOutInvalid 10))
  | .inf neg => (infWord neg, {})
  | .fin v zneg => fp32OfDy v zneg r

/-- The sign of a value that is not a NaN. -/
def F32.neg : F32 → Bool
  | .nan => false
  | .inf n => n
  | .fin n _ => n

/-- A value with its sign inverted. -/
def F32.flip : F32 → F32
  | .nan => .nan
  | .inf n => .inf (!n)
  | .fin n m => .fin (!n) m

/-- a + b. -/
def fadd (a b : F32) : FRes :=
  match a, b with
  | .nan, _ => .nan false
  | _, .nan => .nan false
  | .inf m, .inf n => if m = n then .inf m else .nan true
  | .inf m, .fin _ _ => .inf m
  | .fin _ _, .inf n => .inf n
  | .fin m _, .fin n _ => .fin (add a.val b.val) (m && n)

/-- a * b. -/
def fmul (a b : F32) : FRes :=
  let n := a.neg != b.neg
  match a, b with
  | .nan, _ => .nan false
  | _, .nan => .nan false
  | .inf _, .inf _ => .inf n
  | .inf _, .fin _ m => if m.m = 0 then .nan true else .inf n
  | .fin _ m, .inf _ => if m.m = 0 then .nan true else .inf n
  | .fin _ _, .fin _ _ => .fin (mul a.val b.val) n

/-- a * b + c with one rounding. -/
def ffma (a b c : F32) : FRes :=
  match fmul a b, c with
  | _, .nan => .nan false
  | .nan f, _ => .nan f
  | .inf m, .inf n => if m = n then .inf m else .nan true
  | .inf m, .fin _ _ => .inf m
  | .fin _ _, .inf n => .inf n
  | .fin x zn, .fin n _ => .fin (add x c.val) (zn && n)

/-- Whether a word is a NaN. -/
def isNanW (w : Word) : Bool := decodeF32 w = .nan

/-- A NaN as the canonical NaN, every other word as it is. -/
def canonW (w : Word) : Word := if isNanW w then canonNan else w

/-- The order of words that are not NaN, -0 below +0. -/
def fkey (w : Word) : Int :=
  let mag : Int := ((w.toNat % 2 ^ 31 : Nat) : Int)
  if w.toNat ≥ 2 ^ 31 then -mag - 1 else mag

/-- The value order, -0 equal to +0. -/
def ckey (w : Word) : Int :=
  let mag : Int := ((w.toNat % 2 ^ 31 : Nat) : Int)
  if w.toNat ≥ 2 ^ 31 then -mag else mag

/-- 03 Table 3-15 for a lane. -/
def vfpLane (fn : Nat) (a b c : Word) (r : Option Nat) : Word × Ev :=
  let x := decodeF32 a
  let y := decodeF32 b
  let z := decodeF32 c
  match fn with
  | 0 => fround (fadd x y) r
  | 1 => fround (fadd x y.flip) r
  | 2 => fround (fmul x y) r
  | 3 => fround (ffma x y z) r
  | 4 => fround (ffma x.flip y z) r
  | 5 => (if isNanW a || isNanW b then canonNan else if fkey a < fkey b then b else a, {})
  | 6 => (if isNanW a || isNanW b then canonNan else if fkey b < fkey a then b else a, {})
  | 7 => (canonW (a &&& 0x7FFFFFFF#32), {})
  | 8 => (canonW (a ^^^ 0x80000000#32), {})
  | _ => (canonW b, {})

/-- 03 Table 3-16 for a lane. -/
def vintLane (fn : Nat) (a b : Word) : Word :=
  let n := b.toNat % 32
  match fn with
  | 0 => a + b
  | 1 => a - b
  | 2 => a &&& b
  | 3 => a ||| b
  | 4 => a ^^^ b
  | 5 => a <<< n
  | 6 => a >>> n
  | 7 => a.sshiftRight n
  | 8 => if a.toInt ≤ b.toInt then a else b
  | 9 => if a.toInt ≤ b.toInt then b else a
  | _ => b

/-- 03 Table 3-17 for a lane. -/
def vcmpLane (fn : Nat) (a b : Word) : Bool :=
  let nan := isNanW a || isNanW b
  match fn with
  | 0 => !nan && ckey a = ckey b
  | 1 => nan || ckey a ≠ ckey b
  | 2 => !nan && ckey a < ckey b
  | 3 => !nan && ckey a ≤ ckey b
  | 4 => !nan && ckey b < ckey a
  | 5 => !nan && ckey b ≤ ckey a
  | 8 => a = b
  | 9 => a.toInt < b.toInt
  | _ => a.toNat < b.toNat

/-- The exact value of an FP32 word as a conversion source, none for a NaN or an infinity. -/
def srcVal (w : Word) : Option Dy2 :=
  match decodeF32 w with
  | .fin n m => some (inj2 (F32.val (.fin n m)))
  | _ => none

/-- 03 Table 3-19 for a lane. -/
def vtrLane (fn : Nat) (a : Word) (r : Option Nat) : Word × Ev :=
  let pos (c : Cmp) (neg : Bool) : Word × Ev := fp32Round neg false false c r
  match fn, decodeF32 a with
  | _, .nan => (canonNan, {})
  | 0, .inf n => (if n then 0 else infWord false, {})
  | 0, .fin n m => pos (cmpOfExp2 (F32.val (.fin n m))) false
  | 1, .inf n => if n then (canonNan, evOutInvalid 10) else (infWord false, {})
  | 1, .fin n m =>
    if m.m = 0 then (infWord true, evOutHigh 10)
    else if n then (canonNan, evOutInvalid 10)
    else if DyOps.cmp m (ofInt 1) = .eq then (0, {})
    else pos (cmpOfLog2 m) (DyOps.cmp m (ofInt 1) = .lt)
  | 2, .inf n => (zeroWord n, {})
  | 2, .fin n m => if m.m = 0 then (infWord n, evOutHigh 10) else pos (cmpOfRat (ofInt 1) m) n
  | 3, .inf n => if n then (canonNan, evOutInvalid 10) else (0, {})
  | 3, .fin n m =>
    if m.m = 0 then (infWord n, evOutHigh 10)
    else if n then (canonNan, evOutInvalid 10)
    else pos (cmpOfRsqrt m) false
  | _, .inf n => if n then (canonNan, evOutInvalid 10) else (infWord false, {})
  | _, .fin n m =>
    if m.m = 0 then (zeroWord n, {})
    else if n then (canonNan, evOutInvalid 10)
    else pos (cmpOfSqrt m) false

/-- 03 R77 for a lane. -/
def vexpdLane (a b c : Word) (r : Option Nat) : Word × Ev :=
  let x := decodeF32 a
  let y := decodeF32 b
  let z := decodeF32 c
  if x = .nan ∨ y = .nan ∨ z = .nan then (canonNan, {})
  else
    let d : FRes := fadd x y.flip
    let e : FRes := match d, z with
      | .nan f, _ => .nan f
      | .inf n, .inf m => .inf (n != m)
      | .inf n, .fin m v => if v.m = 0 then .nan true else .inf (n != m)
      | .inf _, .nan => .nan false
      | .fin v _, .inf m => if v.m = 0 then .nan true else .inf ((v.m < 0) != m)
      | .fin v _, _ => .fin (mul v z.val) false
    match e with
    | .nan f => (canonNan, evIf f (evOutInvalid 10))
    | .inf n => (if n then 0 else infWord false, {})
    | .fin v _ => fp32Round false false false (cmpOfExp2 v) r

/-! ## Registers as lanes -/

/-- Writes of 128 lanes to V[vd]. -/
def laneWrites (vd : BitVec 5) (f : Nat → Word) : List Wr :=
  (List.range 128).map fun i => .v (128 * vd.toNat + i) (f i)

/-- b of a lane: lane k of Vb, or lane LANE of Vb in every lane (03 R71). -/
def bLane (k : Core) (f : VrF) (i : Nat) : Word := vLane k f.vb (if f.bb then f.lane.toNat else i)

/-- Generator lanes of a vector operation over 128 elements (02 R48). -/
def vecLanes : List Nat := (List.range 128).map fun i => 32 + i % 64

/-- A rounding operation over 128 lanes. -/
def lanesOut (k : Core) (vd : BitVec 5) (rm : Bool) (g : Nat → Option Nat → Word × Ev) (ival lat : Nat) : SlotOut :=
  let (l, rs) := drawLanes rm k.regs.lfsr vecLanes
  let ys := (List.range 128).map fun i => g i ((rs.getD i none))
  { writes := laneWrites vd fun i => (ys.getD i (0, {})).1
    ev := evAll (ys.map (·.2))
    lfsr := l
    lat := lat
    ival := ival }

/-! ## VLD, VST (03 R69) -/

/-- Address of chunk c. -/
def chunkAt (base : Nat) (f : VmF) (c : Nat) : Nat := base + c * 64 * max f.str.toNat 1

/-- VLD at issue. -/
def vldOut (k : Core) (f : VmF) : SlotOut :=
  let a0 := ea k f.p f.o.toNat 64
  let a := aligned a0 64
  { lfsr := k.regs.lfsr
    conds := alignCond a0 64 ++ boundCond (chunkAt a f 7) 64
    lat := 6
    ival := 4
    streams := [{ rd := true, left := (List.range 8).map fun c => { off := c / 2, word := chunkAt a f c } }]
    reads := [(a, chunkAt a f 7 + 63)]
    late := true }

/-- The results of a VLD. -/
def vldResult (k : Core) (rd : Nat → Nat → Byte) (f : VmF) : LateOut :=
  let a := aligned (ea k f.p f.o.toNat 64) 64
  let at_ (i : Nat) : Nat := chunkAt a f (i / 16) + 4 * (i % 16)
  { writes := laneWrites f.vr fun i => BitVec.ofNat 32 (leNat ((List.range 4).map fun j => rd 0 (at_ i + j)))
    ev := {} }

/-- Bytes [64c + 63 : 64c] of a register. -/
def chunkBytes (k : Core) (r : BitVec 5) (c : Nat) : Bytes :=
  ((List.range 16).map fun i => leBytes 4 (vLane k r (16 * c + i)).toNat).flatten

def vstOut (k : Core) (f : VmF) : SlotOut :=
  let a0 := ea k f.p f.o.toNat 64
  let a := aligned a0 64
  { lfsr := k.regs.lfsr
    conds := alignCond a0 64 ++ boundCond (chunkAt a f 7) 64
    lat := 6
    ival := 4
    streams := [{ rd := false
                  left := (List.range 8).map fun c =>
                    { off := 2 + c / 2, word := chunkAt a f c, bytes := located (chunkAt a f c) (chunkBytes k f.vr c) } }]
    stores := [(a, chunkAt a f 7 + 63)] }

/-! ## VDQ, VQNT (03 R70) -/

/-- Element and scale bytes of 128 elements (03 Table 3-14). -/
def vqBytes (c : Nat) : Nat := rowBytes c 128
def vqScales (c : Nat) : Nat := rowScales c 128

/-- Conditions, byte ranges and words of a VQ operation. -/
def vqAddr (k : Core) (f : VqF) : Nat × Nat × List Nat × List (Nat × Nat) :=
  let c := f.fmt.toNat
  let e0 := ea k f.pe f.oe.toNat 8
  let e := aligned e0 8
  let t := ea k f.ps f.os.toNat 1
  let ns := vqScales c
  (e, t, alignCond e0 8 ++ boundCond e (vqBytes c) ++ (if ns = 0 then [] else boundCond t ns),
    (e, e + vqBytes c - 1) :: (if ns = 0 then [] else [(t, t + ns - 1)]))

/-- Element i of the packed run with its block scale (03 R70, 02 R36 to R39). -/
def vqElem (k : Core) (rd : Nat → Nat → Byte) (f : VqF) (i : Nat) : Option Dy2 :=
  let c := f.fmt.toNat
  let (e, t, _, _) := vqAddr k f
  match decodeElem c (packedAt c (fun j => rd 0 (e + j)) i) with
  | none => none
  | some x =>
    if blockLen c = 0 then some x
    else
      match decodeScale (rd 0 (t + i / blockLen c)).toNat with
      | none => none
      | some s => some (mulD2 x s)

/-- One lane of VDQ. -/
def vdqLane (x : Option Dy2) (r : Option Nat) : Word × Ev :=
  match x with
  | none => (canonNan, evOutInvalid 10)
  | some v =>
    let (w, e) := toFloat fFP32 10 (isNeg v) (isZero v) (cmpOf2 v) r
    (BitVec.ofNat 32 w, e)

/-- VDQ at issue: its generator lanes are drawn. -/
def vdqOut (k : Core) (f : VqF) : SlotOut :=
  let (_, _, conds, rs) := vqAddr k f
  { lfsr := (drawLanes f.rm k.regs.lfsr vecLanes).1
    conds := conds
    lat := 8
    ival := 2
    streams := [{ rd := true, left := (wordsOf rs).zipIdx.map fun p => { off := p.2 / 2, word := 64 * p.1 } }]
    reads := rs
    late := true }

/-- The results of a VDQ. -/
def vdqResult (k : Core) (rd : Nat → Nat → Byte) (f : VqF) : LateOut :=
  let o := lanesOut k f.vr f.rm (fun i r => vdqLane (vqElem k rd f i) r) 2 8
  { writes := o.writes, ev := o.ev }

def vqntOut (k : Core) (f : VqF) : SlotOut :=
  let c := f.fmt.toNat
  let (e, t, conds, rs) := vqAddr k f
  let (l, dr) := drawLanes f.rm k.regs.lfsr vecLanes
  let (codes, scales, ev) := convRun c ((List.range 128).map fun i => srcVal (vLane k f.vr i)) dr
  let ws := wordsOf rs
  let out := located e ((List.range (vqBytes c)).map (packByte c fun i => codes.getD i 0)) ++
    located t (scales.map (BitVec.ofNat 8))
  { ev := ev
    lfsr := l
    conds := conds
    lat := 10
    ival := 2
    streams := [{ rd := false
                  left := ws.zipIdx.map fun p => { off := 10 - (ws.length + 1) / 2 + p.2 / 2, word := 64 * p.1,
                                                   bytes := out.filter fun x => decide (x.1 / 64 = p.1) } }]
    stores := rs }

/-! ## Register operations (03 R71 to R79) -/

def vfpOut (k : Core) (f : VrF) : SlotOut :=
  lanesOut k f.vd f.rm (fun i r => vfpLane f.fn.toNat (vLane k f.va i) (bLane k f i) (vLane k f.vc i) r) 2 4

def vfpiOut (k : Core) (f : ViF) : SlotOut :=
  lanesOut k f.vd f.rm (fun i r => vfpLane f.fn.toNat (vLane k f.va i) f.imm (vLane k f.vd i) r) 2 4

def vintOut (k : Core) (f : VrF) : SlotOut :=
  lanesOut k f.vd false (fun i _ => (vintLane f.fn.toNat (vLane k f.va i) (bLane k f i), {})) 2 2

def vintiOut (k : Core) (f : ViF) : SlotOut :=
  lanesOut k f.vd false (fun i _ => (vintLane f.fn.toNat (vLane k f.va i) f.imm, {})) 2 2

def vcmpOut (k : Core) (f : VrF) : SlotOut :=
  let hit (i : Nat) : Bool := vcmpLane f.fn.toNat (vLane k f.va i) (bLane k f i)
  let o := lanesOut k f.vd false (fun i _ => (if hit i then 0xFFFFFFFF#32 else 0#32, {})) 2 3
  { o with writes := o.writes ++ (if f.fw then [.fbit f.fd f.fbit ((List.range 128).any hit)] else []) }

def vselOut (k : Core) (f : VrF) : SlotOut :=
  lanesOut k f.vd false (fun i _ =>
    ((vLane k f.va i &&& vLane k f.vc i) ||| (vLane k f.vb i &&& ~~~(vLane k f.vc i)), {})) 2 2

/-- 03 R75 fn 0: the BF16 of a lane. -/
def vcvtBf (w : Word) (r : Option Nat) : Word × Ev :=
  let (x, e) := convElem 9 (srcVal w) r
  (BitVec.ofNat 32 x, e)

/-- 03 R75 fn 2. -/
def vcvtInt (w : Word) (r : Option Nat) : Word × Ev :=
  match srcVal w with
  | none => (0, evOutInvalid 2)
  | some v =>
    let (x, e) := toInt 32 2 (isNeg v) (isZero v) (cmpOf2 v) r
    (BitVec.ofNat 32 x, e)

/-- The 16-bit lane h of a register. -/
def vHalf (k : Core) (r : BitVec 5) (h : Nat) : Nat := (vLane k r (h / 2)).toNat / 65536 ^ (h % 2) % 65536

def vcvtOut (k : Core) (f : VrF) : SlotOut :=
  match f.fn.toNat with
  | 0 =>
    let o := lanesOut k f.vd f.rm (fun i r => vcvtBf (vLane k f.va i) r) 2 4
    let at_ (i : Nat) : Nat := match o.writes.getD i (.p 0 0) with | .v _ x => x.toNat | _ => 0
    { o with writes := laneWrites f.vd fun i =>
        if i < 64 then BitVec.ofNat 32 (at_ (2 * i) + 65536 * at_ (2 * i + 1)) else 0 }
  | 1 => lanesOut k f.vd false (fun i _ => (canonW (BitVec.ofNat 32 (65536 * vHalf k f.va i)), {})) 2 4
  | 2 => lanesOut k f.vd f.rm (fun i r => vcvtInt (vLane k f.va i) r) 2 4
  | _ => lanesOut k f.vd f.rm (fun i r => fp32OfDy (ofInt (vLane k f.va i).toInt) false r) 2 4

def vtrOut (k : Core) (f : VrF) : SlotOut :=
  lanesOut k f.vd f.rm (fun i r => vtrLane f.fn.toNat (vLane k f.va i) r) 4 12

def vexpdOut (k : Core) (f : VrF) : SlotOut :=
  lanesOut k f.vd f.rm (fun i r => vexpdLane (vLane k f.va i) (bLane k f i) (vLane k f.vc i) r) 4 14

/-- The index of the best of a list of lanes under an order: the first that none beats. -/
def bestOf (better : Word → Word → Bool) : List (Nat × Word) → Option (Nat × Word)
  | [] => none
  | x :: r =>
    match bestOf better r with
    | none => some x
    | some y => if better y.2 x.2 then some y else some x

/-- 03 R78 SUM: the exact sum of the lanes. -/
def sumLanes (xs : List Word) : FRes :=
  let fs := xs.map decodeF32
  let hasInf (n : Bool) : Bool := fs.any fun x => x = .inf n
  if fs.any (· = .nan) then .nan false
  else if hasInf true && hasInf false then .nan true
  else if hasInf true then .inf true
  else if hasInf false then .inf false
  else .fin ((fs.map F32.val).foldl add (ofInt 0)) (fs.all F32.neg)

/-- 03 Table 3-20: lane 0, lane 1 and events. -/
def vredLanes (fn : Nat) (xs : List Word) (r : Option Nat) : Word × Word × Ev :=
  let ix := xs.zipIdx.map fun p => (p.2, p.1)
  match fn with
  | 0 => let (w, e) := fround (sumLanes xs) r; (w, 0, e)
  | 1 =>
    if xs.any isNanW then (canonNan, 0, {})
    else match bestOf (fun a b => decide (fkey b < fkey a)) ix with
      | some (_, w) => (w, 0, {})
      | none => (0, 0, {})
  | 2 =>
    if xs.any isNanW then (canonNan, 0, {})
    else match bestOf (fun a b => decide (fkey a < fkey b)) ix with
      | some (_, w) => (w, 0, {})
      | none => (0, 0, {})
  | 3 =>
    match bestOf (fun a b => decide (fkey b < fkey a)) (ix.filter fun p => !isNanW p.2) with
    | some (i, w) => (w, BitVec.ofNat 32 i, {})
    | none => (canonNan, 0, {})
  | _ => (xs.foldl (· + ·) 0, 0, {})

def vredOut (k : Core) (f : VrF) : SlotOut :=
  let (l, rs) := drawLanes f.rm k.regs.lfsr [32]
  let (w0, w1, e) := vredLanes f.fn.toNat ((List.range 128).map (vLane k f.va)) (rs.getD 0 none)
  { writes := laneWrites f.vd fun i => if i = 0 then w0 else if i = 1 then w1 else 0
    ev := e
    lfsr := l
    lat := 8
    ival := 2 }

/-- The order key of VTOPK: a NaN below every value (03 R79). -/
def topKey (w : Word) : Int := if isNanW w then -(2 ^ 40) else fkey w

/-- The `k` first lanes in descending order, equal values in ascending lane order. -/
def topLanes : Nat → List (Nat × Word) → List (Nat × Word)
  | 0, _ => []
  | k + 1, l =>
    match bestOf (fun a b => decide (topKey b < topKey a)) l with
    | none => []
    | some x => x :: topLanes k (l.filter fun p => p.1 ≠ x.1)

def vtopkOut (k : Core) (f : VkF) : SlotOut :=
  let top := topLanes (f.km1.toNat + 1) ((List.range (f.nm1.toNat + 1)).map fun i => (i, vLane k f.va i))
  let w := 32 * f.wnd.toNat
  let mask := (top.map fun p => if w ≤ p.1 ∧ p.1 < w + 32 then 2 ^ (p.1 - w) else 0).foldl (· + ·) 0
  { writes := (laneWrites f.vd fun i =>
      if i < top.length then canonW (top.getD i (0, 0)).2
      else if 64 ≤ i ∧ i < 64 + top.length then BitVec.ofNat 32 (top.getD (i - 64) (0, 0)).1
      else 0) ++ (if f.fw then [.f f.fd (BitVec.ofNat 32 mask)] else [])
    lfsr := k.regs.lfsr
    lat := 10
    ival := 4 }

/-- The V slot. -/
def vSlot (k : Core) : VOp → SlotOut
  | .nop => slotNop k
  | .vld f => vldOut k f
  | .vst f => vstOut k f
  | .vdq f => vdqOut k f
  | .vqnt f => vqntOut k f
  | .vfp f => vfpOut k f
  | .vfpi f => vfpiOut k f
  | .vint f => vintOut k f
  | .vinti f => vintiOut k f
  | .vcmp f => vcmpOut k f
  | .vsel f => vselOut k f
  | .vcvt f => vcvtOut k f
  | .vtr f => vtrOut k f
  | .vexpd f => vexpdOut k f
  | .vred f => vredOut k f
  | .vtopk f => vtopkOut k f

/-- The results of a V slot operation that follow from what its accesses have read. -/
def vResult (k : Core) (rd : Nat → Nat → Byte) : VOp → LateOut
  | .vld f => vldResult k rd f
  | .vdq f => vdqResult k rd f
  | _ => { writes := [], ev := {} }

/-- Whether an operation can raise an event of Table 2-8 (02 R28). -/
def vNumeric : VOp → Bool
  | .vdq _ | .vqnt _ | .vcvt _ | .vtr _ | .vexpd _ | .vred _ => true
  | .vfp f => f.fn.toNat ≤ 4
  | .vfpi f => f.fn.toNat ≤ 4
  | _ => false

def mNumeric : MOp → Bool
  | .mma _ | .mrd _ | .mld _ => true
  | _ => false

end Sys2Proof.Machine
end

