-- ==== Sys2Proof/Machine/Ports.lean ====
section
/-! DEFINITION. The Tier S accesses of a core in one cc (06 R126 to R130): the manifest ports, the CR accesses, and who waits when two meet in a bank. -/

namespace Sys2Proof.Machine

open Sys2Proof

/-! ## One access (06 R126) -/

/-- Accesses made in a cc: bank, word and whether it reads. -/
abbrev Made := List (Nat × Nat × Bool)

/-- An access as it is recorded. -/
def madeOf (rd : Bool) (word : Nat) : Nat × Nat × Bool := (bankOf word, word / 64, rd)

/-- Whether an access merges with one that has been made: both read the same word. -/
def merges (m : Made) (rd : Bool) (word : Nat) : Bool := rd && decide (madeOf true word ∈ m)

/-- Whether the bank of a word has been taken. -/
def bankTaken (m : Made) (word : Nat) : Bool := m.any fun p => p.1 = bankOf word

/-- Bytes are written to Tier S; a correction still to be written back to one of their words is dropped
(06 R132). -/
def storeBytes (k : Core) (l : List (Nat × Byte)) : Core :=
  { k with
    tierS := l.foldl (fun m p => if p.1 < spadSize then put 0 m p.1 p.2 else m) k.tierS
    misc := { k.misc with writebacks := k.misc.writebacks.filter fun a => !(l.any fun p => p.1 / 64 = a / 64) } }

/-- What a stream has read after its access to a word. -/
def seeWord (k : Core) (seen : SMap Byte) (word : Nat) : SMap Byte := putList 0 seen word (spadRead k word 64)

/-- The next access of a stream is made. -/
def makeAccess (k : Core) (io : Stream) (a : Acc) (rest : List Acc) : Core × Stream :=
  if io.rd then (k, { io with left := rest, seen := seeWord k io.seen a.word })
  else (storeBytes k a.bytes, { io with left := rest })

/-! ## Manifest accesses (06 R127 R128) -/

/-- The manifest ports within a cc: the core, the accesses made, how many of them are the manifest's, and the banks
that CR accesses have won (06 R130). -/
structure ManPorts where
  core : Core
  made : Made
  used : Nat := 0
  won : List Nat := []

/-- What became of a stream in a cc: whether it waits, and whether for another manifest access. -/
structure Served where
  ports : ManPorts
  io : Stream
  waited : Bool := false
  conflict : Bool := false

/-- The accesses of a stream that are due in cc t, in order, until one waits: that one and every later one
shift by 1 cc. An access outside Tier S is not made (03 R55). -/
def serveStream (t issued : Nat) : List Acc → ManPorts → Stream → Served
  | [], p, io => { ports := p, io := io }
  | a :: rest, p, io =>
    if spadSize ≤ a.word then serveStream t issued rest p { io with left := rest }
    else if t < issued + a.off + io.shift then { ports := p, io := io }
    else if merges p.made io.rd a.word then
      serveStream t issued rest p { io with left := rest, seen := seeWord p.core io.seen a.word }
    else if bankTaken p.made a.word || decide (4 ≤ p.used) then
      { ports := p, io := { io with shift := io.shift + 1 }, waited := true,
        conflict := !(decide (bankOf a.word ∈ p.won)) }
    else
      let (k, io') := makeAccess p.core io a rest
      serveStream t issued rest { p with core := k, made := p.made ++ [madeOf io.rd a.word], used := p.used + 1 } io'

/-- The streams of an operation in order: left before right. -/
def serveStreams (t issued : Nat) : List Stream → ManPorts → ManPorts × List Stream × Bool
  | [], p => (p, [], false)
  | io :: rest, p =>
    let r := serveStream t issued io.left p io
    let (p', ios, c) := serveStreams t issued rest r.ports
    (p', r.io :: ios, r.conflict || c)

/-- Every pending operation in issue order; the result marks those that met a conflict. -/
def serveOps (t : Nat) : List PendOp → ManPorts → ManPorts × List (PendOp × Bool)
  | [], p => (p, [])
  | o :: rest, p =>
    let (p1, ios, c) := serveStreams t o.issued o.streams p
    let (p2, os) := serveOps t rest p1
    (p2, ({ o with streams := ios }, c) :: os)

/-- Slot and step of the steps that meet their first conflict, each with its issue cc. -/
def newClashes (l : List (PendOp × Bool)) : List (Nat × Nat × BitVec 13) :=
  l.foldl (fun a x => if x.2 && !x.1.clash && !(a.any fun y => y.1 = x.1.issued)
    then a ++ [(x.1.issued, x.1.slot, x.1.step)] else a) []

/-- The largest shift of an operation's streams. -/
def shiftOf (o : PendOp) : Nat := o.streams.foldl (fun m io => max m io.shift) 0

/-- The cc in which an operation's last result is written (03 R53 R55). -/
def dueOf (o : PendOp) : Nat := o.issued + o.lat + shiftOf o

/-! ## CR accesses (06 R129 R130) -/

/-- The requesters of CR accesses. -/
inductive CrUser where
  | berth
  | red
  | crane
  deriving DecidableEq, Repr

def jobOf (c : CoreCr) : CrUser → Option CrJob
  | .berth => c.berth
  | .red => c.red.map (·.2)
  | .crane => c.crane.map (·.2)

def setJob (c : CoreCr) (j : CrJob) : CrUser → CoreCr
  | .berth => { c with berth := some j }
  | .red => { c with red := c.red.map fun x => (x.1, j) }
  | .crane => { c with crane := c.crane.map fun x => (x.1, j) }

/-- A packet that a close has found accepted has not landed or been served: the close is draining (06 R142). -/
def slotGen (l : LandSlot) : Byte := BitVec.ofNat 8 (l.pkt.ref.toNat / 16)
def draining (k : Core) : Bool :=
  k.berths.drains.any fun d => k.berths.slots.any fun l => l.idx = d.idx && slotGen l = d.old.gen

/-- Whether the next access of a job wins its bank against a manifest access (06 R130). -/
def crWins (k : Core) (u : CrUser) (j : CrJob) : Bool := decide (63 ≤ j.lost) || (decide (u = .berth) && draining k)

/-- CR accesses within a cc: the core, the accesses made, those that the manifest has made, how many may still
be made, the requesters that wait, and which of crane and berth port was served first. -/
structure CrPorts where
  core : Core
  made : Made
  man : Made
  left : Nat
  waits : List CrUser := []
  first : Option CrUser := none

/-- The turn of a requester: its next access is made, or waits for its bank. In the first round (`must`) only
accesses that win against the manifest are made. -/
def crTurn (must : Bool) (p : CrPorts) (u : CrUser) : CrPorts :=
  if p.left = 0 ∨ u ∈ p.waits then p
  else
    match jobOf p.core.cr u with
    | none => p
    | some j =>
      match j.io.left with
      | [] => p
      | a :: rest =>
        if must && !crWins p.core u j then { p with waits := u :: p.waits }
        else if bankTaken p.made a.word && !merges p.made j.io.rd a.word then
          { p with
            waits := u :: p.waits
            core := { p.core with cr := setJob p.core.cr { j with lost := if bankTaken p.man a.word then j.lost + 1 else 0 } u } }
        else
          let (k, io) := makeAccess p.core j.io a rest
          { p with
            core := { k with cr := setJob k.cr { io := io, lost := 0 } u }
            made := p.made ++ [madeOf j.io.rd a.word]
            left := p.left - 1
            first := if u = .red then p.first else some (p.first.getD u) }

/-- The order of the turns: the berth port first while a close is draining, then the reduction port, then crane
and berth port in turn. -/
def crOrder (k : Core) : List CrUser :=
  (if draining k then [.berth, .berth] else []) ++ [.red, .red] ++
    (if k.cr.craneFirst then [.berth, .crane, .berth, .crane] else [.crane, .berth, .crane, .berth])

/-- CR accesses of a cc: two, or one while an XCALL copies (02 R31). -/
def crLimit (k : Core) (t : Nat) : Nat := if t < k.cr.copyUntil then 1 else 2

/-! ## A cc -/

/-- What a core's Tier S ports do in cc t, and the steps that meet their first bank conflict. -/
def portsCc (t : Nat) (k : Core) : Core × List (Nat × Nat × BitVec 13) :=
  let p1 := (crOrder k).foldl (crTurn true) { core := k, made := [], man := [], left := crLimit k t }
  let (m, os) := serveOps t k.seq.pend { core := p1.core, made := p1.made, won := p1.made.map (·.1) }
  let new := newClashes os
  let pend := os.map fun x => if new.any fun y => y.1 = x.1.issued then { x.1 with clash := true } else x.1
  let k1 : Core := { m.core with seq := { m.core.seq with pend := pend } }
  let p2 := (crOrder k1).foldl (crTurn false)
    { core := k1, made := m.made, man := m.made.drop p1.made.length, left := p1.left, first := p1.first }
  let cr := p2.core.cr
  ({ p2.core with cr := { cr with
      made := p2.made
      craneFirst := match p2.first with | some u => decide (u = .crane) | none => cr.craneFirst } }, new)

/-! ## Hazard entries (03 R56, 04 R108) -/

/-- Byte ranges under a hazard entry in cc t: first and last byte, and whether it is a write entry. A write
entry stands until its operation's latency has expired. -/
def liveHaz (k : Core) (t : Nat) : List (Nat × Nat × Bool) :=
  ((k.seq.haz.filter fun h => h.rsend.isSome || decide (t < h.release)).map fun h => (h.lo, h.hi, false)) ++
    k.seq.pend.filterMap fun o => if t < dueOf o then o.stores.map fun r => (r.1, r.2, true) else none

/-- Whether two byte ranges overlap. -/
def overlap (a b : Nat × Nat) : Bool := decide (a.1 ≤ b.2) && decide (b.1 ≤ a.2)

/-! ## Closing a berth (06 R142) -/

/-- Berth i of a core. -/
def berthOf (k : Core) (i : Nat) : Berth := look {} k.berths.recs i

def setBerth (k : Core) (i : Nat) (b : Berth) : Core :=
  { k with berths := { k.berths with recs := put {} k.berths.recs i b } }

/-- A berth closes and its drain begins (06 R142). -/
def closeBerth (k : Core) (cc : Nat) (f : BcloseF) : Core :=
  let i := f.idx.toNat
  let b := berthOf k i
  let k1 := if b.isOpen then setBerth k i { b with isOpen := false } else k
  { k1 with berths := { k1.berths with
      drains := k1.berths.drains ++ [{ idx := f.idx, old := b, aen := f.aen, qe := f.qe, issued := cc, step := k.seq.mp }] } }

/-- Every open berth closes without an acknowledgement (04 R112, 06 R145). -/
def closeAll (k : Core) (cc : Nat) : Core :=
  (List.range 16).foldl (fun k i =>
    if (berthOf k i).isOpen then closeBerth k cc { idx := BitVec.ofNat 4 i, qe := 0, aen := false } else k) k

/-! ## Results -/

/-- The byte that stream i of an operation has read at an address, zero where it has read none. -/
def seenByte (o : PendOp) (i a : Nat) : Byte :=
  match o.streams[i]? with
  | some io => look 0 io.seen a
  | none => 0

/-- The results of an operation as its last access leaves them. -/
def resultsOf (k : Core) (o : PendOp) : LateOut :=
  match o.late with
  | none => { writes := o.writes, ev := { f7 := o.f7, counts := o.counts } }
  | some l =>
    let k' : Core := { k with regs := { k.regs with p := l.p, lfsr := l.lfsr } }
    match l.op with
    | .m op => mResult k' (seenByte o) op
    | .v op => vResult k' (seenByte o) op

/-- The accesses that an operation has left, made at once. -/
def finishStream : List Acc → Core → Stream → Core × Stream
  | [], k, io => (k, io)
  | a :: rest, k, io =>
    if spadSize ≤ a.word then finishStream rest k { io with left := rest }
    else
      let (k', io') := makeAccess k io a rest
      finishStream rest k' io'

def finishStreams : List Stream → Core → Core × List Stream
  | [], k => (k, [])
  | io :: rest, k =>
    let (k1, io1) := finishStream io.left k io
    let (k2, ios) := finishStreams rest k1
    (k2, io1 :: ios)

end Sys2Proof.Machine
end

