-- ==== Sys2Proof/Machine/Records.lean ====
section
/-! DEFINITION. Records in the manual's byte layouts: the berth record (06 Table 6-4), the core save image (09 Table 9-7), the core record of a crash dump (13 Table 13-13), log and event records (13 Table 13-9, 10 Table 10-17). Where a table names the contents of a field without their layout, they stand in the order in which it names them (log entry 57). -/

namespace Sys2Proof.Machine

open Sys2Proof

/-- Bytes that the spec leaves open, from draw `base` on. -/
def freeBytes (base n : Nat) : Bytes := (List.range n).map fun i => (Config.freeWord (base + i)).setWidth 8

/-- 06 Table 6-4. -/
def berthBytes (b : Berth) : Bytes :=
  leBytes 4 b.base.toNat ++ leBytes 4 b.len.toNat ++
  [b.gen, b.lastGen, BitVec.ofNat 8 (b2n b.isOpen + 4 * b2n b.hasLast), b.src.setWidth 8,
   BitVec.ofNat 8 (b2n b.rd + 2 * b2n b.wr + 4 * b2n b.nen + 8 * b.qe.toNat)] ++ zeros 3

/-- The P, L and F registers of both layouts. -/
def pBytes (k : Core) : Bytes := ((lookRange 0 k.regs.p 0 16).map fun x => leBytes 4 x.toNat).flatten
def lBytes (k : Core) : Bytes := ((lookRange 0 k.regs.l 0 4).map fun x => leBytes 4 x.toNat).flatten
def fBytes (k : Core) : Bytes := ((lookRange 0 k.regs.f 0 8).map fun x => leBytes 4 x.toNat).flatten

/-- SEQ of Table 9-7. -/
def seqBytes (k : Core) : Bytes :=
  leBytes 2 k.seq.mp.toNat ++ leBytes 2 k.seq.stack.length ++ leBytes 4 k.seq.ordinal.toNat ++
  leBytes 2 k.seq.lastMid.toNat ++ zeros 6

def qBytes (k : Core) : Bytes :=
  ((lookRange {} k.sync.q 0 8).map fun e => leBytes 2 e.count.toNat ++ leBytes 2 e.out.toNat).flatten

/-- An error record followed by a later one. -/
def joinErr (r n : CErr) : CErr :=
  if n.status = 0 then r
  else { status := if r.status = 0 then n.status else r.status
         count := BitVec.ofNat 8 (min 255 (r.count.toNat + n.count.toNat))
         seq := if r.status = 0 then n.seq else r.seq }

/-- A queue's error record with the completions of the cc that is named joined to it. -/
def cerrAll (k : Core) (q : Nat) : CErr := joinErr (look {} k.crane.cerr q) (look (0, {}) k.crane.cerrNew q).2

def cerrBytes (k : Core) : Bytes :=
  ((List.range 8).map fun q => let e := cerrAll k q; [e.status, e.count] ++ leBytes 2 e.seq.toNat ++ zeros 4).flatten

def berthsBytes (k : Core) : Bytes := ((lookRange {} k.berths.recs 0 16).map berthBytes).flatten

/-- Tags of a voyage as a bit map over its bindings. -/
def tagMap (img : Image) (tags : List (BitVec 16)) : Bytes :=
  leBytes 512 ((img.tags.zipIdx.map fun p => if p.1.tag ∈ tags then 2 ^ p.2 else 0).foldl (· + ·) 0)

/-- A loop-stack frame in 8 bytes (DESIGN CHOICE, log entry 57: the tables give its width alone): start with the kind in
bit 15, end with the counter in bits 13 and 14, trips. -/
def frameBytes (f : Frame) : Bytes :=
  leBytes 2 (f.start.toNat + 2 ^ 15 * b2n f.isLoop) ++ leBytes 2 (f.last.toNat + 2 ^ 13 * f.ln.toNat) ++ leBytes 4 f.trips.toNat

/-- The loop stack: 8 frames, the top last. -/
def stackBytes (l : List Frame) : Bytes := slice (l.reverse.flatMap frameBytes) 0 64

/-- A waiting contribution of Table 9-7 RSEND in 16 bytes (log entry 57): tag, source address, flits injected (none while
it waits), round bit, state with the kind. -/
def rsendRecBytes (k : Core) (r : RSendRec) : Bytes :=
  leBytes 2 r.tag.toNat ++ leBytes 4 r.addr ++ leBytes 2 0 ++
  [BitVec.ofNat 8 (b2n (decide (r.tag ∈ k.sync.round))), BitVec.ofNat 8 (1 + 2 * b2n r.kind)] ++ zeros 6

/-- The mooring record of 04 R110 in 256 bytes (log entry 57), in the order in which R110 records it. -/
def moorBytes : Option MoorRec → Bytes
  | none => zeros 256
  | some m =>
    slice (((lookRange 0 m.p 0 16).flatMap fun x => leBytes 4 x.toNat) ++ ((lookRange 0 m.l 0 4).flatMap fun x => leBytes 4 x.toNat) ++
      stackBytes m.stack ++ leBytes 4 m.f7.toNat ++ leBytes 2 m.step.toNat ++ leBytes 4 m.ordinal.toNat ++ leBytes 2 m.mid.toNat ++
      lookRange 0 m.lastGen 0 16 ++
      leBytes 2 (((List.range 16).map fun i => b2n (look false m.hasLast i) * 2 ^ i).foldl (· + ·) 0)) 0 256

/-- Bytes 40 to 63 of a crane entry (log entry 57): next packet index, WB, state, epoch, check register. -/
def entryTail (e : CraneEntry) : Bytes :=
  leBytes 2 e.next ++
  [BitVec.ofNat 8 (b2n e.wb), BitVec.ofNat 8 (if e.suspended then 2 else if e.next = 0 then 0 else 1), e.epoch.setWidth 8] ++ zeros 3 ++
  leBytes 8 e.ck.toNat ++ zeros 8

/-- The core save image (09 Table 9-7); `tide` is the tide count at Stop. -/
def saveImage (k : Core) (img : Image) (xy : Nat × Nat) (tide : BitVec 64) (dtab : Word) : Bytes :=
  leBytes 2 1 ++ leBytes 2 k.misc.vid.toNat ++ [BitVec.ofNat 8 xy.1, BitVec.ofNat 8 xy.2] ++ zeros 2 ++
  leBytes 8 tide.toNat ++ leBytes 2 dtab.toNat ++ leBytes 2 k.seq.mp.toNat ++ zeros 44 ++
  pBytes k ++ lBytes k ++ fBytes k ++ stackBytes k.seq.stack ++ seqBytes k ++ qBytes k ++
  ((List.range 8).map fun e => leBytes 2 (((tileT k e).signExtend 16).toNat) ++
    [BitVec.ofNat 8 (b2n (look false k.regs.tileNx e)), 0]).flatten ++
  ((lookRange 0 k.regs.lfsr 0 96).map fun x => leBytes 4 x.toNat).flatten ++
  berthsBytes k ++ cerrBytes k ++ slice (k.sync.rsends.flatMap (rsendRecBytes k)) 0 128 ++ moorBytes k.seq.moor ++ zeros 640 ++
  tagMap img k.sync.sent ++ tagMap img k.sync.round ++
  ((List.range 8).map fun q => ((List.range 16).map fun i =>
    match (look [] k.crane.queues q)[i]? with
    | some e => leBytes 40 e.desc.toNat ++ entryTail e
    | none => zeros 64).flatten).flatten ++
  ((lookRange 0 k.seq.manifest 7168 1024).map fun w => leBytes 32 w.toNat).flatten ++
  ((lookRange 0 k.regs.v 0 4096).map fun x => leBytes 4 x.toNat).flatten ++
  ((List.range 8).map fun e => imageOut (tileImage k e)).flatten ++ lookRange 0 k.tierS 0 spadSize

/-- Bytes of a core save image and of its slot (09 R232 R233). -/
def saveBytes : Nat := 6452736
def saveSlot : Nat := 6488064

/-- SYNC of Table 13-13 in 16 bytes (log entry 57): awaited BID, whether one is awaited, RWAIT tag, whether one is awaited,
MOOR MID, whether a join is awaited, whether this core holds others, and how many hold it. -/
def syncBytes (k : Core) : Bytes :=
  let w := match k.sync.waiting with | some st => st.s | none => .nop
  let bid : Nat × Nat := match w with | .bar b _ => (b.toNat, 1) | _ => (0, 0)
  let tag : Nat × Nat := match w with | .rwait t => (t.toNat, 1) | _ => (0, 0)
  let mid : Nat × Nat := match w with | .moor m => (m.toNat, 1) | _ => (0, 0)
  leBytes 1 bid.1 ++ leBytes 1 bid.2 ++ leBytes 2 tag.1 ++ leBytes 1 tag.2 ++ leBytes 2 mid.1 ++ leBytes 1 mid.2 ++
    leBytes 1 (b2n k.sync.holdSent) ++ leBytes 2 k.sync.holds.length ++ zeros 5

/-- The core record of a crash dump (13 Table 13-13, 06 R149). -/
def dumpCore (k : Core) (xy : Nat × Nat) (cause first : Word) (cc : Nat) : Bytes :=
  let es := (k.crane.queues.map fun q => q.2.map fun e => (q.1, e)).flatten
  let haz := ((liveHaz k cc).take 8).map fun h =>
    leBytes 4 (h.1 + 2 ^ 31 * b2n h.2.2) ++ leBytes 4 h.2.1
  [BitVec.ofNat 8 xy.1, BitVec.ofNat 8 xy.2] ++
  leBytes 2 (b2n (k.sync.run = .halted) + 2 * b2n k.misc.failed + 4 * b2n (k.sync.holds ≠ []) + 8 * b2n k.misc.fenced) ++
  leBytes 4 cause.toNat ++ leBytes 4 first.toNat ++ zeros 4 ++ pBytes k ++ lBytes k ++ fBytes k ++
  seqBytes k ++ stackBytes k.seq.stack ++ qBytes k ++ cerrBytes k ++ berthsBytes k ++
  slice haz.flatten 0 64 ++ syncBytes k ++ leBytes 2 es.length ++ zeros 14 ++
  (es.map fun p => leBytes 40 p.2.desc.toNat ++ leBytes 2 p.2.next ++
    [BitVec.ofNat 8 p.1, BitVec.ofNat 8 (if p.2.suspended then 2 else if p.2.next = 0 then 0 else 1), p.2.epoch.setWidth 8] ++ zeros 3).flatten

/-- 13 Table 13-9. -/
def logBytes (r : LogRec) : Bytes :=
  let b := leBytes 8 r.tick.toNat ++ leBytes 2 r.code.toNat ++ [r.sev, r.rep] ++ leBytes 4 r.source.toNat ++
    leBytes 2 r.vid.toNat ++ [r.leaf, 0] ++ leBytes 4 r.ordinal.toNat ++ leBytes 32 r.data.toNat ++ leBytes 4 r.seq.toNat
  b ++ leBytes 4 (checkOf 1 0 (r.seq.setWidth 16) b).toNat

/-- 10 Table 10-17. -/
def evtBytes (e : EvtRec) : Bytes :=
  leBytes 2 e.ty.toNat ++ leBytes 2 e.vid.toNat ++ leBytes 2 e.status.toNat ++ [e.pid, 0] ++
  leBytes 8 e.tick.toNat ++ leBytes 8 e.arg0.toNat ++ leBytes 8 e.arg1.toNat

end Sys2Proof.Machine
end

