-- ==== Sys2Proof/Machine/Harbour.lean ====
section
/-! DEFINITION. What the harbour master does for many commands: choices it is free to make, events (10 R258), mailbox replies (10 R247 R250), health folds (02 R51), segments and windows (06 R147, 09 R217), crash dumps (13 R350), the end of a voyage (10 Table 10-18, 06 R145 R150), failed cores (13 R327) and due replays (13 R331). -/

namespace Sys2Proof.Machine

open Sys2Proof

/-! ## Statuses (00 Table 0-3) and choices -/

def stOk : Nat := 0
def stBusy : Nat := 1
def stNotReady : Nat := 2
def stBadMessage : Nat := 3
def stBadSignature : Nat := 4
def stNoResource : Nat := 5
def stTimeout : Nat := 6
def stFaulted : Nat := 7
def stPreempted : Nat := 8
def stCancelled : Nat := 9
def stCapacityLost : Nat := 10
def stLicence : Nat := 12
def stDivergent : Nat := 13

/-- An element of 0 to n - 1 that satisfies a test, where the spec leaves open which one: the
first from a free starting point on (log entry 1). -/
def choose (s : State) (n : Nat) (ok : Nat → Bool) : State × Option Nat :=
  let (s1, f) := drawFree s
  let k := f.toNat % max 1 n
  (s1, ((List.range n).map fun i => (k + i) % n).find? ok)

/-- A choice of the device that the spec leaves open, as a Bool. -/
def chooseBool (s : State) : State × Bool :=
  let (s1, f) := drawFree s
  (s1, f.getLsbD 0)

/-- HM_STAGE.STAGE (14 Table 14-2). -/
def stage (s : State) : Nat := getField s (hmBase + 4) 0 4

/-! ## Events (10 R258) -/

def evtWrOff : Nat := hmBase + 0x28
def evtRdOff : Nat := hmBase + 0x2C

/-- Records written and not consumed. -/
def evtHeld (s : State) : Nat := (reg s evtWrOff - reg s evtRdOff).toNat

/-- Writes words at consecutive offsets. -/
def setWords (s : State) (off : Nat) : List Word → State
  | [] => s
  | w :: r => setWords (setReg s off w) (off + 4) r

/-- A byte string as words. -/
def wordsOfBytes (b : Bytes) : List Word :=
  (List.range (b.length / 4)).map fun i => BitVec.ofNat 32 (fieldAt b (4 * i) 4)

/-- Writes a record into the ring. -/
def evtWrite (s : State) (e : EvtRec) : State :=
  let i := (reg s evtWrOff).toNat % 1024
  let s1 := setWords s (hmBase + 0x4000 + 32 * i) (wordsOfBytes (evtBytes e))
  raise (setReg s1 evtWrOff (reg s1 evtWrOff + 1)) 1 0 0 { vid := e.vid }

/-- An event: into the ring, the backlog, or lost. -/
def evtPut (s : State) (e : EvtRec) : State :=
  if evtHeld s < 1024 then evtWrite s e
  else if s.hm.backlog.length < 65536 then
    raise { s with hm := { s.hm with backlog := s.hm.backlog ++ [e] } } 1 0 1 { vid := e.vid }
  else raise s 1 0 2 { vid := e.vid }

/-- An event of a voyage, or of the device (10 Table 10-18). -/
def event (s : State) (ty : Nat) (vid : Option Nat) (status : Nat) (arg0 arg1 : Nat) : State :=
  let pid : Nat := match vid with
    | some v => (match s.voyage v with | some y => y.pid | none => 255)
    | none => 255
  evtPut s { ty := BitVec.ofNat 16 ty, vid := BitVec.ofNat 16 (vid.getD 0xFFFF), status := BitVec.ofNat 16 status,
             pid := BitVec.ofNat 8 pid, tick := s.tide, arg0 := BitVec.ofNat 64 arg0, arg1 := BitVec.ofNat 64 arg1 }

/-- Backlogged events that the ring has room for, oldest first. -/
def evtDrain : Nat → State → State
  | 0, s => s
  | n + 1, s =>
    match s.hm.backlog with
    | [] => s
    | e :: r => if evtHeld s < 1024 then evtDrain n (evtWrite { s with hm := { s.hm with backlog := r } } e) else s

/-! ## Mailbox replies (10 R247 R250) -/

/-- The device is not idle now (10 R260). -/
def notIdle (s : State) : State := { s with hm := { s.hm with idle := { s.hm.idle with idleSince := s.tide.toNat } } }

/-- A mailbox's state, also in HM_MBX_STATE. -/
def setBoxState (s0 : State) (mb st : Nat) : State :=
  let s := notIdle s0
  putField (s.setBox mb { s.box mb with st := st }) (hmBase + 0x18) (2 * mb) 2 st

/-- The reply to the message of a mailbox: header (10 Table 10-8) and body, the SEQ, the
mailbox IDLE, REPLY set. -/
def reply (s : State) (mb status detail : Nat) (body : Bytes) : State :=
  let b := s.box mb
  match b.msg with
  | none => s
  | some m =>
    let body := body ++ zeros ((4 - body.length % 4) % 4)
    let bytes := leBytes 4 m.seq.toNat ++ leBytes 2 m.ty.toNat ++ leBytes 2 (16 + body.length) ++
      leBytes 2 status ++ zeros 2 ++ leBytes 4 detail ++ body
    let s1 := s.setBox mb { b with rep := putList 0 b.rep 0 bytes, msg := none }
    raise (setBoxState s1 mb 0) 0 0 mb

/-- The end of an operation that a message asked for: its reply while the message waits, an
OP_DONE event after a TIMEOUT (10 R250). -/
def finishOp (s : State) (a : Option Asker) (status detail : Nat) (body : Bytes) : State :=
  match a with
  | none => s
  | some a =>
    match (s.box a.mb).msg with
    | some m =>
      if m.seq = a.seq ∧ m.ty = a.ty then reply s a.mb status detail body
      else event s 0x0E a.vid status a.ty.toNat a.seq.toNat
    | none => event s 0x0E a.vid status a.ty.toNat a.seq.toNat

/-! ## Health counters (02 R51) -/

/-- Adds counters to totals. -/
def addTotals (m : SMap (BitVec 64)) (c : SMap Word) : SMap (BitVec 64) :=
  c.foldl (fun m p => upd 0 m p.1 (· + p.2.setWidth 64)) m

/-- Folds a core's counters into the panel's totals and its voyage's, and zeroes them. -/
def foldCore (s : State) (c : Nat) : State :=
  let k := s.core c
  let s1 := { s with hm := { s.hm with health := addTotals s.hm.health k.regs.counters } }
  let s2 := s1.updVoyage k.misc.vid.toNat fun v => { v with health := addTotals v.health k.regs.counters }
  s2.setCore c { k with regs := { k.regs with counters := [] } }

/-! ## Segments and windows -/

/-- The first byte past the places of segments in a memory (09 Table 9-1). -/
def segTop (m : Nat) : Nat := if m < 72 then 0xBE1A00000 else 0x4000000000

/-- The memory number of a segment's record: 0 to 71 Tier H, 72 to 79 Tier B. -/
def memOf (tierB : Bool) (i : Nat) : Nat := if tierB then 72 + i else i

/-- Segments of a memory. -/
def segsIn (s : State) (m : Nat) : List (Nat × SegRec) :=
  s.segs.filter fun p => decide (p.2.st ≠ 0) && decide (memOf p.2.tierB p.2.mem = m)

/-- Places held by a move's target. -/
def moveSpans (s : State) (m : Nat) : List (Nat × Nat) :=
  s.segs.filterMap fun p => match p.2.move with
    | some v => if memOf v.tierB v.mem = m then some (v.base, p.2.len) else none
    | none => none

/-- Whether a range of a memory is free for a segment. -/
def segFits (s : State) (m base len : Nat) : Bool :=
  decide (base + len ≤ segTop m) &&
  ((segsIn s m).map (fun p => (p.2.base, p.2.len)) ++ moveSpans s m).all fun r =>
    decide (base + len ≤ r.1) || decide (r.1 + r.2 ≤ base)

/-- A base for `len` bytes in memory m, where the harbour master is free to choose (log entry 1):
the end of a free starting point or of another segment. -/
def placeIn (s : State) (m len : Nat) : State × Option Nat :=
  let (s1, f) := drawFree s
  let cand := (f.toNat * 65536 % segTop m) :: 0 ::
    (((segsIn s m).map fun p => p.2.base + p.2.len) ++ (moveSpans s m).map fun r => r.1 + r.2)
  (s1, cand.find? fun b => segFits s m b len)

/-- A memory among `ms` and a base in it for `len` bytes; the order of the memories is free. -/
def placeAmong (s : State) (ms : List Nat) (len : Nat) : State × Option (Nat × Nat) :=
  let (s1, i) := choose s ms.length fun i => (placeIn s (ms.getD i 0) len).2.isSome
  match i with
  | none => (s1, none)
  | some i =>
    let m := ms.getD i 0
    let (s2, b) := placeIn s1 m len
    (s2, b.map fun b => (m, b))

/-- Clears a range of a memory and its uncorrectable blocks: zeros with valid codes. -/
def zeroMem (s : State) (m base len : Nat) : State :=
  let out (k : Nat) : Bool := decide (k < memKey m base) || decide (memKey m (base + len) ≤ k)
  { s with mem := s.mem.filter fun p => out p.1
           ueBlocks := s.ueBlocks.filter fun p => out p.1 }

/-- A descriptor of BAR2 window w (10 R242): its bytes in the HM block. -/
def winOff (w : Nat) : Nat := hmBase + 0xC000 + 32 * w
def winField (s : State) (w off n : Nat) : Nat :=
  fieldAt (((List.range 8).map fun i => leBytes 4 (reg s (winOff w + 4 * i)).toNat).flatten) off n
def winOn (s : State) (w : Nat) : Bool := bitOf (winField s w 27 1) 7
def winSid (s : State) (w : Nat) : Nat := winField s w 24 2
def winGen (s : State) (w : Nat) : Nat := winField s w 26 1

/-- Enabled windows that map a segment under its present generation. -/
def winsOf (s : State) (sid : Nat) : List Nat :=
  (List.range 256).filter fun w => winOn s w && winSid s w = sid && winGen s w = (s.seg sid).gen.toNat

/-- EN is cleared in a window. -/
def winClear (s : State) (w : Nat) : State :=
  let o := winOff w + 24
  setReg s o (reg s o &&& ~~~0x80000000#32)

/-- A segment is scrubbed, with the place that a move of the harbour master's own was taking it to, and its SID released (09 R217, 06 R147); GEN rises by 1, and a SID
released with GEN 255 stays FREE for good (its GEN stays 255). -/
def freeSeg (s : State) (sid : Nat) : State :=
  let r := s.seg sid
  if r.st = 0 then s
  else
    let s0 := match r.move with
      | some v =>
        if (segsIn s (memOf v.tierB v.mem)).all fun p => decide (p.1 = sid) || decide (v.base + r.len ≤ p.2.base) || decide (p.2.base + p.2.len ≤ v.base)
        then zeroMem s (memOf v.tierB v.mem) v.base r.len
        else s
      | none => s
    let s1 := zeroMem s0 (memOf r.tierB r.mem) r.base r.len
    let s2 := { s1 with hm := { s1.hm with winDisabled := s1.hm.winDisabled.filter fun w => decide (winSid s1 w ≠ sid) } }
    s2.setSeg sid { gen := if r.gen = 255#8 then 255#8 else r.gen + 1, releasing := r.gen = 255#8 }

/-- A SID that SEG_CREATE may use: FREE and not retired. -/
def sidFree (s : State) (i : Nat) : Bool := decide ((s.seg i).st = 0) && !(s.seg i).releasing

/-- Segments that a voyage holds exclusively. -/
def ownedBy (s : State) (vid : Nat) : List Nat :=
  (s.segs.filter fun p => decide (p.2.st ≠ 0) && p.2.owner = BitVec.ofNat 16 vid).map (·.1)

/-- The exclusive segments of a voyage are scrubbed and released. -/
def freeOwned (s : State) (vid : Nat) : State := (ownedBy s vid).foldl freeSeg s

/-- Loaded voyages that map a segment (10 R255). -/
def mappers (s : State) (sid : Nat) : List Nat :=
  (s.voyages.filter fun p => match p.2 with
    | some v => v.img.segmap.any fun e => e.sid.toNat = sid
    | none => false).map (·.1)

/-! ## Firmware causes (13 Table 13-7) -/

def fwCoreFailed : Nat := 0
def fwDieFailed : Nat := 1
def fwSpareUsed : Nat := 2
def fwSpareExhausted : Nat := 3
def fwReplay : Nat := 4
def fwReplaced : Nat := 5
def fwCapacityLost : Nat := 6
def fwStackLost : Nat := 7
def fwDataLost : Nat := 8
def fwSegTimeout : Nat := 9
def fwPartReset : Nat := 10
def fwPartResetFail : Nat := 11
def fwPairSwap : Nat := 12
def fwPairRetired : Nat := 13

/-! ## Crash dumps (13 R350) -/

/-- Bytes of a dump in the store. -/
def dumpLen (d : Dump) : Nat :=
  64 + 16 * d.sections.length + (d.sections.map fun x => x.2.2.length).foldl (· + ·) 0

/-- Drops the oldest dumps until the store holds 48 MiB; tells whether an unread one went. -/
def dumpTrim : Nat → List Dump → Bool → List Dump × Bool
  | 0, l, u => (l, u)
  | n + 1, l, u =>
    if (l.map dumpLen).foldl (· + ·) 0 ≤ 48 * 2 ^ 20 then (l, u)
    else match l with
      | [] => ([], u)
      | d :: r => dumpTrim n r (u || !d.read)

/-- Segments whose indices the dump of a voyage that retains its contents records (06 R150): its exclusive segments and the
retention segment. -/
def dumpSegs (s : State) (vid : Option Nat) : List Nat :=
  match vid with
  | none => []
  | some i =>
    match s.voyage i with
    | some v => if v.retain then (s.segs.filter fun p => p.2.owner.toNat = i).map (·.1) else []
    | none => []

/-- Writes a crash dump. Sections 2 to 4 have no byte layout and are free; the segments of a retained set stand, two
bytes each, at the end of section 4 (log entry 57). -/
def writeDump (s : State) (reason : Nat) (vid : Option Nat) : State :=
  let pid : Nat := match vid with
    | some v => (match s.voyage v with | some y => y.pid | none => 255)
    | none => 255
  let cs : List Nat := match vid with
    | some v => coresOf s (BitVec.ofNat 16 v)
    | none => (s.cores.filter fun p => p.2.misc.vid ≠ noVoyage).map (·.1)
  let record (c : Nat) : Bytes :=
    let k := s.core c
    let o := leafOff (2 + basinOf s c) (leafOf s c)
    dumpCore k (k.misc.seedXY.getD (coreX c, coreY c)) (reg s o) (reg s (o + 8)) s.cc
  let f := s.free
  let logs := s.log.recs.drop (s.log.recs.length - 256)
  let d : Dump :=
    { reason := BitVec.ofNat 16 reason, tick := s.tide, vid := BitVec.ofNat 16 (vid.getD 0xFFFF),
      pid := BitVec.ofNat 8 pid, logSeq := s.log.nextSeq - 1, keyId := BitVec.ofNat 32 s.sec.dumpKey,
      iv := slice (Config.drbg s.sec.reseeds s.sec.draws) 0 12, read := false
      sections := [(1, cs.length, cs.flatMap record), (2, 1, freeBytes f 8),
        (3, 1, freeBytes (f + 8) 8), (4, 1, freeBytes (f + 16) 8 ++ (dumpSegs s vid).flatMap (leBytes 2)),
        (5, logs.length, (logs.map logBytes).flatten)] }
  let (l, lost) := dumpTrim (s.log.dumps.length + 1) (s.log.dumps ++ [d]) false
  let s1 := { s with free := f + 24, log := { s.log with dumps := l }
                     sec := { s.sec with draws := s.sec.draws + 1 } }
  let s2 := raiseLh s1 3
  if lost then raiseLh s2 4 else s2

/-! ## The end of a voyage -/

/-- Every router and engine lets go of a voyage: table entries, streams, contexts, runs. -/
def dropVoyage (s : State) (vid : Nat) : State :=
  let v := BitVec.ofNat 16 vid
  let s1 := (s.routers.map (·.1)).foldl (fun s r => s.updRouter r fun k =>
    { k with table := k.table.filter (·.vid ≠ v), streams := k.streams.filter (·.vid ≠ v)
             outs := k.outs.filter (·.vid ≠ v) }) s
  (s1.engines.map (·.1)).foldl (fun s m => s.updEngine m fun e =>
    { e with ctxs := e.ctxs.filter (·.vid ≠ v), queue := e.queue.filter (·.vid ≠ v)
             running := e.running.filter (·.vid ≠ v), moors := e.moors.filter (·.vid ≠ v) }) s1

/-- Stop and Close of a scrub (06 Table 6-10) in cc t: crane entries that have not started are dropped and the others
inject no more, waiting contributions are dropped, every open berth closes under R142. -/
def stopForScrub (t : Nat) (k : Core) : Core :=
  let k1 := closeAll k t
  { k1 with
    sync := { k1.sync with run := .stopped, waiting := none, waitSince := none, holds := [], holdSent := false, rsends := [] }
    seq := { k1.seq with pend := [], haz := [] }
    crane := { k1.crane with queues := k1.crane.queues.filterMap fun q =>
      let l := (q.2.filter fun e => decide (0 < e.next)).map fun e => { e with ended := true, suspended := false }
      if l = [] then none else some (q.1, l) }
    misc := { k1.misc with scrubbing := true, scrubFrom := t } }

/-- The re-placement rules that lead to a list of cores leave every router (13 R337). -/
def dropRules (s : State) (cs : List Nat) : State :=
  ((s.routers.filter fun p => p.2.replace.any fun x => decide (x.2 ∈ cs)).map (·.1)).foldl
    (fun s r => s.updRouter r fun k => { k with replace := k.replace.filter fun x => decide (x.2 ∉ cs) }) s

/-- The cores of a voyage stop and wait for their scrub (06 R145); no packet is led to them any more. -/
def sendToScrub (s : State) (vid : Nat) : State :=
  let cs := coresOf s (BitVec.ofNat 16 vid)
  let s1 := updCores (dropRules s cs) cs (stopForScrub s.cc)
  match s1.voyage vid with
  | some v =>
    (match s1.part v.pid with
      | some p => s1.setPart v.pid (some { p with scrubbing := true })
      | none => s1)
  | none => s1

/-- 06 R150: a retaining voyage's cores are copied into a retention segment of Tier H. Without
space the copy is not made, the log says so, and the voyage retains nothing. -/
def retainCopy (s : State) (vid : Nat) : State :=
  match s.voyage vid with
  | none => s
  | some v =>
    let cs := coresOf s (BitVec.ofNat 16 vid)
    let len := (cs.length * saveSlot + 65535) / 65536 * 65536
    let (s1, sid) := choose s 65535 (sidFree s)
    let (s2, place) := placeAmong s1 (List.range 72) len
    match sid, place with
    | some i, some (m, b) =>
      let img (c : Nat) : Bytes :=
        saveImage (s.core c) v.img ((s.core c).misc.seedXY.getD (coreX c, coreY c)) s.tide
          (reg s (fabBase + 0x1C))
      let s3 := cs.zipIdx.foldl (fun s p => memWrite s m (b + saveSlot * p.2) (img p.1)) s2
      let s4 := s3.setSeg i { st := 1, mem := m, gen := (s3.seg i).gen, owner := BitVec.ofNat 16 vid, home := BitVec.ofNat 8 m,
                              base := b, len := len }
      s4.updVoyage vid fun v => { v with retained := i :: v.retained }
    | _, _ =>
      let (s3, code) := drawFree s2
      (logFw s3 (code.toNat % 256) 3 { vid := BitVec.ofNat 16 vid }).updVoyage vid fun v => { v with retain := false }

/-- The time of a suspension goes to the voyage's statistics (09 R227). -/
def countFault (s : State) (vid : BitVec 16) (since : Nat) : State :=
  s.updVoyage vid.toNat fun v => { v with faultTicks := v.faultTicks + BitVec.ofNat 64 (s.tide.toNat - since) }

/-- The ticks since which transfers and entries of a voyage are suspended. -/
def suspendedSince (s : State) (vid : BitVec 16) : List Nat :=
  ((coresOf s vid).flatMap fun c => ((s.core c).crane.queues.flatMap (·.2)).filterMap fun e =>
    if e.suspended then some e.faultTick else none) ++
  s.engines.flatMap fun p => p.2.running.filterMap fun r => if r.vid = vid && r.suspended then some r.faultTick else none

/-- The time of every suspension of a voyage that ends otherwise than by its resolution (09 R227). -/
def countSuspended (s : State) (vid : BitVec 16) : State :=
  (suspendedSince s vid).foldl (fun s t => countFault s vid t) s

/-- The core on which a voyage's logical position runs. -/
def placeOf (v : Voyage) (c : Nat) : Nat :=
  match v.moved.find? fun p => p.1 = c with
  | some p => p.2
  | none => c

/-! ### The staging area (09 R232) -/

/-- The staging slot of a core: memory and address (09 R232). The order of the 72 positions of a
stack is the model's (log entry 13). -/
def stageSlot (c : Nat) : Nat × Nat :=
  let ld := coreX c / 6
  (6 * (coreY c / 6) + ld / 2, 0xBE1A00000 + saveSlot * (36 * (ld % 2) + 6 * (coreY c % 6) + coreX c % 6))

/-- The capture region of a router (09 R232): memory and address. -/
def captureAt (r : Nat) : Nat × Nat :=
  ((stageSlot r).1, 0xBFD780000 + 0x90000 * (36 * (coreX r / 6 % 2) + 6 * (coreY r % 6) + coreX r % 6))

/-- Streams that a save has captured at router r. -/
def capturedAt (g : SaveImg) (r : Nat) : List RStream := (g.streams.filter (·.1 = r)).map (·.2)

/-- Routers of which a save holds streams. -/
def capturedRouters (g : SaveImg) : List Nat := g.streams.foldl (fun l p => addOnce p.1 l) []

/-- What a hard save holds of the staging area: memory, address and bytes of its slots and capture regions. -/
def stagingParts (v : Voyage) (g : SaveImg) : List (Nat × Nat × Nat) :=
  (g.cores.map fun p => let a := stageSlot (placeOf v p.1); (a.1, a.2, saveSlot)) ++
    (capturedRouters g).map fun r => ((captureAt r).1, (captureAt r).2, 0x90000)

/-- The staging area of a save is zeroed. -/
def scrubStaging (s : State) (v : Voyage) (g : SaveImg) : State :=
  (stagingParts v g).foldl (fun s a => zeroMem s a.1 a.2.1 a.2.2) s

/-- Whether a voyage's hard save stands in the staging area. -/
def staged (v : Voyage) (g : SaveImg) : Bool :=
  g.hard && !g.parked && (decide (v.st = vPreempted) || decide (5 ≤ v.savePhase))

/-- A save that ends with its voyage leaves nothing in the staging area (09 R236). -/
def dropSave (s : State) (vid : Nat) : State :=
  match s.voyage vid with
  | none => s
  | some v =>
    match v.save with
    | some g => if staged v g then scrubStaging s v g else s
    | none => s

/-- Whether a voyage retains its contents. -/
def keepsContents (s : State) (vid : Nat) : Bool :=
  match s.voyage vid with
  | some v => v.retain
  | none => false

/-- A voyage enters ENDED with a status and an event. -/
def endVoyage (s : State) (vid status ty arg0 arg1 : Nat) : State :=
  match s.voyage vid with
  | none => s
  | some v =>
    if v.st = vEnded then s
    else
      let info : LogInfo := { vid := BitVec.ofNat 16 vid, ordinal := v.ordinal }
      let s1 := (coresOf s (BitVec.ofNat 16 vid)).foldl foldCore (countSuspended (dropSave s vid) (BitVec.ofNat 16 vid))
      let s2 := match v.preempt with
        | some q => finishOp s1 q.asker stCancelled 5 []
        | none => s1
      let s3 := if v.retain then retainCopy s2 vid else s2
      let s4a := if keepsContents s3 vid then s3 else
        { s3 with hm := { s3.hm with winDisabled :=
          ((ownedBy s3 vid).flatMap (winsOf s3)).foldl (fun l w => addOnce w l) s3.hm.winDisabled } }
      let s4 := if status = stFaulted then
          let (t, f) := drawFree s4a
          writeDump (logFw t (f.toNat % 256) 4 info) 1 (some vid)
        else s4a
      let s5 := sendToScrub (dropVoyage s4 vid) vid
      let s6 := s5.updVoyage vid fun v =>
        { v with st := vEnded, endTick := s.tide, preempt := none, save := none, savePhase := 0, due := [] }
      event s6 ty (some vid) status arg0 arg1

/-- Ends a voyage with FAULTED; the event names its first halted core (10 Table 10-18). -/
def voyageFault (s : State) (vid : BitVec 16) : State :=
  match (coresOf s vid).find? fun c => decide ((s.core c).sync.run = .halted) with
  | some c =>
    let xy := (s.core c).misc.seedXY.getD (coreX c, coreY c)
    endVoyage s vid.toNat stFaulted 0x02 (xy.1 + 256 * xy.2) (s.core c).seq.mp.toNat
  | none => endVoyage s vid.toNat stFaulted 0x02 (2 ^ 64 - 1) 0xFF

/-- Ends a voyage with FAULTED and no halted core; `cause` is a replay cause or 0xFF. -/
def voyageFaultBy (s : State) (vid cause : Nat) : State := endVoyage s vid stFaulted 0x02 (2 ^ 64 - 1) cause

/-! ## Failed cores and due replays -/

/-- The running cores of a voyage stop at their step boundaries. -/
def stopVoyage (s : State) (vid : BitVec 16) : State :=
  updCores s (coresOf s vid) fun k =>
    if k.sync.run = .running then { k with sync := { k.sync with run := .stopped } } else k

/-- A replay of a voyage is due for a cause of 13 Table 13-3; its cores stop. -/
def dueReplay (s : State) (vid : BitVec 16) (cause : BitVec 8) : State :=
  match s.voyage vid.toNat with
  | some v =>
    if v.st = vRunning ∨ v.st = vSaving then
      (stopVoyage s vid).updVoyage vid.toNat fun v => { v with due := addOnce cause v.due }
    else s
  | none => s

/-- A core is marked failed: it stops, its router fences it, CORE_FAILED is raised and its voyage's
replay is due (13 R327). -/
def failCore (s : State) (c : Nat) : State :=
  let k := s.core c
  if k.misc.failed then s
  else
    let s1 := s.setCore c { k with
      sync := { k.sync with run := if k.sync.run = .running then .stopped else k.sync.run, rsends := [] }
      seq := { k.seq with haz := k.seq.haz.filter fun h => h.rsend.isNone }
      misc := { k.misc with failed := true, fenced := true } }
    let s2 := raiseFw { s1 with bring := { s1.bring with failedCores := addOnce c s1.bring.failedCores } } fwCoreFailed
      { unit := c, vid := k.misc.vid, ordinal := k.seq.ordinal }
    dueReplay s2 k.misc.vid 1

end Sys2Proof.Machine
end

