-- ==== Sys2Proof/Machine/Issue.lean ====
section
/-! DEFINITION. Issue of a step (02 R26 to R32, 03 R53 to R56 R62, 04): the stall conditions, the effect of the C and S slots at issue, the loop back-edge, and the halts of Tables 3-1 and 4-1. -/

namespace Sys2Proof.Machine

open Sys2Proof

/-! ## Stalls (02 R28, 03 R56 R62) -/

/-- Tiles that the matrix unit accumulates into (the exception of 02 R28). -/
def accTiles : MOp → List Reg
  | .mma f => tiles f.ed (f.fa = 8)
  | _ => []

/-- A register of the step has a write pending. -/
def regStall (k : Core) (st : Step4) : Bool :=
  let rs := stepReads st ++ stepWrites st
  let acc := accTiles st.m
  k.seq.pend.any fun o => o.regs.any fun r => decide (r ∈ rs) && !(o.acc && decide (r ∈ acc))

/-- F7 is named while an operation that can raise events has not written its last result. -/
def f7Stall (k : Core) (st : Step4) : Bool :=
  decide (Reg.f 7 ∈ stepReads st ++ stepWrites st) && k.seq.pend.any (·.numeric)

/-- A unit is still occupied for an earlier operation's issue interval. -/
def unitStall (k : Core) (cc : Nat) (st : Step4) : Bool :=
  (match st.m with
    | .mma _ => decide (cc < k.seq.matBusy)
    | .mrd _ | .mst _ | .mld _ => decide (cc < k.seq.readBusy)
    | _ => false) ||
  (st.v ≠ .nop && decide (cc < k.seq.vecBusy))

/-- The M slot writes a tile that a read-out holds (03 R62). -/
def holdStall (k : Core) (cc : Nat) (st : Step4) : Bool :=
  k.seq.holds.any fun h => decide (cc < h.2) && decide (Reg.e h.1 ∈ mWrites st.m)

/-- Entries that an operation takes: one for each direction (03 R56). -/
def hazNeed (o : SlotOut) : Nat := b2n (decide (o.reads ≠ [])) + b2n (decide (o.stores ≠ []))

/-- An access overlaps a write entry, or a write overlaps a read entry. -/
def hazClash (live : List (Nat × Nat × Bool)) (o : SlotOut) : Bool :=
  (o.reads ++ o.stores).any (fun r => live.any fun h => h.2.2 && overlap r (h.1, h.2.1)) ||
  o.stores.any (fun r => live.any fun h => !h.2.2 && overlap r (h.1, h.2.1))

/-! ## Crane entries as the interlocks see them (04 Table 4-2, 05 R120) -/

/-- Fields of a taken descriptor. -/
def dOp (d : BitVec 320) : Nat := bits d.toNat 0 8
def dTgt (d : BitVec 320) : Nat := bits d.toNat 8 8
def dPkt (d : BitVec 320) : Nat := bits d.toNat 16 8
def dNotify (d : BitVec 320) : Bool := bitOf d.toNat 24
def dQen (d : BitVec 320) : Bool := bitOf d.toNat 25
def dQe (d : BitVec 320) : BitVec 3 := BitVec.ofNat 3 (bits d.toNat 26 3)
def dAddr (d : BitVec 320) : Nat := bits d.toNat 32 32
def dLen (d : BitVec 320) : Nat := bits d.toNat 64 32
def dEp (d : BitVec 320) : BitVec 21 := BitVec.ofNat 21 (bits d.toNat 96 21)
def dRef (d : BitVec 320) : Nat := bits d.toNat 128 16
def dSeq (d : BitVec 320) : BitVec 16 := BitVec.ofNat 16 (bits d.toNat 144 16)
def dCk (d : BitVec 320) : Nat := bits d.toNat 160 2
def dCmp (d : BitVec 320) : Bool := bitOf d.toNat 162
def dRaddr (d : BitVec 320) : Nat := bits d.toNat 192 64
def dExpect (d : BitVec 320) : Nat := bits d.toNat 256 64

/-- 04 R85, R86: the cases of an invalid descriptor. -/
def descInvalid (d : BitVec 320) : Bool :=
  let n := d.toNat
  let op := dOp d
  let tgt := dTgt d
  !(op = 1 || op = 2 || op = 3) || decide (tgt > 3) || decide (dPkt d > 4) ||
  decide (bits n 29 3 ≠ 0 ∨ bits n 117 11 ≠ 0 ∨ bits n 163 5 ≠ 0 ∨ bits n 168 24 ≠ 0) ||
  (tgt = 0 && decide (bits n 140 4 ≠ 0)) || (tgt = 2 && decide (bits n 132 12 ≠ 0)) ||
  (dCk d = 0 && decide (dExpect d ≠ 0)) || ((dCk d = 1 || dCk d = 2) && decide (bits n 288 32 ≠ 0)) ||
  (dCmp d && dCk d = 0) ||
  decide (dAddr d % 64 ≠ 0) || decide (spadSize < dAddr d + dLen d) ||
  decide (dLen d % 64 ≠ 0) || decide (dLen d < 64) || decide (2 ^ 24 < dLen d) ||
  ((tgt = 1 || tgt = 2) && decide (bits n 96 32 ≠ 0)) ||
  decide ((op = 3) ≠ (tgt = 3)) || (op = 3 && decide (4096 < dLen d)) ||
  (dNotify d && !(op = 1 && tgt = 0))

/-- Bytes of a packet and packets of a transfer (04 R86). -/
def dSize (d : BitVec 320) : Nat := 256 * 2 ^ dPkt d
def dCount (d : BitVec 320) : Nat := (dLen d + dSize d - 1) / dSize d

/-- Every entry of the crane. -/
def craneEntries (k : Core) : List CraneEntry := (k.crane.queues.map (·.2)).flatten

/-- 05 R120: an access overlaps the landing range of an incomplete READ, or a write overlaps
source bytes that the crane has not read, or a descriptor is not yet taken. -/
def craneClash (k : Core) (cc : Nat) (o : SlotOut) : Bool :=
  let es := (craneEntries k).filter fun e => !e.push
  let acc := o.reads ++ o.stores
  (acc ≠ [] && es.any fun e => decide (cc < e.issued + 3)) ||
  es.any fun e => !descInvalid e.desc &&
    (let a := dAddr e.desc
     if dOp e.desc = 2 then acc.any fun r => overlap r (a, a + dLen e.desc - 1)
     else !e.ended && decide (e.next < dCount e.desc) &&
       o.stores.any fun r => overlap r (a + e.next * dSize e.desc, a + dLen e.desc - 1))

/-- Descriptor bytes under a write entry (04 R90). -/
def descClash (k : Core) (live : List (Nat × Nat × Bool)) : COp → Bool
  | .cxfr f =>
    let a := aligned (ea k f.p f.o.toNat 64) 64
    live.any fun h => h.2.2 && overlap (a, a + 39) (h.1, h.2.1)
  | _ => false

def rsendNeed : SOp → Nat
  | .rsend _ => 1
  | _ => 0

/-- The step stalls on the hazard entries. -/
def hazStall (k : Core) (cc : Nat) (st : Step4) : Bool :=
  let live := liveHaz k cc
  let m := mSlot k st.m
  let v := vSlot k st.v
  hazClash live m || hazClash live v || descClash k live st.c || craneClash k cc m || craneClash k cc v ||
    decide (8 < live.length + hazNeed m + hazNeed v + rsendNeed st.s)

/-- The crane queue that a slot enters has no free entry, or a fence's queue is not empty
(04 R83 R90 R93 R95). -/
def craneStall (k : Core) : COp → Bool
  | .cxfr f => decide (16 ≤ (look [] k.crane.queues f.cqn.toNat).length)
  | .cpush f => decide (16 ≤ (look [] k.crane.queues f.cqn.toNat).length)
  | .cfence m => (List.range 8).any fun q => m.getLsbD q && decide (look [] k.crane.queues q ≠ [])
  | _ => false

/-- The counter that a back-edge at this step would read has a write pending. -/
def edgeStall (k : Core) : Bool :=
  match k.seq.stack with
  | fr :: _ => fr.isLoop && decide (fr.last = k.seq.mp) && k.seq.pend.any fun o => decide (Reg.l fr.ln ∈ o.regs)
  | [] => false

/-- No crane queue holds an entry. -/
def craneIdle (k : Core) : Bool := (List.range 8).all fun q => look [] k.crane.queues q = []

/-- END and MOOR wait until the crane queues are empty and no berth has a packet to land; MOOR also
until no contribution of this core waits or is being injected and no binding is marked sent
(04 R110 R112). -/
def settleStall (k : Core) : SOp → Bool
  | .fin => !(craneIdle k && k.berths.slots.isEmpty)
  | .moor _ => !(craneIdle k && k.berths.slots.isEmpty && k.sync.rsends.isEmpty && k.sync.sent.isEmpty)
  | _ => false

/-- Every stall but the waits on tokens, results and joins. -/
def stalled (k : Core) (cc : Nat) (st : Step4) : Bool :=
  decide (cc < k.seq.nextIssue) || regStall k st || f7Stall k st || unitStall k cc st || holdStall k cc st
    || hazStall k cc st || craneStall k st.c || edgeStall k || settleStall k st.s

/-! ## The C slot at issue -/

/-- Endpoint q of a core. -/
def qEnd (k : Core) (q : Nat) : QEnd := look {} k.sync.q q

def updQ (k : Core) (q : Nat) (g : QEnd → QEnd) : Core := { k with sync := { k.sync with q := upd {} k.sync.q q g } }

/-- OUT rises by n (04 R82). -/
def oweQ (k : Core) (q n : Nat) : Core := updQ k q fun e => { e with out := e.out + BitVec.ofNat 16 n }

/-- An entry joins a crane queue. -/
def enqueue (k : Core) (q : Nat) (e : CraneEntry) : Core :=
  { k with crane := { k.crane with queues := upd [] k.crane.queues q (· ++ [e]) } }

/-- A crane entry with nothing done. -/
def newEntry (push : Bool) (step : BitVec 13) (cc : Nat) : CraneEntry :=
  { push := push, step := step, addr := 0, issued := cc, desc := 0, wb := false, qe := 0, ep := 0, n := 0,
    translated := false, ett := 0, epoch := 0, next := 0, open_ := [], copies := [], resends := [], done := 0, ck := 0,
    ended := false, status := 0, suspended := false, faultTick := 0 }

/-- What issuing a slot does to its core: the core, results with their latency, conditions. -/
structure CRes where
  core : Core
  writes : List Wr := []
  lat : Nat := 0
  conds : List Nat := []

/-- OUT falls by n. -/
def oweLess (k : Core) (q n : Nat) : Core := updQ k q fun e => { e with out := e.out - BitVec.ofNat 16 n }

/-- The endpoint of a descriptor's completion token, if it has one. -/
def qenOf (d : BitVec 320) : Option Nat := if dQen d then some (dQe d).toNat else none

/-- The descriptor at an address (04 R84). -/
def descAt (k : Core) (a : Nat) : BitVec 320 := BitVec.ofNat 320 (leNat (spadRead k a 40))

/-- OUT rises by 1 for a completion token. -/
def oweDesc (k : Core) (d : BitVec 320) : Core :=
  match qenOf d with
  | some q => oweQ k q 1
  | none => k

/-- CXFR (04 R84 R90): the descriptor's 40 bytes are taken, OUT rises, the transfer is enqueued. -/
def cxfrIssue (k : Core) (cc : Nat) (f : CxfrF) : CRes :=
  let a0 := ea k f.p f.o.toNat 64
  let a := aligned a0 64
  let d := descAt k a
  let e := { newEntry false k.seq.mp cc with addr := a, desc := d, wb := f.wb }
  { core := enqueue (oweDesc k d) f.cqn.toNat e, conds := alignCond a0 64 ++ boundCond a 40 }

/-- The crane's access to a descriptor in the cc after issue sees what has landed in the issue cc (04 R90). -/
def retake (k : Core) (e : CraneEntry) : Core × CraneEntry :=
  let d := descAt k e.addr
  if d = e.desc then (k, e)
  else
    let k1 := match qenOf e.desc with
      | some q => oweLess k q 1
      | none => k
    (oweDesc k1 d, { e with desc := d })

/-- The descriptors taken by the CXFR of cc t are read. -/
def retakeAll (t : Nat) (k : Core) : Core :=
  (List.range 8).foldl (fun k q =>
    match (look [] k.crane.queues q).getLast? with
    | none => k
    | some e =>
      if e.push || e.issued ≠ t then k
      else
        let (k1, e1) := retake k e
        { k1 with crane := { k1.crane with queues := upd [] k1.crane.queues q fun l => l.dropLast ++ [e1] } }) k

/-- CPUSH (04 R93). -/
def cpushIssue (k : Core) (cc : Nat) (self : BitVec 21) (f : CpushF) : CRes :=
  let n := f.nm1.toNat + 1
  let e := { newEntry true k.seq.mp cc with qe := f.qe, ep := f.ep, n := n }
  let k1 := if f.ep = self then oweQ k f.qe.toNat n else k
  { core := enqueue k1 f.cqn.toNat e }

/-- BOPEN (04 R96, 06 R141). Where it fails for its range and for the berth at once, SPAD_BOUND alone is raised
(DESIGN CHOICE, log entry 56). -/
def bopenIssue (k : Core) (cc : Nat) (f : BopenF) : CRes :=
  let a0 := ea k f.p f.o.toNat 64
  let a := aligned a0 64
  let n := f.len.toNat * 64
  let b := berthOf k f.idx.toNat
  let al := alignCond a0 64
  if a + n > spadSize then { core := k, conds := al ++ [cSpadBound] }
  else if b.isOpen || (b.hasLast && b.lastGen = f.gen) then { core := k, conds := al ++ [cBerthState] }
  else
    { core := setBerth k f.idx.toNat
        { base := BitVec.ofNat 23 a, len := BitVec.ofNat 23 n, gen := f.gen, lastGen := f.gen, isOpen := true,
          hasLast := true, src := f.src, rd := f.rd, wr := f.wr, nen := f.nen, qe := f.qe,
          acceptFrom := cc + 2 }
      conds := al }

/-- BCLOSE (04 R97): the berth closes; an acknowledgement is owed. -/
def bcloseIssue (k : Core) (cc : Nat) (f : BcloseF) : CRes :=
  let k1 := closeBerth k cc f
  { core := if f.aen then oweQ k1 f.qe.toNat 1 else k1
    conds := if (berthOf k f.idx.toNat).isOpen then [] else [cBerthState] }

/-! ### Tokens and error records as a cc sees them (04 R82 R94) -/

/-- COUNT and OUT at the start of cc t. -/
def countAt (e : QEnd) (t : Nat) : Nat := if e.freshAt = t then e.count.toNat - e.fresh.toNat else e.count.toNat
def outAt (e : QEnd) (t : Nat) : Nat := if e.freshAt = t then e.out.toNat + e.freshOut.toNat else e.out.toNat

/-- What a CSTAT in cc t reads. -/
def cerrAt (k : Core) (q t : Nat) : CErr :=
  if (look (0, {}) k.crane.cerrNew q).1 = t then look {} k.crane.cerr q else cerrAll k q

/-- The record of queue q as a CSTAT in cc t leaves it. -/
def cerrClear (k : Core) (q t : Nat) : Core :=
  { k with crane := { k.crane with
      cerr := put {} k.crane.cerr q {}
      cerrNew := if (look (0, {}) k.crane.cerrNew q).1 = t then k.crane.cerrNew else put (0, {}) k.crane.cerrNew q (0, {}) } }

/-- The C slot. A CWAIT reaches this point with enough tokens. -/
def cIssue (k : Core) (cc : Nat) (self : BitVec 21) : COp → CRes
  | .nop => { core := k }
  | .cxfr f => cxfrIssue k cc f
  | .cwait f =>
    { core := updQ k f.qe.toNat fun e => { e with count := e.count - BitVec.ofNat 16 (f.nm1.toNat + 1) } }
  | .ctest f =>
    { core := k
      writes := [.fbit f.fd f.fbit (decide (f.nm1.toNat + 1 ≤ countAt (qEnd k f.qe.toNat) cc))]
      lat := 2 }
  | .cpush f => cpushIssue k cc self f
  | .cstat q fd =>
    let e := cerrAt k q.toNat cc
    { core := cerrClear k q.toNat cc
      writes := [.f fd (BitVec.ofNat 32 (e.status.toNat + 256 * e.count.toNat + 65536 * e.seq.toNat))]
      lat := 2 }
  | .cfence _ => { core := k }
  | .bopen f => bopenIssue k cc f
  | .bclose f => bcloseIssue k cc f

/-! ## The S slot at issue -/

/-- What the S slot does: the core (with the sequencer advanced), results of latency 1,
conditions, and whether the core halts. -/
structure SRes where
  core : Core
  writes : List Wr := []
  conds : List Nat := []
  halt : Bool := false

def setSeq (k : Core) (mp : BitVec 13) (next : Nat) (stack : List Frame) : Core :=
  { k with seq := { k.seq with mp := mp, nextIssue := next, stack := stack } }

/-- The step after this one, with the loop back-edge of 04 R99. -/
def advance (k : Core) (cc : Nat) : SRes :=
  let mp := k.seq.mp
  match k.seq.stack with
  | fr :: r =>
    if fr.isLoop ∧ fr.last = mp then
      let l := lReg k fr.ln
      if l.toNat + 1 < fr.trips.toNat then
        { core := setSeq k fr.start (cc + 1) k.seq.stack, writes := [.l fr.ln (l + 1)] }
      else { core := setSeq k (mp + 1) (cc + 1) r }
    else { core := setSeq k (mp + 1) (cc + 1) k.seq.stack }
  | [] => { core := setSeq k (mp + 1) (cc + 1) [] }

/-- A halt under 04 R81. -/
def halts (k : Core) (conds : List Nat) : SRes :=
  { core := k, conds := conds ++ (if cCoreFault ∈ conds then [] else [cCoreFault]), halt := true }

/-- LOOP (04 R99). -/
def loopIssue (k : Core) (cc : Nat) (f : LoopF) : SRes :=
  let c : BitVec 24 := if f.r then (pReg k (loopP f)).setWidth 24 else f.count
  let mp := k.seq.mp
  if c = 0 then { core := setSeq k (f.last + 1) (cc + 2) k.seq.stack }
  else if k.seq.stack.length ≥ 8 then halts k [cCoreFault]
  else
    { core := setSeq k (mp + 1) (cc + 1)
        ({ isLoop := true, start := mp + 1, last := f.last, ln := f.ln, trips := c } :: k.seq.stack)
      writes := [.l f.ln 0] }

/-- A call frame with return step MP + 1. -/
def callFrame (k : Core) : Frame :=
  { isLoop := false, start := k.seq.mp + 1, last := 0, ln := 0, trips := 0 }

/-- CALL, RET (04 R101). -/
def callIssue (k : Core) (cc : Nat) (tgt : BitVec 13) : SRes :=
  if k.seq.stack.length ≥ 8 then halts k [cCoreFault]
  else { core := setSeq k tgt (cc + 2) (callFrame k :: k.seq.stack) }

def retIssue (k : Core) (cc : Nat) : SRes :=
  match k.seq.stack with
  | fr :: r => if fr.isLoop then halts k [cCoreFault] else { core := setSeq k fr.start (cc + 2) r }
  | [] => halts k [cCoreFault]

/-- The steps of an extension segment at a Tier S address. -/
def segmentWords (k : Core) (a n : Nat) : List (BitVec 256) :=
  (List.range n).map fun i => BitVec.ofNat 256 (leNat (spadRead k (a + 32 * i) 32))

/-- The loop bodies of the steps below the overlay window. A step that is not listed is a no-op. -/
def mainLoops (k : Core) : List (Nat × Nat) :=
  (k.seq.manifest.filter fun p => decide (p.1 < overlayBase)).filterMap fun p =>
    match decodeStep p.2 with
    | some st => match st.s with
      | .loop f => some (p.1, f.last.toNat)
      | _ => none
    | none => none

/-- XCALL (04 R102, 02 R31): copies the segment, checked, into the overlay window and calls it. The spec does not say in
which cc of its 8 + ⌈n / 2⌉ each byte is read, or which of them take a CR access: the model reads all
bytes in the issue cc and takes one access in every one of them (DESIGN CHOICE, log entry 56). -/
def xcallIssue (k : Core) (cc : Nat) (img : Image) (xy : Nat × Nat) (f : XcallF) : SRes :=
  let n := f.nm1.toNat + 1
  let a0 := ea k f.p f.o.toNat 64
  let a := aligned a0 64
  let conds := alignCond a0 64 ++ boundCond a (32 * n)
  let ws := segmentWords k a n
  let qopen (q : Nat) : Bool := (qEnd k q).isOpen
  if (badStep img xy.1 xy.2 qopen (mainLoops k) overlayBase true true ws).isSome then halts k (conds ++ [cCoreFault])
  else if k.seq.stack.length ≥ 8 then halts k (conds ++ [cCoreFault])
  else
    let k1 := setSeq k (BitVec.ofNat 13 overlayBase) (cc + 8 + (n + 1) / 2) (callFrame k :: k.seq.stack)
    { core := { k1 with
        seq := { k1.seq with manifest := putList 0 k1.seq.manifest overlayBase ws }
        cr := { k1.cr with copyUntil := cc + 8 + (n + 1) / 2 } }
      conds := conds }

/-- BRF (04 R103, 02 R32). -/
def brfIssue (k : Core) (cc : Nat) (f : BrfF) : SRes :=
  if (fReg k f.fd).getLsbD f.fbit.toNat = f.sense then { core := setSeq k f.tgt (cc + 2) k.seq.stack }
  else
    let r := advance k cc
    { r with core := { r.core with seq := { r.core.seq with nextIssue := cc + 2 } } }

/-- PSET, PMOV, FSET (04 R104 R105). -/
def psetVal (k : Core) (f : PsetF) : Word := if f.add then pReg k f.pd + f.imm else f.imm

def pmovVal (k : Core) (f : PmovF) : Word :=
  if f.ul then pReg k f.ps + BitVec.ofNat 32 ((lReg k f.ls).toNat * f.scale.toNat) else pReg k f.ps

def fsetWr (k : Core) (f : FsetF) : Wr :=
  if f.fd = 7 then .f7clear f.imm
  else match f.mode.toNat with
    | 0 => .f f.fd (fReg k f.fd ||| f.imm)
    | 1 => .f f.fd (fReg k f.fd &&& ~~~f.imm)
    | _ => .f f.fd f.imm

/-- Bytes of a contribution's source (04 R108). -/
def rsendBytes (kind : Bool) : Nat := if kind then 4096 else imageBytes

/-- RSEND (04 R108): the contribution waits for injection and its source is held. -/
def rsendIssue (k : Core) (cc : Nat) (f : RsendF) : SRes :=
  let a0 := ea k f.p f.o.toNat 64
  let a := aligned a0 64
  let n := rsendBytes f.kind
  let r := advance k cc
  { r with
    core := { r.core with
      sync := { r.core.sync with rsends := r.core.sync.rsends ++
        [{ tag := f.tag, kind := f.kind, addr := a, issued := cc, step := k.seq.mp }] }
      seq := { r.core.seq with haz := r.core.seq.haz ++
        [{ lo := a, hi := a + n - 1, release := 0, rsend := some cc }] } }
    conds := alignCond a0 64 ++ boundCond a n }

/-- A tag whose round bit is set, toggled. -/
def toggle (l : List (BitVec 16)) (t : BitVec 16) : List (BitVec 16) := if t ∈ l then without t l else l ++ [t]

/-- RWAIT with its result landed (04 R109, 07 R179 R180): the arrival state clears, the landing's
events take effect, the round bit flips and a credit is due. -/
def rwaitIssue (k : Core) (cc : Nat) (tag : BitVec 16) : SRes :=
  let r := advance k cc
  match takeFirst (fun l : Landed => l.tag = tag) r.core.sync.landed with
  | none => r
  | some (l, rest) =>
    { r with core := { r.core with
        regs := applyEv r.core.regs l.f7 l.counts
        seq := { r.core.seq with
          f7New := if r.core.seq.pend.any fun o => decide (Reg.f 7 ∈ o.regs) && decide (o.issued < r.core.seq.f7At)
            then r.core.seq.f7New ||| l.f7 else l.f7
          f7At := cc }
        sync := { r.core.sync with landed := rest, round := toggle r.core.sync.round tag
                                   credits := addOnce tag r.core.sync.credits } } }

/-- END (04 R112): the berths close without an acknowledgement, the Q counts are discarded, the core stops. -/
def endIssue (k : Core) (cc : Nat) : SRes :=
  let k1 := closeAll k cc
  { core := { k1 with sync := { k1.sync with run := .ended, q := [], waiting := none, waitSince := none } } }

/-- The S slot. RWAIT reaches this point with its result landed, BAR at its release. -/
def sIssue (k : Core) (cc : Nat) (img : Image) (xy : Nat × Nat) : SOp → SRes
  | .nop => advance k cc
  | .loop f => loopIssue k cc f
  | .call t => callIssue k cc t
  | .ret => retIssue k cc
  | .xcall f => xcallIssue k cc img xy f
  | .brf f => brfIssue k cc f
  | .pset f => let r := advance k cc; { r with writes := r.writes ++ [.p f.pd (psetVal k f)] }
  | .pmov f => let r := advance k cc; { r with writes := r.writes ++ [.p f.pd (pmovVal k f)] }
  | .fset f => let r := advance k cc; { r with writes := r.writes ++ [fsetWr k f] }
  | .moor _ => advance k cc
  | .bar _ _ => advance k cc
  | .rsend f => rsendIssue k cc f
  | .rwait tag => rwaitIssue k cc tag
  | .fin => endIssue k cc

/-! ## The step -/

/-- The registers that a result names. -/
def wrReg : Wr → List Reg
  | .p r _ => [.p r]
  | .l r _ => [.l r]
  | .f r _ => [.f r]
  | .fbit r _ _ => [.f r]
  | .f7clear _ => [.f 7]
  | _ => []

/-- The range from the lowest to the highest byte of a list of ranges; none of an empty one. -/
def spanOf : List (Nat × Nat) → Option (Nat × Nat)
  | [] => none
  | r :: rest => some (rest.foldl (fun m x => (min m.1 x.1, max m.2 x.2)) r)

/-- A pending operation for results of a slot, none if there is nothing to write. -/
def pendOf (slot : Nat) (step : BitVec 13) (cc lat : Nat) (regs : List Reg) (ws : List Wr) : List PendOp :=
  if ws = [] then []
  else [{ slot := slot, step := step, issued := cc, lat := lat, numeric := false, acc := false, regs := regs, writes := ws,
          f7 := 0, counts := [], late := none, streams := [], stores := none, clash := false }]

/-- The pending operation of an M or V slot. -/
def pendSlot (k : Core) (slot cc : Nat) (op : LateOp) (numeric acc : Bool) (regs : List Reg) (o : SlotOut) : List PendOp :=
  if o.lat = 0 then []
  else [{ slot := slot, step := k.seq.mp, issued := cc, lat := o.lat, numeric := numeric, acc := acc, regs := regs,
          writes := o.writes, f7 := o.ev.f7, counts := o.ev.counts
          late := if o.late then some { op := op, p := k.regs.p, lfsr := k.regs.lfsr } else none
          streams := o.streams, stores := spanOf o.stores, clash := false }]

/-- The read entry of an M or V operation (03 R56). -/
def hazOf (o : SlotOut) (cc : Nat) : List Hazard :=
  match spanOf o.reads with
  | none => []
  | some r => [{ lo := r.1, hi := r.2, release := cc + o.ival, rsend := none }]

/-- Tiles that an M operation holds (03 R62). -/
def heldTiles (cc : Nat) : MOp → List (BitVec 3 × Nat)
  | .mrd f => if f.pair then [(f.es, cc + 32), (f.es + 1, cc + 32)] else [(f.es, cc + 32)]
  | .mst f => [(f.e, cc + 99)]
  | _ => []

/-- Conditions with their slot, each at most once in a step. -/
def condsOf (slot : Nat) (l : List Nat) : List (Nat × Nat) :=
  (l.foldl (fun a c => addOnce c a) []).map fun c => (slot, c)

/-- Keeps the first of each condition. -/
def onceEach (l : List (Nat × Nat)) : List (Nat × Nat) :=
  l.foldl (fun a x => if a.any (·.2 = x.2) then a else a ++ [x]) []

/-- A core after a step has issued, with the conditions raised, and whether it halts. -/
structure StepRes where
  core : Core
  conds : List (Nat × Nat)
  halt : Bool

/-- Issues a step that no condition holds: every slot reads the registers as they stand and the
results become pending (02 R27, 03 R53). -/
def issueCore (k : Core) (cc : Nat) (self : BitVec 21) (img : Image) (xy : Nat × Nat) (st : Step4) : StepRes :=
  let m := mSlot k st.m
  let v := vSlot k st.v
  let cr := cIssue k cc self st.c
  let sr := sIssue cr.core cc img xy st.s
  if m.halt || sr.halt then
    { core := { k with sync := { k.sync with run := .halted, waiting := none } }
      conds := onceEach (condsOf 0 (if m.halt then m.conds else []) ++ condsOf 3 (if sr.halt then sr.conds else []))
      halt := true }
  else
    let k1 := sr.core
    let isMma := match st.m with | .mma _ => true | _ => false
    let mLate := (mWrites st.m).filter fun r => match r with | .p _ => false | _ => true
    let pend :=
      pendSlot k 0 cc (.m st.m) (mNumeric st.m) isMma mLate m ++
      pendOf 0 k.seq.mp cc 1 (m.fast.flatMap wrReg) m.fast ++
      pendSlot k 1 cc (.v st.v) (vNumeric st.v) false (vWrites st.v) v ++
      pendOf 2 k.seq.mp cc cr.lat (cr.writes.flatMap wrReg) cr.writes ++
      pendOf 3 k.seq.mp cc 1 (sr.writes.flatMap wrReg) sr.writes
    let seq := { k1.seq with
      pend := k1.seq.pend ++ pend
      matBusy := if isMma then cc + m.ival else k1.seq.matBusy
      readBusy := match st.m with
        | .mrd _ | .mst _ | .mld _ => cc + m.ival
        | _ => k1.seq.readBusy
      vecBusy := if st.v = .nop then k1.seq.vecBusy else cc + v.ival
      holds := k1.seq.holds.filter (fun h => cc < h.2) ++ heldTiles cc st.m
      haz := k1.seq.haz.filter (fun h => h.rsend.isSome || decide (cc < h.release)) ++ hazOf m cc ++ hazOf v cc }
    let lanes := match st.m, st.v with
      | .mrd _, _ => putList 0 v.lfsr 0 (lookRange 0 m.lfsr 0 32)
      | _, _ => v.lfsr
    { core := { k1 with
        seq := seq
        regs := { k1.regs with lfsr := lanes }
        sync := { k1.sync with waiting := none, waitSince := none, waitLong := false } }
      conds := onceEach
        (condsOf 0 m.conds ++ condsOf 1 v.conds ++ condsOf 2 cr.conds ++ condsOf 3 sr.conds)
      halt := false }

/-! ## Issue in the machine -/

/-- An image that binds nothing, for a core without a voyage. -/
def noImage : Image :=
  { dtab := 0, feat := 0, cores := [], quays := [], segmap := [], tags := [], sources := [], wins := [], reloc := [] }

/-- The image of a core's voyage. -/
def imageOf (s : State) (c : Nat) : Image :=
  match s.voyage (s.core c).misc.vid.toNat with
  | some v => v.img
  | none => noImage

/-- A core's logical coordinates: those whose work it runs (13 R337). -/
def coreXY (s : State) (c : Nat) : Nat × Nat := (s.core c).misc.seedXY.getD (coreX c, coreY c)

/-- A crane entry taken in this cc carries the active epoch (07 R171). -/
def stampEpoch (s : State) (k : Core) : Core :=
  let e := BitVec.ofNat 2 (getField s (fabBase + 8) 0 2)
  let stamp (x : CraneEntry) : CraneEntry := if x.issued = s.cc ∧ x.next = 0 then { x with epoch := e } else x
  { k with crane := { k.crane with queues := k.crane.queues.map fun q => (q.1, q.2.map stamp) } }

/-- Raises the conditions of an issue; a halt stops the core and ends the voyage with FAULTED. -/
def finishIssue (s : State) (c : Nat) (step : BitVec 13) (r : StepRes) : State :=
  let s1 := raiseCores (s.setCore c (stampEpoch s r.core)) c step r.conds
  if r.halt then voyageFault s1 r.core.misc.vid else s1

/-- A result is written. -/
def writeWr (k : Core) : Wr → Core
  | .p r x => { k with regs := { k.regs with p := put 0 k.regs.p r.toNat x } }
  | .l r x => { k with regs := { k.regs with l := put 0 k.regs.l r.toNat x } }
  | .f r x => { k with regs := { k.regs with f := put 0 k.regs.f r.toNat x } }
  | .fbit r b x =>
    let m : Word := BitVec.ofNat 32 (2 ^ b.toNat)
    { k with regs := { k.regs with f := upd 0 k.regs.f r.toNat fun w => if x then w ||| m else w &&& ~~~m } }
  | .f7clear m => { k with regs := { k.regs with f := upd 0 k.regs.f 7 fun w => w &&& ~~~m } }
  | .v key x => { k with regs := { k.regs with v := put 0 k.regs.v key x } }
  | .e key x => { k with regs := { k.regs with e := put {} k.regs.e key x } }
  | .t t x => { k with regs := { k.regs with tileT := put 0 k.regs.tileT t.toNat x } }
  | .nx t x => { k with regs := { k.regs with tileNx := put false k.regs.tileNx t.toNat x } }

/-- A core behind its MOOR: at the next step, or at the start of the loop that the MOOR ends (04 R99 R100). -/
def afterMoor (k : Core) : Core :=
  let r := advance k k.seq.nextIssue
  r.writes.foldl writeWr r.core

/-- The mooring record that a core takes (04 R110). -/
def moorRec (k0 : Core) (mid : BitVec 16) : MoorRec :=
  let k := afterMoor k0
  { p := k.regs.p, l := k.regs.l, stack := k.seq.stack, f7 := fReg k 7, step := k.seq.mp,
    ordinal := k.seq.ordinal + 1, mid := mid,
    lastGen := putRange 0 [] 0 (fun i => (berthOf k i).lastGen) 16
    hasLast := putRange false [] 0 (fun i => (berthOf k i).hasLast) 16 }

/-- The router that shadows a core (13 R330). -/
def shadowOf (c : Nat) : Nat := if coreY c / 6 % 2 = 0 then c + 72 * 6 else c - 72 * 6

/-- A Q endpoint still owes or holds tokens, or a berth is open (04 R110). -/
def moorBad (k : Core) : Bool :=
  (List.range 8).any (fun q => (qEnd k q).count ≠ 0 || (qEnd k q).out ≠ 0) ||
    (List.range 16).any (fun i => (berthOf k i).isOpen)

/-- The step waits: it is remembered. -/
def waitAt (s : State) (c : Nat) (st : Step4) : State :=
  s.updCore c fun k => { k with sync := { k.sync with waiting := some st } }

/-- The step waits on COUNT alone: it is remembered with the tick from which its wait limit counts (04 R91). -/
def waitCount (s : State) (c : Nat) (st : Step4) : State :=
  s.updCore c fun k => { k with sync := { k.sync with
    waiting := some st
    waitSince := match k.sync.waitSince with | some t => some t | none => some s.tide.toNat } }

/-- Whether the tokens that a CWAIT consumes are there at the start of cc t. -/
def tokensReady (k : Core) (t : Nat) : COp → Bool
  | .cwait f => decide (f.nm1.toNat + 1 ≤ countAt (qEnd k f.qe.toNat) t)
  | _ => true

/-- 04 R91: a LOCAL endpoint whose COUNT and OUT can never reach n. -/
def waitEmpty (k : Core) (t : Nat) : COp → Bool
  | .cwait f =>
    let e := qEnd k f.qe.toNat
    !e.isOpen && decide (countAt e t + outAt e t < f.nm1.toNat + 1)
  | _ => false

/-- Whether the result that an RWAIT names has landed. -/
def resultReady (k : Core) : SOp → Bool
  | .rwait tag => k.sync.landed.any fun l => l.tag = tag
  | _ => true

/-- A core that may issue: running, not held by another core, at this step if it waits at one. -/
def mayIssue (k : Core) (st : Step4) : Bool :=
  k.sync.run = .running && k.sync.holds.isEmpty &&
    (match k.sync.waiting with | some w => w = st | none => true)

/-- Halts a core at its step with conditions of a slot. -/
def haltAt (s : State) (c slot : Nat) (conds : List Nat) : State :=
  let k := s.core c
  finishIssue s c k.seq.mp
    { core := { k with sync := { k.sync with run := .halted, waiting := none } }
      conds := condsOf slot (conds ++ [cCoreFault]), halt := true }

/-- The issue of a step at a core (STEP_ISSUE and every slot command): a stall leaves the core as
it is, a wait is remembered, a BAR or MOOR arrives at its join, anything else issues. -/
def issueStep (s : State) (c : Nat) (st : Step4) : State :=
  let k := s.core c
  if !mayIssue k st || stalled k s.cc st then s
  else if !resultReady k st.s then waitAt s c st
  else if !tokensReady k s.cc st.c then
    if waitEmpty k s.cc st.c then haltAt s c 2 [cWaitEmpty] else waitCount s c st
  else
    match st.s with
    | .bar _ _ => waitAt s c st
    | .moor mid =>
      if moorBad k then haltAt s c 3 [cMoorState]
      else
        (waitAt s c st).updRouter (shadowOf c) fun r => { r with shadow := some (moorRec k mid) }
    | _ => finishIssue s c k.seq.mp (issueCore k s.cc (coreId s c) (imageOf s c) (coreXY s c) st)

/-- A slot command: the step that holds the operation alone issues at core c (log entry 9). -/
def issueOnly (s : State) (c : Nat) (st : Step4) : Out :=
  if c < coreCount then
    if stepOk st && stepFits (imageOf s c) (coreXY s c).1 (coreXY s c).2 (fun q => (qEnd (s.core c) q).isOpen) false st
    then .next (issueStep s c st)
    else .refused .malformed
  else .refused .noSuchUnit

/-! ## Results (OPERATION_RESULT_WRITE, 03 R53, 02 R50) -/

/-- What an FSET clears of F7: a bit that an RWAIT issued after it has set stays (02 R50). -/
def f7Mask (k : Core) (o : PendOp) (m : Word) : Word := if o.issued < k.seq.f7At then m &&& ~~~k.seq.f7New else m

/-- A result of an operation is written. -/
def writeOf (o : PendOp) (k : Core) : Wr → Core
  | .f7clear m => writeWr k (.f7clear (f7Mask k o m))
  | w => writeWr k w

/-- The register results of an operation are written and its events take effect. -/
def writeBack (k : Core) (o : PendOp) : Core :=
  let r := resultsOf k o
  let k1 := r.writes.foldl (writeOf o) k
  { k1 with regs := applyEv k1.regs r.ev.f7 r.ev.counts }

/-- Every pending operation completes at once: its accesses are made and its results written (04 R111: a step that has
issued always completes). -/
def settleOps (k : Core) : Core :=
  k.seq.pend.foldl (fun k o =>
    let (k1, ios) := finishStreams o.streams k
    writeBack k1 { o with streams := ios }) { k with seq := { k.seq with pend := [] } }

/-- Whether an operation's results are written before those of `o`: both write a register (an accumulation waits for the
earlier ones into its tile, which the matrix unit applies first), or it clears bits of F7 that events of `o` may set. -/
def goesBefore (o q : PendOp) : Bool :=
  (q.regs.any fun r => decide (r ∈ o.regs)) || (o.numeric && decide (Reg.f 7 ∈ q.regs))

/-- OPERATION_RESULT_WRITE: pending operation j of core c writes its results once it is due. -/
def execOperationResultWrite (c j : Nat) (s : State) : Out :=
  let k := s.core c
  onUnit (decide (c < coreCount)) <|
    match k.seq.pend[j]? with
    | none => s
    | some o =>
      if s.cc < dueOf o || (k.seq.pend.take j).any (goesBefore o) then s
      else
        let k1 : Core := { k with seq := { k.seq with pend := dropAt k.seq.pend j } }
        raiseCores (s.setCore c (writeBack k1 o)) c o.step ((resultsOf k o).conds.map fun x => (o.slot, x))

/-- STEP_ISSUE: the step at MP issues, or stalls. A step that the decoder refuses cannot stand in
a manifest that loaded (02 R25). -/
def execStepIssue (c : Nat) (s : State) : Out :=
  if c < coreCount then
    match decodeStep (look 0 (s.core c).seq.manifest (s.core c).seq.mp.toNat) with
    | none => .refused .malformed
    | some st => if stepOk st then .next (issueStep s c st) else .refused .malformed
  else .refused .noSuchUnit

/-! ## Slot commands -/

def execMnop (c : Nat) (s : State) : Out := issueOnly s c (onlyM .nop)
def execMma (c : Nat) (f : MmaF) (s : State) : Out := issueOnly s c (onlyM (.mma f))
def execMrd (c : Nat) (f : MrdF) (s : State) : Out := issueOnly s c (onlyM (.mrd f))
def execMclr (c : Nat) (f : MclrF) (s : State) : Out := issueOnly s c (onlyM (.mclr f))
def execMst (c : Nat) (f : TileF) (s : State) : Out := issueOnly s c (onlyM (.mst f))
def execMld (c : Nat) (f : TileF) (s : State) : Out := issueOnly s c (onlyM (.mld f))
def execVnop (c : Nat) (s : State) : Out := issueOnly s c (onlyV .nop)
def execVld (c : Nat) (f : VmF) (s : State) : Out := issueOnly s c (onlyV (.vld f))
def execVst (c : Nat) (f : VmF) (s : State) : Out := issueOnly s c (onlyV (.vst f))
def execVdq (c : Nat) (f : VqF) (s : State) : Out := issueOnly s c (onlyV (.vdq f))
def execVqnt (c : Nat) (f : VqF) (s : State) : Out := issueOnly s c (onlyV (.vqnt f))
def execVfp (c : Nat) (f : VrF) (s : State) : Out := issueOnly s c (onlyV (.vfp f))
def execVfpi (c : Nat) (f : ViF) (s : State) : Out := issueOnly s c (onlyV (.vfpi f))
def execVint (c : Nat) (f : VrF) (s : State) : Out := issueOnly s c (onlyV (.vint f))
def execVinti (c : Nat) (f : ViF) (s : State) : Out := issueOnly s c (onlyV (.vinti f))
def execVcmp (c : Nat) (f : VrF) (s : State) : Out := issueOnly s c (onlyV (.vcmp f))
def execVsel (c : Nat) (f : VrF) (s : State) : Out := issueOnly s c (onlyV (.vsel f))
def execVcvt (c : Nat) (f : VrF) (s : State) : Out := issueOnly s c (onlyV (.vcvt f))
def execVtr (c : Nat) (f : VrF) (s : State) : Out := issueOnly s c (onlyV (.vtr f))
def execVexpd (c : Nat) (f : VrF) (s : State) : Out := issueOnly s c (onlyV (.vexpd f))
def execVred (c : Nat) (f : VrF) (s : State) : Out := issueOnly s c (onlyV (.vred f))
def execVtopk (c : Nat) (f : VkF) (s : State) : Out := issueOnly s c (onlyV (.vtopk f))
def execCnop (c : Nat) (s : State) : Out := issueOnly s c (onlyC .nop)
def execCxfr (c : Nat) (f : CxfrF) (s : State) : Out := issueOnly s c (onlyC (.cxfr f))
def execCwait (c : Nat) (f : CwaitF) (s : State) : Out := issueOnly s c (onlyC (.cwait f))
def execCtest (c : Nat) (f : CwaitF) (s : State) : Out := issueOnly s c (onlyC (.ctest f))
def execCpush (c : Nat) (f : CpushF) (s : State) : Out := issueOnly s c (onlyC (.cpush f))
def execCstat (c : Nat) (cqn fd : BitVec 3) (s : State) : Out := issueOnly s c (onlyC (.cstat cqn fd))
def execCfence (c : Nat) (mask : BitVec 8) (s : State) : Out := issueOnly s c (onlyC (.cfence mask))
def execBopen (c : Nat) (f : BopenF) (s : State) : Out := issueOnly s c (onlyC (.bopen f))
def execBclose (c : Nat) (f : BcloseF) (s : State) : Out := issueOnly s c (onlyC (.bclose f))
def execSnop (c : Nat) (s : State) : Out := issueOnly s c (onlyS .nop)
def execLoop (c : Nat) (f : LoopF) (s : State) : Out := issueOnly s c (onlyS (.loop f))
def execCall (c : Nat) (tgt : BitVec 13) (s : State) : Out := issueOnly s c (onlyS (.call tgt))
def execRet (c : Nat) (s : State) : Out := issueOnly s c (onlyS .ret)
def execXcall (c : Nat) (f : XcallF) (s : State) : Out := issueOnly s c (onlyS (.xcall f))
def execBrf (c : Nat) (f : BrfF) (s : State) : Out := issueOnly s c (onlyS (.brf f))
def execPset (c : Nat) (f : PsetF) (s : State) : Out := issueOnly s c (onlyS (.pset f))
def execPmov (c : Nat) (f : PmovF) (s : State) : Out := issueOnly s c (onlyS (.pmov f))
def execFset (c : Nat) (f : FsetF) (s : State) : Out := issueOnly s c (onlyS (.fset f))
def execMoor (c : Nat) (mid : BitVec 16) (s : State) : Out := issueOnly s c (onlyS (.moor mid))
def execBar (c : Nat) (bid : BitVec 8) (hold : Bool) (s : State) : Out := issueOnly s c (onlyS (.bar bid hold))
def execRsend (c : Nat) (f : RsendF) (s : State) : Out := issueOnly s c (onlyS (.rsend f))
def execRwait (c : Nat) (tag : BitVec 16) (s : State) : Out := issueOnly s c (onlyS (.rwait tag))
def execFin (c : Nat) (s : State) : Out := issueOnly s c (onlyS .fin)

end Sys2Proof.Machine
end

