-- ==== Sys2Proof/Machine/Fabric.lean ====
section
/-! DEFINITION. The fabric (07 R151 to R172): attachments, routing, injection, answers, endpoint translation, multicast forks, flow control, and arbitration of an output. Inputs and outputs of a router are numbered 0 local, 1 and 6 attachment, 2 west, 3 east, 4 north, 5 south. -/

namespace Sys2Proof.Machine

open Sys2Proof

/-- The period of CLK_FAB (00: 1 fc is 2 cc). -/
def fcNow (s : State) : Nat := s.cc / 2

/-- A basin that is dark (01 R16). -/
def isDark (s : State) (b : Nat) : Bool := decide (b ∈ s.power.dark)

/-- A router that lies in a dark basin. -/
def darkAt (s : State) (r : Nat) : Bool := isDark s (basinOf s r)

/-- The basin whose CLK_FAB engine m runs on (08 R195). -/
def engineBasin (m : Nat) : Nat := if m < 72 then 2 * (m / 6) + m % 6 / 3 else 2 * (3 * ((m - 72) / 2) + 1) + m % 2

/-! ## Where units attach (07 R154, 01 R11) -/

/-- The compute column of link-die column k (01 Table 1-2). -/
def linkCol (k : Nat) : Nat := [0, 2, 3, 5, 7, 9, 10, 12].getD k 0

/-- The logical column of a physical column that is not spared. -/
def ldOf (s : State) (row p : Nat) : Nat := if p < spareSite s row then p else p - 1

/-- An attachment edge: along y at one x (`vert`), or along x at one y, six routers from `lo`. -/
structure Edge where
  vert : Bool
  at_ : Nat
  lo : Nat
  /-- Through a skip link over a spared site (01 R11). -/
  skip : Bool := false
  deriving DecidableEq, Repr

/-- The routers of an edge, in ascending order along it. -/
def edgeRouters (e : Edge) : List Nat :=
  (List.range 6).map fun i => if e.vert then 72 * (e.lo + i) + e.at_ else 72 * e.at_ + e.lo + i

/-- The edge at x on a west or east side: its die in `row` at the first of the columns that is not spared. -/
def sideX (s : State) (row : Nat) (cols : List Nat) (east : Bool) : Option Edge :=
  (cols.find? fun p => p ≠ spareSite s row).map fun p =>
    ⟨true, 6 * ldOf s row p + (if east then 5 else 0), 6 * row, decide (cols.head? ≠ some p)⟩

/-- The edge at y on a north or south side: its die in column p in the first of the rows where that site is not spared. -/
def sideY (s : State) (p : Nat) (rows : List Nat) (south : Bool) : Option Edge :=
  (rows.find? fun r => p ≠ spareSite s r).map fun r =>
    ⟨false, 6 * r + (if south then 5 else 0), 6 * ldOf s r p, decide (rows.head? ≠ some r)⟩

/-- The attachment edges of a unit by side: the direct one, or the skip link's over a spared site; none where that site is
spared too (01 R11). The first side is the west or the north one. -/
def sidesOf (s : State) (u : Nat) : List Edge :=
  (if u < 5184 then [some ⟨true, coreX u, coreY u, false⟩]
  else if u < 5256 then
    let row := (u - 5184) / 6
    let q := (u - 5184) % 6
    [sideX s row [2 * q + 1, 2 * q] true, sideX s row (if q = 5 then [12] else [2 * q + 2, 2 * q + 3]) false]
  else if u < 5264 then
    let row := 3 * ((u - 5256) / 2) + 1
    [if (u - 5256) % 2 = 0 then sideX s row [0, 1] false else sideX s row [12, 11] true]
  else if u < 5312 then
    let j := (u - 5264) / 2
    let p := linkCol (j % 8)
    if j / 8 = 0 then [sideY s p [0, 1] false]
    else if j / 8 = 2 then [sideY s p [11, 10] true]
    else [sideY s p [5, 4] true, sideY s p [6, 7] false]
  else if u = 5312 then [some ⟨true, 0, 33, false⟩]
  else
    let c := (u - 5313) / 2
    let p := if c % 2 = 0 then 0 else 12
    if (u - 5313) % 2 = 0 then [sideY s p (if c < 2 then [0, 1] else [11, 10]) (decide (2 ≤ c))]
    else [sideX s (if c < 2 then 0 else 11) (if c % 2 = 0 then [0, 1] else [12, 11]) (c % 2 = 1)]).filterMap id

/-- The attachment routers of a unit; a core's is its own. -/
def attachRouters (s : State) (u : Nat) : List Nat := if u < 5184 then [u] else (sidesOf s u).flatMap edgeRouters

/-- The sides of a unit with that of a router at (x, y) first (07 R162 rule 1): a quay die's west side for a router up to its
edge, an equator link die's north side up to y = 35. -/
def sidesFrom (s : State) (u x y : Nat) : List Edge :=
  match sidesOf s u with
  | [a, b] => if (if a.vert then decide (x ≤ a.at_) else decide (y ≤ 35)) then [a, b] else [b, a]
  | l => l

/-- The router of a list, ascending along its edge, that is nearest router (x, y) along the edge: on a tie the lower one (07 R162 rules
2 and 3). -/
def nearest (vert : Bool) (x y : Nat) (l : List Nat) : Option Nat :=
  let far (r : Nat) : Nat := if vert then max (r / 72) y - min (r / 72) y else max (r % 72) x - min (r % 72) x
  l.foldl (fun m r => match m with | none => some r | some t => if far r < far t then some r else some t) none

/-- The edge and router at which a unit is reached from router r: on the source's side, and not in a dark basin as long as
another attachment router is not (DEDUCED, log entry 25). -/
def attachOf (s : State) (u r : Nat) : Edge × Nat :=
  let x := r % 72
  let y := r / 72
  let sides := sidesFrom s u x y
  let lit := sides.filterMap fun e => (nearest e.vert x y ((edgeRouters e).filter fun t => !darkAt s t)).map fun t => (e, t)
  let any := sides.filterMap fun e => (nearest e.vert x y (edgeRouters e)).map fun t => (e, t)
  ((lit ++ any).head?).getD (⟨true, 0, 0, false⟩, 0)

/-- The router at which a unit is reached from router r (07 R162): a core's own router, or an attachment router. -/
def attachAt (s : State) (u r : Nat) : Nat := if u < 5184 then u else (attachOf s u r).2

/-- The port by which a unit is reached at its attachment from router r. -/
def attachPort (s : State) (u r : Nat) : Nat := if u < 5184 then 0 else if (attachOf s u r).1.vert then 1 else 6

/-- A router from which a unit that is not a core is reached where R162's choice is circular, each side's attachment depending on
the other's: the destination's attachment nearest the middle of the array (DESIGN CHOICE, log entry 25). -/
def homeRouter (s : State) (u : Nat) : Nat := if u < 5184 then u else attachAt s u (72 * 36 + 36)

/-- Whether every attachment router of a unit lies in a dark basin, or it has none (07 R154, 01 R11). -/
def cutOff (s : State) (u : Nat) : Bool := (attachRouters s u).all (darkAt s)

/-- A unit that answers nothing: a core that is fenced or dark, an engine that is lost or whose basin
is dark (08 R195), another unit that is cut off (07 R154 R165), or an open site that is not
ADMITTED or whose FUNC does not let it be addressed (11 R289). -/
def unreachable (s : State) (u : Nat) : Bool :=
  cutOff s u ||
  (if u < 5184 then (s.core u).misc.fenced
  else if u < 5264 then (s.engine (u - 5184)).lost || isDark s (engineBasin (u - 5184))
  else if u < 5312 then false
  else if u = 5312 then decide (strapOf s harbourUnit ∈ s.bring.deadDies)
  else decide (getField s (lnkBase + 0x8000 + 0x100 * (u - 5313) + 8) 0 3 ≠ 3) || !(s.site (u - 5313)).func.getLsbD 2)

/-- The new place of a core's position by the re-placement rules of router r (13 R337). -/
def ruleAt (s : State) (r u : Nat) : Option Nat := ((s.router r).replace.find? fun x => x.1 = u).map (·.2)

/-- Whether some router holds a re-placement rule for unit u (13 R337). -/
def ruled (s : State) (u : Nat) : Bool := s.routers.any fun p => p.2.replace.any fun x => x.1 = u

/-- A unit that no packet can reach, at its own place or at the one it has been given (13 R337). -/
def noWay (s : State) (u : Nat) : Bool := unreachable s u && !ruled s u

/-- A unit that is cut off, with the detours around it programmed (07 R165), and that has not been re-placed (13 R337). -/
def sealedOff (s : State) (u : Nat) : Bool :=
  ((attachRouters s u).all fun r => darkAt s r && decide (basinOf s r ∈ s.fabric.detours)) && !ruled s u

/-- DUNIT of a unit (07 Table 7-4). -/
def dunitOf (u : Nat) : BitVec 3 :=
  if u < 5184 then 0 else if u < 5256 then 1 else if u < 5264 then 2 else if u < 5312 then 3
  else if u = 5312 then 4 else 5

/-! ## Identity and translation (07 R166 to R169) -/

/-- The unit whose identity register holds an ID: a core that was given it, or the home unit. -/
def unitOfId (s : State) (id : BitVec 21) : Option Nat :=
  match s.cores.find? fun p => p.2.misc.ident = some id with
  | some (c, _) => some c
  | none =>
    if id.toNat / 8192 = panelId s ∧ id.toNat % 8192 < 5321 then some (id.toNat % 8192) else none

/-- FAB_ETT_STATUS fields. -/
def ettEpoch (s : State) : Nat := getField s (fabBase + 8) 0 2
def ettBank (s : State) : Nat := getField s (fabBase + 8) 2 1
def ettState (s : State) : Nat := getField s (fabBase + 8) 3 2

/-- An entry of a bank. -/
def ettIn (s : State) (bank i : Nat) : Nat :=
  (look 0 (if bank = 0 then s.fabric.bank0 else s.fabric.bank1) i).toNat

/-- An entry of the active bank. -/
def ettEntry (s : State) (id : BitVec 21) : Nat := ettIn s (ettBank s) id.toNat

/-- The local index that a LOCAL entry names (07 Table 7-7). -/
def localUnit (e : Nat) : Nat :=
  let a := bits e 5 7
  let b := bits e 12 7
  match bits e 2 3 with
  | 0 => 72 * b + a
  | 1 => 5184 + 6 * a + b
  | 2 => 5256 + 2 * a + b
  | 3 => 5264 + 2 * (8 * a + b) + bits e 19 1
  | 4 => 5312
  | _ => 5313 + 2 * a + b

/-- Whether port p carries traffic: ACTIVE and not HELD (11 R276). -/
def portUp (s : State) (p : Nat) : Bool :=
  let off := lnkBase + 0x400 * (p / 2) + 0x100 + 0x40 * (p % 2)
  getField s off 0 4 = 5 && getField s off 9 1 = 0

/-- Ports of a PMASK that are up. -/
def portsUp (s : State) (e : Nat) : List Nat :=
  (List.range 48).filter fun p => bitOf e (16 + p) && portUp s p

/-- The flow of a packet under a REMOTE entry (07 R169). -/
def flowOf (e : Nat) (src dst : BitVec 21) (xq : BitVec 3) : BitVec 21 × BitVec 21 × Nat := (src, dst, if bits e 2 2 = 2 then xq.toNat else 8)

/-- The port that a REMOTE entry selects (07 R169): the one by which its flow leaves while that is up, else by SPREAD. The hash
is the sum of its arguments, a choice of the model (log entry 11). -/
def egress (s : State) (e : Nat) (src dst : BitVec 21) (xq : BitVec 3) : Option Nat :=
  let ps := portsUp s e
  match (s.fabric.flows.find? fun f => decide (f.1 = flowOf e src dst xq) && decide (f.2 ∈ ps)) with
  | some f => some f.2
  | none =>
    match bits e 2 2 with
    | 0 => ps.head?
    | 1 => ps[(src.toNat + dst.toNat) % max 1 ps.length]?
    | _ => ps[(src.toNat + dst.toNat + xq.toNat) % max 1 ps.length]?

/-- The flow of a packet leaves through port p from now on. -/
def keepFlow (s : State) (e : Nat) (src dst : BitVec 21) (xq : BitVec 3) (p : Nat) : State :=
  let f := flowOf e src dst xq
  { s with fabric := { s.fabric with flows := s.fabric.flows.filter (fun x => x.1 ≠ f) ++ [(f, p)] } }

/-! ## Packets -/

/-- Flits of a packet: one header flit, or one for each 256 bytes of payload (07 R151). -/
def flitsOf (p : Packet) : Nat := max 1 ((p.payload.length + 255) / 256)

/-- Whether the REF of a write or read request is a berth access (07 Table 7-6): by the unit that it goes to, and on its way to another panel
by its sender, of which a quay engine alone uses the quay form (11 R279). -/
def berthForm (p : Packet) : Bool :=
  p.dunit = 0 || p.dunit = 5 || p.dunit = 7 || (p.dunit = 3 && !(decide (5184 ≤ p.src.toNat % 8192) && decide (p.src.toNat % 8192 < 5264)))

/-- PIDX of a packet by type and destination (07 Table 7-6). -/
def pidxOf (p : Packet) : BitVec 10 :=
  let r := p.ref.toNat
  BitVec.ofNat 10 (match p.ty.toNat with
    | 0 | 1 => if berthForm p then r / 2 ^ 36 else r / 2 ^ 38
    | 5 | 6 => r / 2 ^ 16
    | 2 | 3 | 10 => r / 2 ^ 8
    | _ => 0)

/-- STATUS of an answer. Table 7-6 gives QDONE no place for its status: the model carries it beside the header (log entry 12). -/
def statusOf (p : Packet) : Byte := if p.ty = 6 then p.qst else p.ref.setWidth 8

/-- Whether a packet's TYPE expects an answer: writes, reads, tokens and quay commands. -/
def wantsAnswer (p : Packet) : Bool := p.ty = 0 || p.ty = 1 || p.ty = 4 || p.ty = 5

/-- A packet with the fields most senders leave zero. -/
def mkPkt (ty : Nat) (dst src : BitVec 21) (ref : Nat) (xq : BitVec 3) (first : Bool) (payload : Bytes) : Packet :=
  { cls := 2, ty := BitVec.ofNat 4 ty, trl := false, vcx := false, epoch := 0, dst := dst, src := src,
    len := BitVec.ofNat 7 (payload.length / 64), dx := 0, dy := 0, dunit := 0, ref := BitVec.ofNat 48 ref, xq := xq,
    first := first, payload := payload, unit := 0 }

/-! ## Injection and multicast forks (07 R162 R163) -/

/-- The rectangle of a multicast: X0, X1, Y0, Y1. -/
def mcastRect (p : Packet) : Nat × Nat × Nat × Nat :=
  (p.dx.toNat, p.dst.toNat % 128, p.dy.toNat, p.dst.toNat / 128 % 128)

/-- The outputs of a multicast at a router, by the input it came in through (07 R163). -/
def mcastOuts (p : Packet) (r inp : Nat) : List Nat :=
  let (x0, x1, y0, y1) := mcastRect p
  let x := r % 72
  let y := r / 72
  let inX := decide (x0 ≤ x) && decide (x ≤ x1)
  let here := if inX && decide (y0 ≤ y) && decide (y ≤ y1) then [0] else []
  let north := if inX && decide (y0 < y) then [4] else []
  let south := if inX && decide (y < y1) then [5] else []
  match inp with
  | 4 => here ++ south
  | 5 => here ++ north
  | 2 => here ++ north ++ south ++ (if x < x1 then [3] else [])
  | 3 => here ++ north ++ south ++ (if x0 < x then [2] else [])
  | _ => here ++ north ++ south ++ (if x < x1 then [3] else []) ++ (if x0 < x then [2] else [])

/-- A packet comes to a router, its first flits with it: a multicast forks into one entry for each output. -/
def arriveAt (s : State) (r inp : Nat) (p : Packet) (detour came got : Nat) : State :=
  let one (h : Option (Nat × Nat)) : InPkt :=
    { inp := inp, pkt := p, since := fcNow s, came := came, got := got, sent := 0, detour := detour, hop := h }
  s.updRouter r fun k =>
    if p.dunit = 7 then { k with pkts := k.pkts ++ (mcastOuts p r inp).map fun o => one (some (o, 0)) }
    else { k with pkts := k.pkts ++ [one none] }

/-- A packet of unit `u` with DX, DY and DUNIT set toward local unit `dst` from router `from_` (07 R162), and the epoch stamped. -/
def headTo (s : State) (from_ dst : Nat) (epoch : Nat) (p : Packet) : Packet :=
  let to_ := attachAt s dst from_
  { p with unit := dst, dunit := dunitOf dst, dx := BitVec.ofNat 7 (to_ % 72), dy := BitVec.ofNat 7 (to_ / 72), epoch := BitVec.ofNat 2 epoch }

/-- A packet at router r with DX, DY and DUNIT rewritten to its destination's new place, if the router holds a rule for it (13 R337). -/
def rehead (s : State) (r : Nat) (p : Packet) : Packet :=
  if p.dunit = 0 then (match ruleAt s r p.unit with | some n => headTo s r n p.epoch.toNat p | none => p) else p

/-- A packet waits at unit u to enter router `from_`, whole. -/
def enterAt (s : State) (u from_ dst : Nat) (epoch : Nat) (p : Packet) : State :=
  arriveAt s from_ (attachPort s u from_) (rehead s from_ (headTo s from_ dst epoch p)) 0 (flitsOf p) 0

/-- The flow of a packet for a unit that is a port leaves through that port from now on (07 R169). -/
def noteFlow (s : State) (dst : Nat) (p : Packet) : State :=
  if 5264 ≤ dst ∧ dst < 5312 then keepFlow s (ettEntry s p.dst) p.src p.dst p.xq (dst - 5264) else s

/-- Unit `u` sends a packet to local unit `dst`. -/
def send (s : State) (u dst : Nat) (epoch : Nat) (p : Packet) : State :=
  enterAt (noteFlow s dst p) u (attachAt s u (homeRouter s dst)) dst epoch p

/-- Routes a packet toward an endpoint ID that is not translated for a transfer: an answer. A unit
of this panel is reached at home, another through the active bank; none drops the packet, and so does one behind the detours. -/
def sendBack (s : State) (u : Nat) (p : Packet) : State :=
  match unitOfId s p.dst with
  | some d => if sealedOff s d then s else send s u d (ettEpoch s) p
  | none =>
    let e := ettEntry s p.dst
    if e % 4 = 2 then
      match egress s e p.src p.dst p.xq with
      | some q => send s u (portUnit q) (ettEpoch s) { p with vcx := bitOf e 4 }
      | none => raiseFab s 6 { unit := u }
    else s

/-- The header of a packet as a number (07 Table 7-4), with DX, DY, DUNIT, VCX and EPOCH taken as zero (07 R161). -/
def headerNat (p : Packet) : Nat :=
  p.cls.toNat + 4 * p.ty.toNat + 2 ^ 6 * b2n p.trl + 2 ^ 10 * p.dst.toNat + 2 ^ 31 * p.src.toNat + 2 ^ 52 * p.len.toNat +
    2 ^ 76 * p.ref.toNat + 2 ^ 124 * p.xq.toNat + 2 ^ 127 * b2n p.first

/-- The trailer of a packet (07 R161): CRC-64 over the header and the payload. -/
def trailerOf (p : Packet) : BitVec 64 := checkOf 3 0 0 (leBytes 16 (headerNat p) ++ p.payload)

/-- A packet with its trailer. -/
def trailed (p : Packet) : Packet :=
  let q := { p with trl := true }
  { q with trailer := trailerOf q }

/-- The status that combines two (07 R163): the lowest that is not OK. -/
def worse (a b : Byte) : Byte := if a = 0 then b else if b = 0 then a else if a.toNat ≤ b.toNat then a else b

/-- The router that combines a multicast's answers: the source's. -/
def joinRouter (s : State) (src : BitVec 21) : Nat :=
  match unitOfId s src with
  | some u => homeRouter s u
  | none => 0

/-- Answers a packet from unit `u` with a status: an ACK to SRC, or a member's share of a
multicast's single ACK (07 R163). -/
def answer (s : State) (u : Nat) (id : BitVec 21) (p : Packet) (status : Byte) : State :=
  let ack (st : Byte) : Packet := mkPkt 3 p.src id (st.toNat + 256 * (pidxOf p).toNat) p.xq false []
  let r := joinRouter s p.src
  let k := s.router r
  match takeFirst (fun j : AckJoin => j.src = p.src && j.xq = p.xq && j.pidx = pidxOf p) k.acks with
  | none => sendBack s u (ack status)
  | some (j, rest) =>
    let st := worse j.status status
    if j.left ≤ 1 then sendBack (s.setRouter r { k with acks := rest }) r (ack st)
    else s.setRouter r { k with acks := rest ++ [{ j with left := j.left - 1, status := st }] }

/-- A packet whose answers are no longer awaited. -/
def dropJoin (s : State) (src : BitVec 21) (xq : BitVec 3) (pidx : BitVec 10) : State :=
  s.updRouter (joinRouter s src) fun k => { k with acks := k.acks.filter fun j => !(j.src = src && j.xq = xq && j.pidx = pidx) }

/-- The cores of a rectangle. -/
def rectCores (x0 x1 y0 y1 : Nat) : List Nat :=
  ((List.range 72).filter fun y => decide (y0 ≤ y) && decide (y ≤ y1)).flatMap fun y =>
    ((List.range 72).filter fun x => decide (x0 ≤ x) && decide (x ≤ x1)).map fun x => 72 * y + x

/-- FAB_ERR_COUNT (07 Table 7-18). -/
def countTrailer (s : State) : State := countField s (fabBase + 0x20) 0 16 1
def countRefused (s : State) : State := countField s (fabBase + 0x20) 16 16 1

/-- A packet for a unit that cannot take it: answered with UNREACHABLE if its TYPE expects an answer. -/
def turnAway (s : State) (u : Nat) (p : Packet) : State :=
  let s1 := countRefused s
  if wantsAnswer p then answer (raiseFab s1 6 { unit := u }) u (homeId s u) p 6 else s1

/-- Sends a packet from unit `u` to local unit `dst`; one for a unit behind the detours around its basin is answered with UNREACHABLE
(07 R165). -/
def inject (s : State) (u dst : Nat) (epoch : Nat) (p : Packet) : State :=
  if sealedOff s dst then turnAway s dst { p with unit := dst, dunit := dunitOf dst } else send s u dst epoch p

/-- Sends a WRITE to every core of a rectangle; the sender gets one answer for the packet. -/
def injectMcast (s : State) (u : Nat) (rect : Nat × Nat × Nat × Nat) (epoch : Nat) (p : Packet) : State :=
  let (x0, x1, y0, y1) := rect
  let q : Packet := { p with dunit := 7, dx := BitVec.ofNat 7 x0, dy := BitVec.ofNat 7 y0,
                             dst := BitVec.ofNat 21 (x1 + 128 * y1), epoch := BitVec.ofNat 2 epoch }
  let from_ := attachAt s u (72 * y0 + x0)
  let j : AckJoin := { src := p.src, xq := p.xq, pidx := pidxOf q, left := (rectCores x0 x1 y0 y1).length, status := 0 }
  let s1 := s.updRouter (joinRouter s p.src) fun k => { k with acks := k.acks ++ [j] }
  arriveAt s1 from_ (attachPort s u from_) q 0 (flitsOf q) 0

/-- The members that a multicast branch serves beyond output `out` of router r. -/
def branchCores (p : Packet) (r out : Nat) : List Nat :=
  let (x0, x1, y0, y1) := mcastRect p
  let x := r % 72
  let y := r / 72
  match out with
  | 0 => [r]
  | 4 => rectCores x x y0 (min y1 (y - 1))
  | 5 => rectCores x x (max y0 (y + 1)) y1
  | 3 => rectCores (max x0 (x + 1)) x1 y0 y1
  | _ => rectCores x0 (min x1 (x - 1)) y0 y1

/-- Sends a multicast packet from router r to each of a list of its members alone, a re-placed one at its new place: where a branch would
enter a basin that is dark or whose work has moved (13 R337), or for a resend (DESIGN CHOICE, log entry 25). -/
def toMembers (s : State) (r : Nat) (p : Packet) (l : List Nat) : State :=
  l.foldl (fun s c =>
    let t := (ruleAt s r c).getD c
    if noWay s t then turnAway s t { p with dunit := 0, unit := t } else inject s r t p.epoch.toNat p) s

/-! ## Next hop (07 R162 R165) -/

/-- The neighbour through a mesh output. -/
def neighbour (r out : Nat) : Option Nat :=
  let x := r % 72
  let y := r / 72
  match out with
  | 2 => if x = 0 then none else some (r - 1)
  | 3 => if x = 71 then none else some (r + 1)
  | 4 => if y = 0 then none else some (r - 72)
  | 5 => if y = 71 then none else some (r + 72)
  | _ => none

/-- Whether an output leads into a dark basin. -/
def intoDark (s : State) (r out : Nat) : Bool :=
  match neighbour r out with
  | some n => darkAt s n
  | none => false

/-- Whether detour rules are programmed for the basin behind an output. -/
def detoured (s : State) (r out : Nat) : Bool :=
  match neighbour r out with
  | some n => decide (basinOf s n ∈ s.fabric.detours)
  | none => false

/-- The nearer of the rows just north and just south of the basin behind an output, north on a
tie and south where north is the panel edge (07 R165). -/
def besideY (r out : Nat) : Nat :=
  let y := r / 72
  let row := (match neighbour r out with | some n => n / 72 / 6 | none => y / 6)
  if row = 0 then 5 else if y + 1 - 6 * row ≤ 6 * row + 6 - y ∨ row = 11 then 4 else 5

/-- The hop of a packet on its way around a basin in row y0, from router r with output `xo` along x (07 R165): along y to the row beside the
basin, along that row until the basin is passed, and back to row y0. Output and detour. -/
def aroundHop (s : State) (r y0 xo : Nat) : Option (Nat × Nat) :=
  let x := r % 72
  let y := r / 72
  let dark (x y : Nat) : Bool := darkAt s (72 * y + x)
  let ahead := if xo = 3 then x + 1 else x - 1
  if dark ahead y then (if detoured s r xo then some (besideY r xo, 1 + y0) else none)
  else if dark ahead y0 || dark x y0 then some (xo, 1 + y0)
  else
    let back := if y < y0 then 5 else 4
    let y' := if y < y0 then y + 1 else y - 1
    if dark x y' then some (xo, 1 + y0) else some (back, if y' = y0 then 0 else 1 + y0)

/-- The hop of a packet at router r that heads for (dx, dy), by its detour; none where it waits at the boundary of a dark basin, or has
arrived. -/
def meshHop (s : State) (r dx dy detour : Nat) : Option (Nat × Nat) :=
  let x := r % 72
  let y := r / 72
  let xo := if x < dx then 3 else 2
  let yo := if y < dy then 5 else 4
  let side := if basinOf s (72 * (match neighbour r yo with | some n => n / 72 | none => y) + x) % 2 = 0 then 3 else 2
  if detour = 73 ∧ y ≠ dy then
    if intoDark s r yo then some (side, 73)
    else some (yo, match neighbour r yo with
      | some n => if (s.power.dark.any fun b => b / 2 = n / 72 / 6) then 73 else 0
      | none => 0)
  else if x ≠ dx then
    if 0 < detour ∧ detour < 73 ∧ y ≠ detour - 1 then aroundHop s r (detour - 1) xo
    else if intoDark s r xo then aroundHop s r y xo
    else some (xo, 0)
  else if y ≠ dy then
    if intoDark s r yo then (if detoured s r yo then some (side, 73) else none) else some (yo, 0)
  else none

/-- The output of a packet at a router and its detour from there; none where it waits at the
boundary of a dark basin. -/
def nextHop (s : State) (r : Nat) (p : Packet) (detour : Nat) : Option (Nat × Nat) :=
  if r = 72 * p.dy.toNat + p.dx.toNat then some (attachPort s p.unit r, 0) else meshHop s r p.dx.toNat p.dy.toNat detour

/-- A packet that only carries the route to unit `u` at router `dst`. -/
def probe (u dst : Nat) : Packet :=
  { mkPkt 7 0 0 0 0 false [] with unit := u, dunit := dunitOf u, dx := BitVec.ofNat 7 (dst % 72), dy := BitVec.ofNat 7 (dst / 72) }

/-- The output and detour of a packet at a router: as it has them, and not into a dark basin. -/
def hopOf (s : State) (r : Nat) (q : InPkt) : Option (Nat × Nat) :=
  match q.hop with
  | some h => if intoDark s r h.1 then none else some h
  | none => nextHop s r q.pkt q.detour

/-! ## Arbitration (07 R155 R156) -/

/-- The channel of a packet: 0 CTRL, 1 DATA request, 2 DATA response, 3 and 4 TRANSIT. -/
def channelOf (p : Packet) : Nat :=
  match p.cls.toNat with
  | 0 => 0
  | 3 => if p.vcx then 4 else 3
  | _ => if p.ty = 2 || p.ty = 3 || p.ty = 6 || p.ty = 10 then 2 else 1

/-- Flits that a channel holds at an input (07 Table 7-3): 8 on the detour channel. -/
def channelCap (ch : Nat) (detour : Bool) : Nat := if detour then 8 else if ch = 0 then 4 else 32

/-- Whether an entry of a router's list is in a channel of an input. -/
def inChan (inp ch : Nat) (detour : Bool) (q : InPkt) : Bool :=
  decide (q.inp = inp) && decide (channelOf q.pkt = ch) && decide ((q.detour ≠ 0) = detour)

/-- Flits in a channel of an input. The entries of one multicast packet share their flits. -/
def chanHeld (k : Router) (inp ch : Nat) (detour : Bool) : Nat :=
  let l := k.pkts.filter (inChan inp ch detour)
  ((l.map (·.pkt)).eraseDups.map fun p => (l.filter fun q => q.pkt = p).foldl (fun m q => max m (q.got - q.sent)) 0).foldl (· + ·) 0

/-- The flits of a tag's first stream at an input that have merged. -/
def mergedOf (k : Router) (t : RStream) : Nat :=
  match k.streams.find? fun x => x.tag = t.tag && x.vid = t.vid && decide (x.inp = t.inp) with
  | some x => if x = t then
      (match k.outs.find? fun m => m.tag = t.tag && m.vid = t.vid && decide (m.merged < 50) with | some m => m.merged | none => 0)
      else 0
  | none => 0

/-- Whether the flit in a stream's reserved slot waits (07 R182). -/
def slotHeld (k : Router) (t : RStream) : Bool :=
  match t.resv with
  | some i => decide (mergedOf k t ≤ i)
  | none => false

/-- Flits in the shared REDUCE channel of an input. -/
def redHeld (k : Router) (inp : Nat) : Nat :=
  ((k.streams.filter fun t => t.inp = inp).map fun t => t.flits - mergedOf k t - b2n (slotHeld k t)).foldl (· + ·) 0

/-- Whether a stream's reserved slot at an input is free. -/
def slotFree (k : Router) (inp : Nat) (tag vid : BitVec 16) : Bool :=
  !(k.streams.any fun t => t.inp = inp && t.tag = tag && t.vid = vid && slotHeld k t)

/-- Whether a flit of a tag may enter an input: the shared channel serves first, then the reserved slot. -/
def redRoom (k : Router) (inp : Nat) (tag vid : BitVec 16) : Bool := decide (redHeld k inp < 32) || slotFree k inp tag vid

/-- Changes the first element that meets a condition. -/
def updFirst {α : Type} (c : α → Bool) (g : α → α) : List α → List α
  | [] => []
  | x :: r => if c x then g x :: r else x :: updFirst c g r

/-- The next flit of a channel enters it from the link's FIFO or the unit, if there is space; none where it waits. -/
def enterChan (k : Router) (inp ch : Nat) (detour : Bool) : Option Router :=
  match k.pkts.find? fun q => inChan inp ch detour q && decide (q.got < q.came) with
  | none => none
  | some q =>
    if channelCap ch detour ≤ chanHeld k inp ch detour then none
    else some { k with pkts := k.pkts.map fun t => if t.inp = inp ∧ t.pkt = q.pkt ∧ t.got = q.got ∧ t.came = q.came then { t with got := t.got + 1 } else t }

/-- The next flit of a tag's stream enters an input. -/
def enterRed (k : Router) (inp : Nat) (tag vid : BitVec 16) : Option Router :=
  let waits (t : RStream) : Bool := decide (t.inp = inp) && t.tag = tag && t.vid = vid && decide (t.flits < t.came)
  if !k.streams.any waits || !redRoom k inp tag vid then none
  else
    let shared := decide (redHeld k inp < 32)
    some { k with streams := updFirst waits (fun t =>
      { t with flits := t.flits + 1, resv := if shared then t.resv else some t.flits }) k.streams }

/-- A flit of a FIFO enters the input behind it. -/
def enterFlit (k : Router) (inp : Nat) : CrossFlit → Option Router
  | .pkt ch detour => enterChan k inp ch detour
  | .red tag vid => enterRed k inp tag vid

/-- What leaves a FIFO in order, as far as there is space. -/
def drainFifo (inp : Nat) : List CrossFlit → Router → List CrossFlit × Router
  | [], k => ([], k)
  | x :: rest, k =>
    match enterFlit k inp x with
    | some k' => drainFifo inp rest k'
    | none => (x :: rest, k)

/-- Repeats a change as long as it can be made, n times at most. -/
def repeatUpTo {α : Type} (g : α → Option α) : Nat → α → α
  | 0, x => x
  | n + 1, x => match g x with | some y => repeatUpTo g n y | none => x

/-- What waits in the crossing FIFOs of a router, and at its units, enters its inputs as far as there is space. -/
def settleIn (k : Router) : Router :=
  let k1 := (k.fifos.map (·.1)).foldl (fun k key =>
    let (l, k') := drainFifo (key / 4) (look [] k.fifos key) k
    { k' with fifos := put [] k'.fifos key l }) k
  let k2 := ([0, 1, 6].flatMap fun i => (List.range 5).map fun ch => (i, ch)).foldl (fun k x =>
    repeatUpTo (fun k => enterChan k x.1 x.2 false) 32 k) k1
  ((k2.streams.filter fun t => t.inp < 2 || t.inp = 6).map fun t => (t.inp, t.tag, t.vid)).foldl (fun k x =>
    repeatUpTo (fun k => enterRed k x.1 x.2.1 x.2.2) 50 k) k2

/-- The input at which a mesh output arrives. -/
def inputOf (out : Nat) : Nat := match out with | 2 => 3 | 3 => 2 | 4 => 5 | _ => 4

/-- Whether a link between two routers crosses from one basin to another (05 R123). -/
def crosses (s : State) (r n : Nat) : Bool := decide (basinOf s r ≠ basinOf s n)

/-- The key of the FIFO of an input and a class. -/
def fifoKey (inp cls : Nat) : Nat := 4 * inp + cls

/-- Flits of a channel that have left a router toward a unit and wait there. -/
def exitHeld (k : Router) (out ch : Nat) : Nat :=
  ((k.pkts.filter fun q => decide (q.hop.map (·.1) = some out) && decide (channelOf q.pkt = ch)).map (·.sent)).foldl (· + ·) 0

/-- The number of the link through a mesh output of router r to router n, and that of a unit's attachment. -/
def linkOut (r out n : Nat) : Nat :=
  match out with
  | 2 => 6 * n + 3
  | 4 => 6 * n + 5
  | _ => 6 * r + out

def attachLink (u : Nat) : Nat := 6 * coreCount + u

/-- Whether S4 has left a link untrained (11 R286): width code 4. -/
def untrained (s : State) (link : Nat) : Bool := decide (look 0 s.fabric.linkWidth link = 4)

/-- Whether there is space for a flit of a packet beyond output `out`: in the FIFO of a crossing, which holds 16
flits of a class (05 R123), or in the channel of the next router. A unit's FIFO holds 16 flits of each channel, so that a response waits for
no request (07 R155), and a local port does too (DESIGN CHOICE, log entry 25). -/
def hasRoom (s : State) (r out detour : Nat) (p : Packet) : Bool :=
  match neighbour r out with
  | none => !(decide (coreCount ≤ p.unit) && untrained s (attachLink p.unit)) && decide (exitHeld (s.router r) out (channelOf p) < 16)
  | some n =>
    let inp := inputOf out
    if untrained s (linkOut r out n) then false
    else if crosses s r n then decide ((look [] (s.router n).fifos (fifoKey inp p.cls.toNat)).length < 16)
    else decide (chanHeld (s.router n) inp (channelOf p) (decide (detour ≠ 0)) < channelCap (channelOf p) (decide (detour ≠ 0)))

/-- Whether a packet of a router's list is behind another one in its channel: one that came before, of another packet, with flits still
to be sent. -/
def behind (k : Router) (i : Nat) (q : InPkt) : Bool :=
  (k.pkts.take i).any fun t => inChan q.inp (channelOf q.pkt) (decide (q.detour ≠ 0)) t && decide (t.pkt ≠ q.pkt) && decide (t.sent < flitsOf t.pkt)

/-- Position, packet and detour of the packets that may send a flit on an output: the first of each input channel; in each channel of
the output the one that has started, until its last flit has gone. -/
def heads (s : State) (r out : Nat) : List (Nat × InPkt × Nat) :=
  let k := s.router r
  let mine := k.pkts.zipIdx.filterMap fun p =>
    match hopOf s r p.1 with
    | some (o, d) => if o = out ∧ p.1.sent < flitsOf p.1.pkt ∧ !behind k p.2 p.1 then some (p.2, p.1, d) else none
    | none => none
  let lead (q : Nat × InPkt × Nat) : Bool :=
    match mine.find? fun t => channelOf t.2.1.pkt = channelOf q.2.1.pkt && decide ((t.2.2 ≠ 0) = (q.2.2 ≠ 0)) && decide (t.2.1.sent ≠ 0) with
    | some t => t.1 = q.1
    | none => true
  mine.filter fun q => lead q && decide (q.2.1.sent < q.2.1.got) && hasRoom s r out q.2.2 q.2.1.pkt

/-- The oldest of a list of heads. -/
def oldest (l : List (Nat × InPkt × Nat)) : Option (Nat × InPkt × Nat) :=
  l.foldl (fun m q =>
    match m with
    | none => some q
    | some t => if q.2.1.since < t.2.1.since then some q else some t) none

/-- The head that the round-robin of rule 5 chooses from channel `rr` on. -/
def roundRobin (l : List (Nat × InPkt × Nat)) (rr : Nat) : Option (Nat × InPkt × Nat) :=
  ((List.range 4).filterMap fun i => oldest (l.filter fun q => channelOf q.2.1.pkt = 1 + (rr + i) % 4)).head?

/-- Flits at which the packets of a contribution end (07 Table 7-10): 16, 32, 48 and 50. -/
def packetEnd (sent : Nat) : Nat := if sent < 16 then 16 else if sent < 32 then 32 else if sent < 48 then 48 else 50

/-- A merged stream in the middle of a packet. -/
def midPacket (m : MergedOut) : Bool := !(m.sent = 0 || m.sent = 16 || m.sent = 32 || m.sent = 48 || m.sent ≥ 50)

/-- Whether there is space for a flit of a merged stream beyond output `out`. -/
def hasRedRoom (s : State) (r out : Nat) (m : MergedOut) : Bool :=
  match neighbour r out with
  | none => true
  | some n =>
    let inp := inputOf out
    if untrained s (linkOut r out n) then false
    else if crosses s r n then decide ((look [] (s.router n).fifos (fifoKey inp 1)).length < 16) else redRoom (s.router n) inp m.tag m.vid

/-- What an output grants. -/
inductive Grant where
  | reduce (k : Nat)
  | flit (q : Nat × InPkt × Nat)
  | idle
  deriving DecidableEq, Repr

/-- 07 R156: the grant of an output and its arbitration state after it. -/
def arbitrate (s : State) (r out : Nat) : Grant × OutArb :=
  let k := s.router r
  let a := look {} k.arb out
  let hs := heads s r out
  let ctrl := oldest (hs.filter fun q => channelOf q.2.1.pkt = 0)
  let dts := hs.filter fun q => channelOf q.2.1.pkt ≠ 0
  let reds := k.outs.zipIdx.filter fun m => m.1.out = out && decide (m.1.sent < 50) && hasRedRoom s r out m.1
  let started := reds.find? fun m => midPacket m.1
  let rh := reds.find? fun m => !midPacket m.1 && decide (packetEnd m.1.sent ≤ m.1.merged)
  let old := (oldest dts).filter fun q => decide (q.2.1.since + 128 ≤ fcNow s)
  let head := rh.isSome
  let take (q : Nat × InPkt × Nat) (isRed : Bool) : Grant × OutArb :=
    (.flit q, { a with dataYield := isRed, redRun := 0, rr := channelOf q.2.1.pkt % 4 })
  match started with
  | some m => (.reduce m.2, a)
  | none =>
    match old, head && a.dataYield with
    | some q, false => take q head
    | _, _ =>
      match ctrl, head && a.ctrlYield with
      | some q, false => (.flit q, { a with ctrlYield := head })
      | _, _ =>
        match rh with
        | some m =>
          match decide (4 ≤ a.redRun) && !a.dataYield, roundRobin dts a.rr with
          | true, some q => take q true
          | _, _ =>
            (.reduce m.2, { a with ctrlYield := false, dataYield := false,
                                   redRun := if dts = [] then 0 else a.redRun + 1 })
        | none =>
          match roundRobin dts a.rr with
          | some q => take q false
          | none => (.idle, a)

/-- A flit of a packet comes to router n: its first one brings the packet, which the router's re-placement rules may rewrite (13 R337). -/
def flitComes (s : State) (r n inp : Nat) (p0 : Packet) (detour : Nat) (first : Bool) : State :=
  let cross := crosses s r n
  let p := rehead s n p0
  let s1 :=
    if first then arriveAt s n inp p detour 1 (if cross then 0 else 1)
    else s.updRouter n fun k =>
      let mine (q : InPkt) : Bool := decide (q.inp = inp) && (decide (q.pkt = p) || decide (q.pkt = p0)) && decide (q.came < flitsOf p)
      match k.pkts.find? mine with
      | none => k
      | some x => { k with pkts := k.pkts.map fun q => if mine q ∧ q.came = x.came then
          { q with came := q.came + 1, got := if cross then q.got else q.got + 1 } else q }
  if cross then s1.updRouter n fun k =>
    { k with fifos := upd [] k.fifos (fifoKey inp p.cls.toNat) (· ++ [.pkt (channelOf p) (decide (detour ≠ 0))]) }
  else s1

/-- A flit of a packet leaves; with its last one the packet has left the router, unless it waits there for its unit. -/
def sendFlit (s : State) (r out : Nat) (q : Nat × InPkt × Nat) : State :=
  let k := s.router r
  let x : InPkt := { q.2.1 with sent := q.2.1.sent + 1, since := fcNow s, hop := some (out, q.2.2) }
  match neighbour r out with
  | none => s.setRouter r { k with pkts := setAt k.pkts q.1 x }
  | some n =>
    let s1 := s.setRouter r { k with pkts := if x.sent < flitsOf x.pkt then setAt k.pkts q.1 x else dropAt k.pkts q.1 }
    flitComes s1 r n (inputOf out) x.pkt q.2.2 (decide (x.sent = 1))

/-- A flit of a merged stream comes to router n. -/
def redComes (s : State) (r n inp : Nat) (m : MergedOut) : State :=
  let mine (t : RStream) : Bool := t.tag = m.tag && t.vid = m.vid && decide (t.inp = inp) && decide (t.came < 50)
  let s1 := s.updRouter n fun k =>
    if k.streams.any mine then { k with streams := updFirst mine (fun t => { t with came := t.came + 1, img := m.img }) k.streams }
    else { k with streams := k.streams ++
      [{ tag := m.tag, vid := m.vid, inp := inp, round := m.round, came := 1, flits := 0, resv := none, img := m.img }] }
  if crosses s r n then s1.updRouter n fun k => { k with fifos := upd [] k.fifos (fifoKey inp 1) (· ++ [.red m.tag m.vid]) }
  else s1.updRouter n fun k => (enterRed k inp m.tag m.vid).getD k

/-- A flit of a merged stream leaves. -/
def sendReduce (s : State) (r out j : Nat) : State :=
  let k := s.router r
  match k.outs[j]? with
  | none => s
  | some m =>
    let m' := { m with sent := m.sent + 1 }
    match neighbour r out with
    | none => s.setRouter r { k with outs := setAt k.outs j m' }
    | some n =>
      redComes (s.setRouter r { k with outs := if m'.sent ≥ 50 then dropAt k.outs j else setAt k.outs j m' }) r n (inputOf out) m

/-- What waits before the inputs of router r and of the one beyond output `out` enters them. -/
def settleAt (s : State) (r out : Nat) : State :=
  let s1 := s.updRouter r settleIn
  match neighbour r out with
  | some n => s1.updRouter n settleIn
  | none => s1

/-- Whether an output leads into a basin whose work has been re-placed, by the rules of router r (13 R337). -/
def movedAway (s : State) (r out : Nat) : Bool :=
  match (if out = 0 then some r else neighbour r out) with
  | some n => (ruleAt s r n).isSome
  | none => false

/-- Multicast packets that are whole at router r and whose branch leads into a dark basin with detours, or into one whose work has been
re-placed: the members beyond are sent to alone (13 R337). -/
def divert (s : State) (r out : Nat) : State :=
  let k := s.router r
  let cut (q : InPkt) : Bool := q.pkt.dunit = 7 && decide (q.hop = some (out, 0)) && decide (q.sent = 0) && decide (q.got = flitsOf q.pkt)
  if (intoDark s r out && detoured s r out) || movedAway s r out then
    (k.pkts.filter cut).foldl (fun s q => toMembers s r q.pkt (branchCores q.pkt r out))
      (s.setRouter r { k with pkts := k.pkts.filter fun q => !cut q })
  else s

/-- FLIT_FORWARD: output `out` of router r grants one flit. -/
def execFlitForward (r out : Nat) (s : State) : Out :=
  onUnit (decide (r < coreCount) && decide (out < 7)) <|
    let s0 := divert (settleAt s r out) r out
    let (g, a) := arbitrate s0 r out
    let s1 := s0.updRouter r fun k => { k with arb := put {} k.arb out a }
    match g with
    | .idle => s0
    | .flit q => sendFlit s1 r out q
    | .reduce j => sendReduce s1 r out j

end Sys2Proof.Machine
end

