-- ==== Sys2Proof/Machine/Sync.lean ====
section
/-! DEFINITION. Waits, holds, barriers, tokens and contributions of a core (04 R82 R91 R97 R106 to R108, 06 R142, 07 R177 R178 R180). -/

namespace Sys2Proof.Machine

open Sys2Proof

/-! ## Tokens (04 R82) -/

/-- A token on its way into an endpoint of core c. -/
def tokenIn (k : Core) (t : TokIn) : Core := { k with sync := { k.sync with tokens := k.sync.tokens ++ [t] } }

/-- A local token of this core. -/
def localToken (qe : BitVec 3) (n : Nat) (step : BitVec 13) : TokIn :=
  { qe := qe, n := n, local_ := true, notify := false, step := step, src := 0, xq := 0, pidx := 0 }

/-- An endpoint in cc t after n tokens have arrived, `take` of them counted and `paid` of them owed to it: what
arrived is visible from the next cc. -/
def arriveQ (e : QEnd) (t take paid : Nat) : QEnd :=
  let again := decide (e.freshAt = t)
  { e with count := e.count + BitVec.ofNat 16 take
           out := e.out - BitVec.ofNat 16 paid
           fresh := (if again then e.fresh else 0) + BitVec.ofNat 16 take
           freshOut := (if again then e.freshOut else 0) + BitVec.ofNat 16 paid
           freshAt := t }

/-- TOKEN_ARRIVAL: the first token on its way arrives. A token beyond COUNT 65,535 is dropped and
raises QUEUE_OVERFLOW; OUT falls for every local token; an endpoint that is not bound accepts none, a LOCAL one
none from another unit, whose sender is answered with ACCESS_DENIED. -/
def execTokenArrival (c : Nat) (s : State) : Out :=
  let k := s.core c
  onUnit (decide (c < coreCount)) <|
    match k.sync.tokens with
    | [] => s
    | t :: rest =>
      let q := t.qe.toNat
      let e := qEnd k q
      let k1 : Core := { k with sync := { k.sync with tokens := rest } }
      let reply (s : State) (st : Byte) : State :=
        if t.local_ || t.notify then s
        else answer s c (coreId s c) (mkPkt 4 0 t.src 0 t.xq true []) st
      if e.bound && (t.local_ || e.isOpen) then
        let take := min t.n (65535 - e.count.toNat)
        let s1 := s.setCore c (updQ k1 q fun e => arriveQ e s.cc take (if t.local_ then t.n else 0))
        let s2 := if take < t.n then
            raiseCore s1 c cQueueOverflow (if t.local_ then some (2, t.step) else none)
          else s1
        reply s2 0
      else reply (s.setCore c k1) 2

/-! ## WAIT_LONG, BERTH_CLOSE_ACK -/

/-- WAIT_LONG (04 R91): the CWAIT at which core c waits has exceeded its OPEN endpoint's limit. -/
def execWaitLong (c : Nat) (s : State) : Out :=
  let k := s.core c
  onUnit (decide (c < coreCount)) <|
    match k.sync.waiting, k.sync.waitSince with
    | some ⟨_, _, .cwait f, _⟩, some t =>
      let e := qEnd k f.qe.toNat
      let limit := if e.limit = 0 then 250000 else e.limit.toNat
      if e.isOpen && !tokensReady k s.cc (.cwait f) && !k.sync.waitLong && decide (t + limit < s.tide.toNat) then
        raiseCore (s.setCore c { k with sync := { k.sync with waitLong := true } }) c cWaitLong (some (2, k.seq.mp))
      else s
    | _, _ => s

/-- BERTH_CLOSE_ACK (04 R97, 06 R142): the oldest drain of the berth ends once no packet accepted
before the close remains, and not before issue + 4 cc. -/
def execBerthCloseAck (c : Nat) (idx : BitVec 4) (s : State) : Out :=
  let k := s.core c
  onUnit (decide (c < coreCount)) <|
    match takeFirst (fun d : Drain => d.idx = idx) k.berths.drains with
    | none => s
    | some (d, rest) =>
      if s.cc < d.issued + 4 || k.berths.slots.any (fun l => l.idx = idx && slotGen l = d.old.gen) then s
      else
        let k1 : Core := { k with berths := { k.berths with drains := rest } }
        s.setCore c (if d.aen then tokenIn k1 (localToken d.qe 1 d.step) else k1)

/-! ## Holds (04 R106) -/

/-- The other cores of a core's voyage. -/
def othersOf (s : State) (c : Nat) : List Nat := without c (coresOf s (s.core c).misc.vid)

/-- The privileged wait at which a core waits in cc t, not yet satisfied: an RWAIT, or a BAR with HOLD. A step whose CWAIT
still lacks tokens could not issue otherwise, so it is none. -/
def privileged (k : Core) (t : Nat) : Option Bool :=
  match k.sync.waiting with
  | some ⟨_, _, o, .rwait tag⟩ => if resultReady k (.rwait tag) || !tokensReady k t o then none else some true
  | some ⟨_, _, o, .bar _ true⟩ => if tokensReady k t o then some false else none
  | _ => none

/-- HOLD: core c's privileged wait cannot issue and it sends HOLD. An RWAIT stops every core of
the partition, a BAR only those at the barrier. -/
def execHold (c : Nat) (s : State) : Out :=
  let k := s.core c
  onUnit (decide (c < coreCount)) <|
    if k.sync.holdSent || k.sync.run ≠ .running then s
    else
      match privileged k s.cc with
      | none => s
      | some all =>
        let s1 := s.setCore c { k with sync := { k.sync with holdSent := true, holdSince := s.tide.toNat } }
        let s2 := s1.updVoyage k.misc.vid.toNat fun v => { v with holds := v.holds + 1 }
        if all then
          updCores s2 (othersOf s2 c) fun o => { o with sync := { o.sync with holds := addOnce c o.sync.holds } }
        else s2

/-- The end of a hold that core c sent. -/
def endHold (s : State) (c : Nat) : State :=
  let k := s.core c
  if k.sync.holdSent then
    let s1 := s.setCore c { k with sync := { k.sync with holdSent := false } }
    let s2 := s1.updVoyage k.misc.vid.toNat fun v =>
      { v with holdTicks := v.holdTicks + BitVec.ofNat 64 (s.tide.toNat - k.sync.holdSince) }
    updCores s2 (othersOf s2 c) fun o => { o with sync := { o.sync with holds := without c o.sync.holds } }
  else s

/-- The step at which a core waits issues. -/
def issueWaiting (s : State) (c : Nat) : State :=
  let k := s.core c
  match k.sync.waiting with
  | some st => finishIssue s c k.seq.mp (issueCore k s.cc (coreId s c) (imageOf s c) (coreXY s c) st)
  | none => s

/-- RELEASE: the item for which core c holds the partition has arrived; the core issues its step
and every core resumes. -/
def execRelease (c : Nat) (s : State) : Out :=
  let k := s.core c
  onUnit (decide (c < coreCount)) <|
    if !k.sync.holdSent then s
    else
      match k.sync.waiting with
      | none => endHold s c
      | some st =>
        match st.s with
        | .rwait tag => if resultReady k (.rwait tag) && tokensReady k s.cc st.c then endHold (issueWaiting s c) c else s
        | _ => s

/-! ## Barrier (04 R107) -/

/-- The voyage that runs in a partition. -/
def runningIn (s : State) (pid : Nat) : Option (BitVec 16) :=
  (s.voyages.find? fun p => match p.2 with
    | some v => decide (v.pid = pid) && decide (v.st = vRunning || v.st = vSaving)
    | none => false).map fun p => BitVec.ofNat 16 p.1

/-- The BID at which a core waits in cc t with nothing else holding its step. -/
def bidOf (k : Core) (t : Nat) : Option (BitVec 8) :=
  match k.sync.waiting with
  | some ⟨_, _, o, .bar bid _⟩ => if k.sync.run = .running && tokensReady k t o then some bid else none
  | _ => none

/-- Every core of a list halts with SYNC_MISMATCH and the voyage ends with FAULTED. -/
def syncMismatch (s : State) (vid : BitVec 16) (l : List Nat) : State :=
  let stop (s : State) (c : Nat) : State :=
    let k := s.core c
    raiseCores (s.setCore c { k with sync := { k.sync with run := .halted, waiting := none } }) c k.seq.mp
      [(3, cSyncMismatch), (3, cCoreFault)]
  voyageFault (l.foldl stop s) vid

/-- BARRIER_RELEASE: every member waits at a BAR; equal BIDs release them all. -/
def execBarrierRelease (pid : Nat) (s : State) : Out :=
  onUnit (decide (pid < 24)) <|
    match runningIn s pid with
    | none => s
    | some vid =>
      let ms := membersOf s vid
      let bids := ms.map fun c => bidOf (s.core c) s.cc
      match bids with
      | some b :: _ =>
        if bids.any (·.isNone) then s
        else if bids.all (· = some b) then ms.foldl (fun s c => endHold (issueWaiting s c) c) s
        else syncMismatch s vid ms
      | _ => s

/-! ## Contributions (04 R108, 07 R177 R178 R180) -/

/-- The stream at a binding's T that replaces an invalid contribution (07 R178). -/
def invalidImage (t : BitVec 16) : TileImg :=
  { t := t, elems := putRange {} [] 0 (fun _ => { inv := true }) 1024 }

/-- A contribution's image as it enters its tree. -/
def entering (t : BitVec 16) (img : TileImg) : TileImg :=
  if imageValid img && img.t = t then img else invalidImage t

/-- 07 R177: 1,024 FP32 lanes as an image. -/
def fp32Image (t : BitVec 16) (lane : Nat → Word) : TileImg :=
  { t := t, nx := true, elems := putRange {} [] 0 (fun i => fp32ToElem (lane i) t.toInt) 1024 }

/-- A whole contribution comes to an input of router r. -/
def contribute (s : State) (r inp : Nat) (vid tag : BitVec 16) (round : Bool) (img : TileImg) : State :=
  s.updRouter r fun k => { k with streams := k.streams ++
    [{ tag := tag, vid := vid, inp := inp, round := round, came := 50, flits := 0, resv := none, img := img }] }

/-- Whether waiting contribution j of a core may be injected in cc t: its port is free, its issue lies 4 cc back, its tag is
not marked sent, and no earlier contribution may go first. -/
def mayContribute (k : Core) (t j : Nat) : Bool :=
  match k.sync.rsends[j]? with
  | none => false
  | some r =>
    decide (k.sync.portBusy ≤ t) && decide (r.issued + 4 ≤ t) && decide (r.tag ∉ k.sync.sent) &&
      !(k.sync.rsends.take j).any fun q => decide (q.tag ∉ k.sync.sent)

/-- The bytes of an address range as a finished job of the crane has read them; none while it reads or serves another
use. -/
def craneRead (k : Core) (u : CrUse) (a n : Nat) : Option Bytes :=
  match k.cr.crane with
  | some (v, j) => if v = u ∧ j.io.left = [] then some (lookRange 0 j.io.seen a n) else none
  | none => none

/-- The crane has finished its job. -/
def craneFree (k : Core) : Core := { k with cr := { k.cr with crane := none } }

/-- A voyage whose hard save has stopped its transfers and contributions (09 Table 9-6). -/
def quiesced (s : State) (vid : BitVec 16) : Bool :=
  match s.voyage vid.toNat with
  | some v => decide (2 ≤ v.savePhase)
  | none => false

/-- CONTRIB_INJECT: waiting contribution j of core c, whose source the crane has read, is injected. A fenced core injects
nothing (13 R327). -/
def execContribInject (c j : Nat) (s : State) : Out :=
  let k := s.core c
  onUnit (decide (c < coreCount)) <|
    match k.sync.rsends[j]? with
    | none => s
    | some r =>
      if k.misc.fenced || quiesced s k.misc.vid || !mayContribute k s.cc j then s
      else
        match findTag (imageOf s c) r.tag, craneRead k (.rsend r.issued) r.addr (rsendBytes r.kind) with
        | some b, some d =>
          let img := if r.kind then
              fp32Image b.t (fun i => BitVec.ofNat 32 (leNat ((d.drop (4 * i)).take 4)))
            else entering b.t (imageIn fun i => d.getD i 0)
          let k1 : Core := { craneFree k with
            sync := { k.sync with rsends := dropAt k.sync.rsends j, sent := k.sync.sent ++ [r.tag]
                                  portBusy := s.cc + (if r.kind then 100 else 0) }
            seq := { k.seq with haz := k.seq.haz.filter fun h => !(h.rsend == some r.issued) } }
          contribute (s.setCore c k1) c 0 k.misc.vid r.tag (decide (r.tag ∈ k.sync.round)) img
        | _, _ => s

end Sys2Proof.Machine
end

