-- ==== Sys2Proof/Machine/Crane.lean ====
section
/-! DEFINITION. The crane: translation (07 R168, 09 R220 R221), injection (04 R83 R86), answers, landings, resends (07 R161) and completion (04 R86 R87). -/

namespace Sys2Proof.Machine

open Sys2Proof

/-! ## Translation -/

/-- The die translation cache entry of unit u's die for an endpoint and epoch (07 R168 R171). -/
def cacheLook (s : State) (u : Nat) (ep : BitVec 21) (epoch : BitVec 2) : Option Nat :=
  (s.fabric.caches.find? fun c => c.1 = strapOf s u && c.2.1 = ep.toNat && c.2.2.1 = epoch).map fun c => c.2.2.2.toNat

/-- The bank that serves translations of an epoch. -/
def bankOfEpoch (s : State) (epoch : BitVec 2) : Nat := if epoch.toNat = ettEpoch s then ettBank s else 1 - ettBank s

/-- The cache of unit u's die takes an entry; it holds 4,096, the oldest leaves. -/
def cacheFill (s : State) (u : Nat) (ep : BitVec 21) (epoch : BitVec 2) : State :=
  let die := strapOf s u
  let e := BitVec.ofNat 64 (ettIn s (bankOfEpoch s epoch) ep.toNat)
  let others := s.fabric.caches.filter fun c => !(c.1 = die && c.2.1 = ep.toNat)
  let full := decide (4096 ≤ (others.filter fun c => c.1 = die).length)
  let kept := if full then (match takeFirst (fun c => decide (c.1 = die)) others with | some (_, r) => r | none => others) else others
  { s with fabric := { s.fabric with caches := kept ++ [(die, ep.toNat, epoch, e)] } }

/-- A voyage's map entry of a segment index. -/
def mapEnt (s : State) (vid : BitVec 16) (i : Nat) : Option MapEnt :=
  match s.voyage vid.toNat with
  | some v => v.img.segmap[i]?
  | none => none

/-- 09 R220: the checks of a segment reference, before any byte moves. -/
def segCheck (s : State) (vid : BitVec 16) (i : Nat) (write : Bool) (off len : Nat) : Nat :=
  match mapEnt s vid i with
  | none => 5
  | some e =>
    let r := s.seg e.sid.toNat
    if (write && !e.wr) || (!write && !e.rd) || (write && r.readOnly) then 5
    else if r.len < off + len then 3
    else 0

/-- The state of the Link IDE stream: whether it is Secure (14 R372). -/
def ideSecure (s : State) : Bool := s.sec.ideSet.isSome

/-- 10 R244: the checks of a host window reference. -/
def hostCheck (s : State) (vid : BitVec 16) (i : Nat) (write : Bool) (off len : Nat) : Nat :=
  match s.voyage vid.toNat with
  | none => 3
  | some v =>
    match v.img.wins[i]? with
    | none => 3
    | some w =>
      if w.len.toNat < off + len then 3
      else if (write && !w.wr) || (!write && !w.rd) || (w.reqIde && !ideSecure s) then 2
      else 0

/-- What the crane finds when it turns to an entry. -/
inductive Take where
  | wait
  | fail (status : Nat)
  | go (e : CraneEntry)
  deriving DecidableEq, Repr

/-- 07 R168: judges a translation of a push, a BERTH or a QUAY target. -/
def judge (s : State) (e : CraneEntry) (ett : Nat) : Take :=
  let ok : Take := .go { e with translated := true, ett := BitVec.ofNat 64 ett }
  let quay := !e.push && dTgt e.desc = 3
  match ett % 4 with
  | 1 =>
    let u := localUnit ett
    let serves := if e.push then decide (u < 5184) else if quay then decide (5184 ≤ u) && decide (u < 5264)
      else decide (u < 5184) || decide (5313 ≤ u)
    if !serves || noWay s u then .fail 6 else ok
  | 2 => ok
  | 3 => if e.push || quay || dOp e.desc ≠ 1 then .fail 6 else ok
  | _ => .fail 6

/-- The endpoint that an entry names. -/
def entryEp (e : CraneEntry) : BitVec 21 := if e.push then e.ep else dEp e.desc

/-- Translates an entry that has been taken (04 R85, 07 R168, 09 R220, 10 R244). -/
def takeEntry (s : State) (c : Nat) (e : CraneEntry) : Take :=
  let vid := (s.core c).misc.vid
  let d := e.desc
  if e.translated then .go e
  else if e.push && e.ep = coreId s c then .go { e with translated := true }
  else if !e.push && descInvalid d then .fail 7
  else if e.push || dTgt d = 0 || dTgt d = 3 then
    match cacheLook s c (entryEp e) e.epoch with
    | none => .wait
    | some x => judge s e x
  else
    let st := if dTgt d = 1 then segCheck s vid (dRef d) (dOp d = 1) (dRaddr d) (dLen d)
      else hostCheck s vid (dRef d) (dOp d = 1) (dRaddr d) (dLen d)
    if st = 0 then .go { e with translated := true } else .fail st

/-- A segment translation in a core's cache (09 R221). -/
def segHit (k : Core) (i : Nat) : Option SegTr := (k.crane.segCache.find? fun p => p.1 = i).map (·.2)

/-- A crane's cache takes a translation; it holds 32, the oldest leaves. -/
def segFill (k : Core) (i : Nat) (t : SegTr) : Core :=
  let l := k.crane.segCache.filter fun p => p.1 ≠ i
  { k with crane := { k.crane with segCache := (if l.length ≥ 32 then l.drop 1 else l) ++ [(i, t)] } }

/-- The translation that a record gives, if it serves one. -/
def segTr (r : SegRec) : Option SegTr := if r.st = 1 then some { tierB := r.tierB, mem := r.mem, base := r.base } else none

/-! ## Queues -/

def queueOf (k : Core) (q : Nat) : List CraneEntry := look [] k.crane.queues q

/-- Replaces entry j of a queue. -/
def putEntry (k : Core) (q j : Nat) (e : CraneEntry) : Core :=
  { k with crane := { k.crane with queues := upd [] k.crane.queues q fun l => l.set j e } }

/-- Packets of an entry. -/
def entryCount (e : CraneEntry) : Nat := if e.push then 1 else dCount e.desc

/-- An entry that injects no more. -/
def entrySent (e : CraneEntry) : Bool := e.ended || (e.translated && decide (entryCount e ≤ e.next))

/-- The place in its queue of the entry whose packets are injected: entries start in issue order, each when
the one before it injects no more (04 R83, log entry 21). -/
def curIdx (l : List CraneEntry) : Nat := (l.takeWhile entrySent).length

/-- The entry of queue q whose packets are injected, with its place. -/
def curOf (k : Core) (q : Nat) : Option (Nat × CraneEntry) :=
  let l := queueOf k q
  (l[curIdx l]?).map fun e => (curIdx l, e)

/-- The open packet of an entry that a PIDX names. -/
def openOf (e : CraneEntry) (pidx : BitVec 10) : Option Nat := e.open_.find? fun i => i % 1024 = pidx.toNat

/-- Packets of a queue without acknowledgement. -/
def queueOpen (l : List CraneEntry) : List Nat := l.flatMap (·.open_)

/-- Whether a packet number's PIDX names a packet of the queue that has no acknowledgement (07 R159). -/
def pidxTaken (l : List CraneEntry) (i : Nat) : Bool := (queueOpen l).any fun j => decide (j % 1024 = i % 1024)

/-- The first entry of a list that satisfies f, with its place. -/
def entryWhere (f : CraneEntry → Bool) (l : List CraneEntry) : Option (Nat × CraneEntry) :=
  (l.findIdx? f).bind fun j => (l[j]?).map fun e => (j, e)

/-- Whether an answer is that of an open packet of an entry: QDONE of a command, else by PIDX. -/
def answers (p : Packet) (e : CraneEntry) : Bool :=
  if p.ty = 6 then !e.push && dOp e.desc = 3 && decide (e.open_ ≠ [])
  else (openOf e (if e.push then 0 else pidxOf p)).isSome

/-- The entry whose packet an answer is for, with its place. -/
def holderOf (k : Core) (p : Packet) : Option (Nat × CraneEntry) := entryWhere (answers p) (queueOf k p.xq.toNat)

/-- Offset and length of packet i. -/
def pktOff (e : CraneEntry) (i : Nat) : Nat := i * dSize e.desc
def pktLen (e : CraneEntry) (i : Nat) : Nat := min (dSize e.desc) (dLen e.desc - pktOff e i)

/-! ## Injection (04 R83 R86 R88, 07 R159) -/

/-- REF of packet i of an entry (07 Table 7-6); a SEGMENT offset counts from the memory's byte 0. -/
def pktRef (e : CraneEntry) (i segBase : Nat) : Nat :=
  let d := e.desc
  let off := dRaddr d + pktOff e i
  let p := i % 1024
  if e.push then e.qe.toNat + 8 * (e.n - 1)
  else match dTgt d with
    | 0 => dRef d % 4096 + (off % 2 ^ 23) * 2 ^ 12 + b2n (dNotify d && i + 1 = dCount d) * 2 ^ 35 + p * 2 ^ 36
    | 1 => (segBase + off) % 2 ^ 38 + p * 2 ^ 38
    | 2 => dRef d % 16 + (off % 2 ^ 34) * 16 + p * 2 ^ 38
    | _ => dRef d + p * 2 ^ 16

/-- Whether packet i of an entry carries bytes of Tier S. -/
def carries (e : CraneEntry) : Bool := !e.push && decide (dOp e.desc ≠ 2)

/-- Packet i of an entry with its payload. -/
def entryPkt (s : State) (c q : Nat) (e : CraneEntry) (i segBase : Nat) (dst : BitVec 21) (body : Bytes) : Packet :=
  let ty : Nat := if e.push then 4 else match dOp e.desc with | 1 => 0 | 2 => 1 | _ => 5
  let p := { mkPkt ty dst (coreId s c) (pktRef e i segBase) (BitVec.ofNat 3 q) (i = 0) body with xid := e.issued }
  if !e.push && dOp e.desc = 2 then { p with len := BitVec.ofNat 7 (pktLen e i / 64) } else p

/-- Packet i of a translated entry, with the unit that it goes to or as a multicast; none where no port leads to its
target (07 R169) or its segment is not in the crane's cache. -/
def outPkt (s : State) (c q : Nat) (e : CraneEntry) (i : Nat) (body : Bytes) : Option Packet :=
  let d := e.desc
  let ep := entryEp e
  if !e.push && dTgt d = 1 then
    (segHit (s.core c) (dRef d)).map fun t =>
      let u := memUnit (memOf t.tierB t.mem)
      { entryPkt s c q e i t.base (homeId s u) body with unit := u }
  else if !e.push && dTgt d = 2 then
    some { entryPkt s c q e i 0 (homeId s harbourUnit) body with unit := harbourUnit }
  else
    let p := entryPkt s c q e i 0 ep body
    let x := e.ett.toNat
    match x % 4 with
    | 1 => some { p with unit := localUnit x }
    | 2 => (egress s x p.src p.dst p.xq).map fun o => { p with unit := portUnit o, vcx := bitOf x 4 }
    | _ => some { p with dunit := 7, dx := BitVec.ofNat 7 (bits x 2 7), dy := BitVec.ofNat 7 (bits x 16 7),
                         dst := BitVec.ofNat 21 (bits x 9 7 + 128 * bits x 23 7) }

/-- A packet of core c enters the fabric. -/
def sendOut (s : State) (c : Nat) (epoch : Nat) (p : Packet) : State :=
  if p.dunit = 7 then injectMcast s c (mcastRect p) epoch p else inject s c p.unit epoch p

/-- The status of an entry so far: the first that is not OK stands. -/
def firstBad (a b : Byte) : Byte := if a = 0 then b else a

/-- An entry after its packet `next` with a payload was sent as p, or found no way to its target. -/
def afterSend (e : CraneEntry) (body : Bytes) (sent : Option Packet) : CraneEntry :=
  let i := e.next
  let ck0 := if i = 0 then checkInit (dCk e.desc) (dRaddr e.desc) (dSeq e.desc) else e.ck
  { e with next := i + 1
           open_ := if sent.isSome then e.open_ ++ [i] else e.open_
           copies := match sent with | some p => e.copies ++ [(i, p)] | none => e.copies
           status := if sent.isSome then e.status else firstBad e.status 6
           ck := if carries e && dCk e.desc ≠ 0 then checkRun (dCk e.desc) ck0 body
                 else if i = 0 then ck0 else e.ck }

/-- The source bytes of packet `next`: address and number. -/
def srcOf (e : CraneEntry) : Nat × Nat := (dAddr e.desc + pktOff e e.next, pktLen e e.next)

/-- Whether a write entry of the hazards covers source bytes of packet `next` (05 R120). -/
def srcHeld (s : State) (k : Core) (e : CraneEntry) : Bool :=
  let (a, n) := srcOf e
  carries e && (liveHaz k s.cc).any fun h => h.2.2 && overlap (a, a + n - 1) (h.1, h.2.1)

/-- What the crane may do with a queue. -/
inductive Turn where
  /-- Nothing now. -/
  | wait
  /-- The queue changes without a packet. -/
  | change (k : Core)
  /-- The next packet of entry j, translated, may be injected once its payload has been read. -/
  | send (j : Nat) (e : CraneEntry)

/-- What the crane may do with queue q now. A push waits until every earlier entry has completed (04 R93); a queue has
at most 64 packets without acknowledgement, and PIDX tells them apart (07 R159). -/
def craneTurn (s : State) (c q : Nat) : Turn :=
  let k := s.core c
  match curOf k q with
  | none => .wait
  | some (j, e) =>
    if e.suspended || (e.push && decide (j ≠ 0)) || (!e.push && decide (s.cc < e.issued + 3)) then .wait
    else
      match takeEntry s c e with
      | .wait => .wait
      | .fail st => .change (putEntry k q j { e with ended := true, status := BitVec.ofNat 8 st })
      | .go e1 =>
        if e1.push && e1.ep = coreId s c then
          .change (tokenIn (putEntry k q j { e1 with next := 1, ended := true }) (localToken e1.qe e1.n e1.step))
        else if decide (64 ≤ (queueOpen (queueOf k q)).length) || pidxTaken (queueOf k q) e1.next ||
          (!e1.push && decide (s.cc < e1.issued + 8)) || srcHeld s k e1 then .wait
        else if !e1.push && dTgt e1.desc = 1 && (segHit k (dRef e1.desc)).isNone then
          (if e.translated then .wait else .change (putEntry k q j e1))
        else .send j e1

/-- The payload of packet `next` of queue q, once the crane has read it. -/
def bodyOf (k : Core) (q : Nat) (e : CraneEntry) : Option Bytes :=
  if carries e then craneRead k (.inject (BitVec.ofNat 3 q) e.issued e.next) (srcOf e).1 (srcOf e).2 else some []

/-- What becomes of the state when the crane turns to queue q; none where it waits. -/
def craneAct (s : State) (c q : Nat) : Option State :=
  match craneTurn s c q with
  | .wait => none
  | .change k => some (s.setCore c k)
  | .send j e =>
    match bodyOf (s.core c) q e with
    | none => none
    | some body =>
      let k := if carries e then craneFree (s.core c) else s.core c
      match outPkt s c q e e.next body with
      | some p => some ((sendOut (s.setCore c k) c e.epoch.toNat p).updCore c fun k => putEntry k q j (afterSend e body (some p)))
      | none => some (s.setCore c (putEntry k q j (afterSend e body none)))

/-- The first queue from `rr` on in which the crane can act. -/
def craneServe (s : State) (c rr : Nat) : Option (Nat × State) :=
  ((List.range 8).filterMap fun i => let q := (rr + i) % 8; (craneAct s c q).map fun t => (q, t)).head?

/-- Whether the crane of core c injects: not in a fenced or dark core, nor once its voyage's transfers have been stopped. -/
def craneRuns (s : State) (c : Nat) : Bool :=
  let k := s.core c
  !(k.misc.fenced || darkAt s c || quiesced s k.misc.vid || k.misc.scrubbing)

/-- CRANE_PACKET_INJECT: the crane of core c serves its queues round-robin, one packet at a time. -/
def execCranePacketInject (c : Nat) (s : State) : Out :=
  onUnit (decide (c < coreCount)) <|
    if !craneRuns s c then s
    else
      match craneServe s c (s.core c).crane.rr.toNat with
      | none => s
      | some (q, s1) => s1.updCore c fun k => { k with crane := { k.crane with rr := BitVec.ofNat 3 (q + 1) } }

/-! ## Lookups -/

/-- The die's cache of a core takes the ETT entry that queue q waits for. -/
def fillCrane (s : State) (c q : Nat) : State :=
  match curOf (s.core c) q with
  | none => s
  | some (_, e) => if e.next ≠ 0 then s
    else match takeEntry s c e with
      | .wait => cacheFill s c (entryEp e) e.epoch
      | _ => s

/-- SEG_LOOKUP_FILL: the record answers the miss of queue q; a segment that is not
RESIDENT suspends the transfer and FAULT goes to the harbour master (09 R221 R223). -/
def execSegLookupFill (c : Nat) (q : BitVec 3) (s : State) : Out :=
  let k := s.core c
  onUnit (decide (c < coreCount)) <| if s.hm.hung.isSome then s else
    match curOf k q.toNat with
    | none => s
    | some (j, e) =>
      if e.push || dTgt e.desc ≠ 1 || !e.translated || (segHit k (dRef e.desc)).isSome then s
      else
        match mapEnt s k.misc.vid (dRef e.desc) with
        | none => s
        | some m =>
          match segTr (s.seg m.sid.toNat) with
          | some t =>
            let s1 := if e.suspended then countFault s k.misc.vid e.faultTick else s
            s1.setCore c (segFill (putEntry k q.toNat j { e with suspended := false }) (dRef e.desc) t)
          | none =>
            if e.suspended then s
            else
              ((s.setCore c (putEntry k q.toNat j { e with suspended := true, faultTick := s.tide.toNat })).updVoyage
                k.misc.vid.toNat fun v => { v with faults := v.faults + 1 }).updSeg m.sid.toNat fun r => { r with faulted := true }

/-! ## Answers -/

/-- Packet i of an entry is answered. -/
def answered (e : CraneEntry) (i : Nat) : CraneEntry :=
  { e with open_ := without i e.open_, copies := e.copies.filter fun x => x.1 ≠ i }

/-- An ACK or QDONE reaches a crane. -/
def takeAck (k : Core) (p : Packet) : Core :=
  let q := p.xq.toNat
  match holderOf k p with
  | none => k
  | some (j, e) =>
    if p.ty = 6 then
      putEntry k q j { e with open_ := [], copies := [], status := firstBad e.status (statusOf p)
                              done := if statusOf p = 0 then dLen e.desc else 0 }
    else
      match openOf e (if e.push then 0 else pidxOf p) with
      | none => k
      | some i =>
        let good := statusOf p = 0 && e.status = 0
        putEntry k q j
          { answered e i with
                   status := firstBad e.status (statusOf p)
                   done := if good && !e.push && dOp e.desc = 1 then e.done + pktLen e i else e.done }

/-- The entry, its place and the packet number that a response is for. -/
def rspFor (k : Core) (p : Packet) : Option (Nat × CraneEntry × Nat) :=
  (holderOf k p).bind fun x => (openOf x.2 (pidxOf p)).map fun i => (x.1, x.2, i)

/-- Whether the data of a response may land now: the lowest open packet of its transfer, and no
hazard entry over its range (04 R86, 05 R120). -/
def canLand (s : State) (k : Core) (p : Packet) : Bool :=
  match rspFor k p with
  | none => true
  | some (_, e, i) =>
    let a := dAddr e.desc + pktOff e i
    e.open_.all (i ≤ ·) && !(liveHaz k s.cc).any fun h => overlap (a, a + pktLen e i - 1) (h.1, h.2.1)

/-- Whether the data of a response lands: after a packet that was refused, later data does not. -/
def landsData (k : Core) (p : Packet) : Bool :=
  match rspFor k p with
  | none => false
  | some (_, e, _) => firstBad e.status (statusOf p) = 0

/-- The job of the crane that writes a response's data. -/
def landUse (p : Packet) : CrUse := .land p.xq (pidxOf p)

/-- Whether the data of a response, if it lands, has been written into Tier S. -/
def hasLanded (k : Core) (p : Packet) : Bool :=
  !landsData k p || match k.cr.crane with
    | some (u, j) => decide (u = landUse p) && decide (j.io.left = [])
    | none => false

/-- The crane's account of a response whose data has landed, or does not land. -/
def landRsp (k : Core) (p : Packet) : Core :=
  match rspFor k p with
  | none => k
  | some (j, e, i) =>
    let e1 := { answered e i with status := firstBad e.status (statusOf p) }
    if landsData k p then
      let data := slice p.payload 0 (pktLen e i)
      putEntry (craneFree k) p.xq.toNat j
        { e1 with done := e.done + data.length
                  ck := if dCk e.desc = 0 then e.ck else checkRun (dCk e.desc) e.ck data }
    else putEntry k p.xq.toNat j e1

/-- READ_RESPONSE_LANDING: data of a crane READ has been written into Tier S. -/
def execReadResponseLanding (c : Nat) (s : State) : Out :=
  let k := s.core c
  onUnit (decide (c < coreCount)) <|
    match takeFirst (fun p => canLand s k p && hasLanded k p) k.crane.rsp with
    | none => s
    | some (p, rest) => s.setCore c (landRsp { k with crane := { k.crane with rsp := rest } } p)

/-- A packet is sent again as it was injected (07 R161). A multicast packet goes to the members that have not got it: the one that has
found it bad, or those of the branch that the NAK names (Deliver.nakPkt). -/
def resend (s : State) (u : Nat) (nak p : Packet) : State :=
  if p.dunit = 7 then
    match unitOfId s nak.src with
    | some r => toMembers s u p (if nak.xid = 0 then [r] else branchCores p r (nak.xid - 1))
    | none => s
  else inject s u p.unit p.epoch.toNat p

/-- NAK_RECEIVED: the packet is sent again, up to 3 times; then the transfer completes with
UNCORRECTABLE and RESEND_FAIL is raised (07 R161). -/
def execNakReceived (c : Nat) (s : State) : Out :=
  let k := s.core c
  onUnit (decide (c < coreCount)) <|
    match k.crane.naks with
    | [] => s
    | p :: rest =>
      let k1 : Core := { k with crane := { k.crane with naks := rest } }
      let s1 := s.setCore c k1
      let q := p.xq.toNat
      match rspFor k1 p with
      | none => s1
      | some (j, e, i) =>
        if (e.resends.filter (· = i)).length < 3 then
          let s2 := s1.setCore c (putEntry k1 q j { e with resends := e.resends ++ [i] })
          match e.copies.find? fun x => x.1 = i with
          | some (_, x) => resend s2 c p x
          | none => s2
        else
          raiseFab (dropJoin (s1.setCore c (putEntry k1 q j { answered e i with status := 8, ended := true })) p.dst p.xq (pidxOf p)) 4 { unit := c }

/-- A host-window read with a packet that is not answered. -/
def readsHost (e : CraneEntry) : Bool := !e.push && dTgt e.desc = 2 && dOp e.desc = 2 && decide (e.open_ ≠ [])

/-- HOSTWIN_FAIL (10 R245): the oldest open packet of a host-window read of queue q is answered with
UNREACHABLE and HOSTWIN_FAIL is raised. -/
def execHostwinFail (c : Nat) (q : BitVec 3) (s : State) : Out :=
  let k := s.core c
  onUnit (decide (c < coreCount)) <|
    match entryWhere readsHost (queueOf k q.toNat) with
    | none => s
    | some (j, e) =>
      match e.open_ with
      | [] => s
      | i :: _ => raisePcie (s.setCore c (putEntry k q.toNat j { answered e i with status := firstBad e.status 6 })) 3
          { unit := c, vid := k.misc.vid }

/-! ## Completion (04 R86 R87 R88) -/

/-- An entry whose packets are all answered and that injects no more. -/
def entryDone (e : CraneEntry) : Bool :=
  decide (e.open_ = []) && entrySent e

/-- The final status and check value of an entry. -/
def entryEnd (e : CraneEntry) : Byte × Nat :=
  let d := e.desc
  if e.status ≠ 0 || e.push || dCk d = 0 then (e.status, 0)
  else
    let v := (checkEnd (dCk d) e.ck).toNat
    if dCmp d && decide (v ≠ dExpect d) then (4, v) else (0, v)

/-- A queue's error record after a completion in cc t (04 R87 R94). -/
def noteErr (k : Core) (q t : Nat) (st : Byte) (seq : BitVec 16) : Core :=
  if st = 0 then k
  else
    let new : CErr := { status := st, count := 1, seq := seq }
    let last := look (0, {}) k.crane.cerrNew q
    if last.1 = t then { k with crane := { k.crane with cerrNew := put (0, {}) k.crane.cerrNew q (t, joinErr last.2 new) } }
    else { k with crane := { k.crane with cerr := put {} k.crane.cerr q (cerrAll k q)
                                          cerrNew := put (0, {}) k.crane.cerrNew q (t, new) } }

/-- Whether entry j of a queue may complete: it is done, and one whose descriptor is invalid is the oldest (04 R85). -/
def mayEnd (l : List CraneEntry) (j : Nat) : Bool :=
  match l[j]? with
  | none => false
  | some e => entryDone e && (e.status ≠ 7 || decide (j = 0))

/-- The first entry of a queue that may complete, with its place. -/
def endingOf (l : List CraneEntry) : Option (Nat × CraneEntry) :=
  ((List.range l.length).find? (mayEnd l)).bind fun j => (l[j]?).map fun e => (j, e)

/-- Raises what a completion raises (04 Table 4-1, 07 Table 7-13). -/
def raiseEnd (s : State) (c : Nat) (e : CraneEntry) (st : Byte) : State :=
  if st = 0 then s
  else
    let s1 := raiseCore s c cCraneErr (some (2, e.step))
    let s2 := if st = 4 then raiseCore s1 c cCheckMismatch (some (2, e.step)) else s1
    if st = 6 then raiseFab s2 6 { unit := c, vid := (s.core c).misc.vid } else s2

/-- TRANSFER_COMPLETE: the first entry of queue q that may complete does: its status record is written,
then its token delivered, and its error recorded. A transfer that ends UNCORRECTABLE makes a
replay due (04 R86). -/
def execTransferComplete (c : Nat) (q : BitVec 3) (s : State) : Out :=
  let k := s.core c
  onUnit (decide (c < coreCount)) <|
    match endingOf (queueOf k q.toNat) with
    | none => s
    | some (j, e) =>
      let (st, ck) := entryEnd e
      let k0 := noteErr k q.toNat s.cc st (dSeq e.desc)
      let k1 : Core := { k0 with crane := { k0.crane with queues := upd [] k0.crane.queues q.toNat (dropAt · j) } }
      let k2 := if e.wb then
          spadWrite k1 (e.addr + 40) ([st] ++ zeros 3 ++ leBytes 4 e.done ++ leBytes 8 ck ++ zeros 8)
        else k1
      let k3 := if !e.push && dQen e.desc then tokenIn k2 (localToken (dQe e.desc) 1 e.step) else k2
      let s1 := raiseEnd (s.setCore c k3) c e st
      if st = 8 then dueReplay s1 k.misc.vid 4 else s1

end Sys2Proof.Machine
end

