-- ==== Sys2Proof/Machine/Berths.lean ====
section
/-! DEFINITION. The berth port (06 R131 R138 to R142), Tier S errors and patrol (06 R132 R133 R135), and the scrub of a core (06 R145 to R148). -/

namespace Sys2Proof.Machine

open Sys2Proof

/-! ## Arrival, landing, reads -/

/-- Fields of a berth packet (07 Table 7-6). -/
def berthIdx (p : Packet) : Nat := p.ref.toNat % 16
def berthOff (p : Packet) : Nat := bits p.ref.toNat 12 23
def berthNotify (p : Packet) : Bool := bitOf p.ref.toNat 35

/-- Bytes that a packet writes or asks for. -/
def pktBytes (p : Packet) : Nat := if p.ty = 1 then 64 * p.len.toNat else p.payload.length

/-- The generation that a berth packet names (07 Table 7-6). -/
def genOf (p : Packet) : Byte := BitVec.ofNat 8 (p.ref.toNat / 16)

/-- The record under which a header for berth i is checked in cc t: in the issue cc of a BCLOSE and the next the berth as it
stood before (06 R142), else as it stands. -/
def recordFor (k : Core) (i t : Nat) : Berth :=
  match k.berths.drains.find? fun d => decide (d.idx.toNat = i) && d.old.isOpen && decide (t = d.issued ∨ t = d.issued + 1) with
  | some d => d.old
  | none => berthOf k i

/-- Whether a berth accepts headers under its record in cc t: open, from two cc after BOPEN (06 R141). -/
def berthTakes (b : Berth) (t : Nat) : Bool := b.isOpen && decide (b.acceptFrom ≤ t)

/-- 06 Table 6-7: the status of the first check that fails, 0 if none does. -/
def berthCheck (k : Core) (img : Image) (cc : Nat) (p : Packet) : Nat :=
  let b := recordFor k (berthIdx p) cc
  if !berthTakes b cc || genOf p ≠ b.gen then 1
  else if !(match img.sources[b.src.toNat]? with
      | some (lo, hi) => decide (lo.toNat ≤ p.src.toNat) && decide (p.src.toNat ≤ hi.toNat)
      | none => false) then 2
  else if (p.ty = 0 && !b.wr) || (p.ty = 1 && !b.rd) then 2
  else if p.ty = 0 && berthNotify p && !b.nen then 2
  else if b.len.toNat < berthOff p + pktBytes p then 3
  else 0

/-- The status that a transfer has already been refused with. -/
def refusedWith (k : Core) (p : Packet) : Option Byte :=
  (k.berths.refused.find? fun r => r.1 = p.src && r.2.1 = p.xq && r.2.2.1 = p.xid).map (·.2.2.2)

/-- The status of the first header at the berth port: that of its transfer if it has been refused, else of its check. -/
def arrivalStatus (k : Core) (img : Image) (cc : Nat) (p : Packet) : Nat :=
  match refusedWith k p with
  | some st => st.toNat
  | none => berthCheck k img cc p

/-- BERTH_PACKET_ARRIVAL: the first header at the berth port is checked. It waits while the 8 slots
of the landing buffer are held; a refused packet refuses the rest of its transfer. -/
def execBerthPacketArrival (c : Nat) (s : State) : Out :=
  let k := s.core c
  onUnit (decide (c < coreCount)) <|
    match k.berths.arrivals with
    | [] => s
    | p :: rest =>
      if 8 ≤ k.berths.slots.length then s
      else
        let k1 : Core := { k with berths := { k.berths with arrivals := rest } }
        let st := arrivalStatus k (imageOf s c) s.cc p
        if st ≠ 0 then
          let k2 : Core := { k1 with berths := { k1.berths with
            refused := addOnce (p.src, p.xq, p.xid, BitVec.ofNat 8 st) k1.berths.refused } }
          answer (s.setCore c k2) c (coreId s c) p (BitVec.ofNat 8 st)
        else
          let b := recordFor k (berthIdx p) s.cc
          let slot : LandSlot := { idx := BitVec.ofNat 4 (berthIdx p), addr := b.base.toNat + berthOff p, pkt := p,
                                   notify := p.ty = 0 && berthNotify p, qe := b.qe }
          s.setCore c { k1 with berths := { k1.berths with slots := k1.berths.slots ++ [slot] } }

/-- The oldest slot is free, and the berth port may turn to the next. -/
def freeSlot (k : Core) : Core :=
  { k with berths := { k.berths with slots := k.berths.slots.drop 1 }, cr := { k.cr with berth := none } }

/-- The NOTIFY token of a packet that has landed goes on its way. -/
def notifySlot (k : Core) (l : LandSlot) : Core :=
  if l.notify then tokenIn k { qe := l.qe, n := 1, local_ := false, notify := true, step := 0, src := l.pkt.src, xq := l.pkt.xq, pidx := 0 }
  else k

/-- Whether the berth port has made every access of the oldest slot. -/
def berthDone (k : Core) : Option CrJob :=
  match k.cr.berth with
  | some j => if j.io.left = [] then some j else none
  | none => none

/-- The data of a read request goes back to its source (06 R140). -/
def readBack (s : State) (c : Nat) (l : LandSlot) (data : Bytes) : State :=
  sendBack s c (mkPkt 2 l.pkt.src (coreId s c) (256 * (pidxOf l.pkt).toNat) l.pkt.xq false data)

/-- BERTH_PACKET_LANDING: the oldest slot, a write, has landed; its sender is answered. -/
def execBerthPacketLanding (c : Nat) (s : State) : Out :=
  let k := s.core c
  onUnit (decide (c < coreCount)) <|
    match k.berths.slots, berthDone k with
    | l :: _, some _ =>
      if l.pkt.ty ≠ 0 then s else answer (s.setCore c (notifySlot (freeSlot k) l)) c (coreId s c) l.pkt 0
    | _, _ => s

/-- BERTH_READ_SERVE: the oldest slot, a read request, has been read. -/
def execBerthReadServe (c : Nat) (s : State) : Out :=
  let k := s.core c
  onUnit (decide (c < coreCount)) <|
    match k.berths.slots, berthDone k with
    | l :: _, some j =>
      if l.pkt.ty ≠ 1 then s else readBack (s.setCore c (freeSlot k)) c l (lookRange 0 j.io.seen l.addr (pktBytes l.pkt))
    | _, _ => s

/-! ## Errors (06 R132 R133) and patrol (06 R135) -/

/-- The row of a bank that holds a byte (06 Table 6-1). -/
def rowOf (a : Nat) : Nat := 1024 * bankOf a + a / 2 ^ 13

/-- An uncorrectable word is recorded with its voyage; a second one in a row of a core within the voyage marks the core
failed. -/
def noteUe (s : State) (c a : Nat) : State :=
  let vid := (s.core c).misc.vid.toNat
  match s.voyage vid with
  | none => s
  | some v =>
    if (c, rowOf a) ∈ v.ueRows then failCore s c
    else s.setVoyage vid (some { v with ueRows := v.ueRows ++ [(c, rowOf a)] })

/-- The entry of queue q for which the crane reads Tier S: the one it injects, else the oldest one. -/
def readerOf (k : Core) (q : Nat) : Option (Nat × CraneEntry) :=
  match curOf k q with
  | some x => some x
  | none => ((queueOf k q)[0]?).map fun e => (0, e)

/-- What an uncorrectable word does to its reader (06 Table 6-3). -/
def ueReader (s : State) (c a : Nat) (by_ : UeReader) : State :=
  let k := s.core c
  let vid := k.misc.vid
  match by_ with
  | .manifest v step =>
    let s1 := raiseCore s c cSpadUe (some (b2n v, step))
    let s2 := s1.updCore c fun k =>
      { k with seq := { k.seq with pend := [] }
               sync := { k.sync with run := if k.sync.run = .running then .stopped else k.sync.run } }
    dueReplay s2 vid 3
  | .crane q =>
    match readerOf k q.toNat with
    | none => raiseCore s c cSpadUe none
    | some (j, e) =>
      let s1 := raiseCore s c cSpadUe (some (2, e.step))
      dueReplay (s1.updCore c fun k => putEntry k q.toNat j { e with ended := true, status := firstBad e.status 8 }) vid 3
  | .rsend j =>
    match k.sync.rsends[j]? with
    | none => raiseCore s c cSpadUe none
    | some r =>
      let s1 := raiseCore s c cSpadUe (some (3, r.step))
      dueReplay (s1.updCore c fun k =>
        { k with sync := { k.sync with rsends := dropAt k.sync.rsends j }
                 seq := { k.seq with haz := k.seq.haz.filter fun h => !(h.rsend == some r.issued) } }) vid 3
  | .remote =>
    let s1 := raiseCore s c cSpadUe none
    match takeFirst (fun l : LandSlot => l.pkt.ty = 1 && decide (l.addr ≤ a) && decide (a < l.addr + pktBytes l.pkt)) k.berths.slots with
    | none => s1
    | some (l, rest) =>
      let s2 := s1.updCore c fun k => { k with berths := { k.berths with slots := rest }
                                               cr := { k.cr with berth := if k.berths.slots.head? = some l then none else k.cr.berth } }
      dueReplay (answer s2 c (coreId s c) l.pkt 8) vid 3
  | .patrol => raiseCore s c cSpadUe none

/-- SPAD_UE: a word of Tier S reads uncorrectable. -/
def execSpadUe (c addr : Nat) (by_ : UeReader) (s : State) : Out :=
  onUnit (decide (c < coreCount) && decide (addr < spadSize)) (noteUe (ueReader s c addr by_) c addr)

/-- A correctable error of the word at byte address a: it is counted and due to be written back. -/
def correct (s : State) (c a : Nat) : State :=
  raiseCore (s.updCore c fun k =>
    { k with regs := { k.regs with ceCount := satAdd32 k.regs.ceCount 1 }
             misc := { k.misc with writebacks := addOnce a k.misc.writebacks } }) c cSpadCe none

/-- Whether a bank had no access in the cc that has ended. -/
def bankIdle (k : Core) (bank : Nat) : Bool := !(k.cr.made.any fun p => p.1 = bank)

/-- Tier S accesses in the cc that has ended beside the ports'. -/
def alsoMade (k : Core) (rd : Bool) (a : Nat) : Core := { k with cr := { k.cr with made := k.cr.made ++ [madeOf rd a] } }

/-- SPAD_CORRECTION_WRITEBACK. With `found`: a read of the cc that has ended has found a correctable error in the word at that
address, which counts unless the word has been written in that cc (06 R132 R143). Without: the oldest corrected word has been
written back in that cc, in which its bank was idle; the stored value is the corrected one already. -/
def execSpadCorrectionWriteback (c : Nat) (found : Option Nat) (s : State) : Out :=
  let k := s.core c
  onUnit (decide (c < coreCount)) <|
    match found with
    | some a =>
      let w := aligned a 64
      if madeOf true w ∈ k.cr.made then
        let s1 := correct s c w
        if madeOf false w ∈ k.cr.made then s1.updCore c fun k => { k with misc := { k.misc with writebacks := without w k.misc.writebacks } }
        else s1
      else s
    | none =>
      match k.misc.writebacks with
      | [] => s
      | a :: rest =>
        if bankIdle k (bankOf a) then s.setCore c (alsoMade { k with misc := { k.misc with writebacks := rest } } false a)
        else s

/-- The byte address of word w of a bank (06 Table 6-1). -/
def wordAddr (bank w : Nat) : Nat := 2048 * w + 64 * Nat.xor bank (w / 128)

/-- SPAD_PATROL: the patrol has read the bank's next word in the cc that has ended, if no other access met the bank. -/
def execSpadPatrol (c : Nat) (bank : BitVec 5) (found : Finding) (s : State) : Out :=
  let k := s.core c
  onUnit (decide (c < coreCount)) <|
    if !bankIdle k bank.toNat then s
    else
      let w := look 0 k.misc.patrol bank.toNat
      let a := wordAddr bank.toNat w
      let s1 := s.setCore c (alsoMade { k with misc := { k.misc with patrol := put 0 k.misc.patrol bank.toNat ((w + 1) % 3072) } } true a)
      match found with
      | .good => s1
      | .corrected => correct s1 c a
      | .uncorrectable => noteUe (ueReader s1 c a .patrol) c a

/-! ## Scrub (06 R145 to R148) -/

/-- The core after the phases of 06 Table 6-10: Tier S, manifest and every register zero. Its
health counters, its error counter and what is known of its site stay, and so do packets that have not been checked. -/
def scrubbed (k : Core) (vid : BitVec 16) : Core :=
  { regs := { counters := k.regs.counters, ceCount := k.regs.ceCount }
    berths := { arrivals := k.berths.arrivals }
    misc := { k.misc with vid := vid, scrubbing := false, writebacks := [] } }

/-- Packets accepted before the close: writes land and are zeroed, their senders receive OK; reads
are served. -/
def drainSlots (s : State) (c : Nat) : List LandSlot → State
  | [] => s
  | l :: r => drainSlots (if l.pkt.ty = 1 then readBack s c l (spadRead (s.core c) l.addr (pktBytes l.pkt)) else answer s c (coreId s c) l.pkt 0) c r

/-- Close, drain and scrub of a core that leaves its voyage. -/
def scrubCore (s : State) (c : Nat) (vid : BitVec 16) : State :=
  (drainSlots s c (s.core c).berths.slots).updCore c fun k => scrubbed k vid

/-- CORE_SCRUB: a core that has been stopped for its scrub runs it and reports. -/
def execCoreScrub (c : Nat) (s : State) : Out :=
  let k := s.core c
  onUnit (decide (c < coreCount)) <|
    if !k.misc.scrubbing then s
    else
      (scrubCore s c noVoyage).updCore c fun k => { k with misc := { k.misc with ident := none, seedXY := none, gated := true } }

/-- A voyage is forgotten: its retained set and its exclusive segments are scrubbed (06 R147 R150,
10 R255). -/
def forgetVoyage (s : State) (vid : Nat) : State := (freeOwned (dropVoyage (dropSave s vid) vid) vid).setVoyage vid none

/-- Voyages of a partition. -/
def voyagesOf (s : State) (pid : Nat) : List Nat :=
  (s.voyages.filter fun p => match p.2 with | some v => decide (v.pid = pid) | none => false).map (·.1)

/-- An ended voyage after its cores have been scrubbed: its exclusive segments go, unless retained,
and a KILL that waits for it is answered and forgets it. -/
def afterScrub (s : State) (vid : Nat) : State :=
  match s.voyage vid with
  | none => s
  | some v =>
    if v.st ≠ vEnded then s
    else
      let s1 := if v.retain then s else freeOwned s vid
      if v.killer = [] then s1 else v.killer.foldl (fun s a => finishOp s (some a) stOk 0 []) (forgetVoyage s1 vid)

/-- Whether every core of a set of basins has reported its scrub. -/
def scrubDone (s : State) (m : BitVec 24) : Bool := (coresOfBasins s m).all fun c => !(s.core c).misc.scrubbing

/-- SCRUB_COMPLETE: every core of a partition has reported; its basins are free for other use. -/
def execScrubComplete (pid : Nat) (s : State) : Out :=
  onUnit (decide (pid < 24)) <| if s.hm.hung.isSome then s else
    match s.part pid with
    | none => s
    | some p =>
      if !p.scrubbing || !scrubDone s (p.basins ||| p.reserve) then s
      else
        let s1 := s.setPart pid (if p.releasing then none else some { p with scrubbing := false })
        (voyagesOf s1 pid).foldl afterScrub s1

end Sys2Proof.Machine
end

