-- ==== Sys2Proof/Machine/Frames.lean ====
section
/-! DEFINITION. Port frames (11 R268 R271): slots of packets and their reassembly, the data field, FCRC, the Reed-Solomon code and the lanes. -/

namespace Sys2Proof.Machine

open Sys2Proof

/-! ## Slots -/

/-- The virtual channel of a packet (11 R271). -/
def portChannel (k : Packet) : Nat := (if k.ty = 2 || k.ty = 3 || k.ty = 6 || k.ty = 10 then 2 else 0) + b2n k.vcx

/-- Flits that a header announces. -/
def flitsDue (p : Packet) : Nat := if p.ty = 1 then 1 else max 1 ((64 * p.len.toNat + 255) / 256)

/-- Slots of a packet of n flits: the trailer of a packet of one flit takes a second one. -/
def slotCount (n : Nat) (trl : Bool) : Nat := if n = 1 ∧ trl then 2 else n

/-- Slots of a packet. -/
def portSlots (k : Packet) : Nat := slotCount (flitsOf k) k.trl

/-- Slot i of a packet. -/
def slotAt (k : Packet) (i : Nat) : FrameSlot :=
  let end_ := decide (portSlots k ≤ i + 1)
  { kind := if i = 0 then 1 else 2, vc := BitVec.ofNat 2 (portChannel k), last := end_
    hdr := if i = 0 then some { k with payload := [], trailer := 0 } else none
    trailer := if end_ && k.trl then k.trailer else 0, data := slice k.payload (256 * i) 256 }

/-- A string of n bytes: what follows is zero. -/
def fillTo (n : Nat) (b : Bytes) : Bytes := (b ++ zeros n).take n

/-- The packet that the slots of a channel make, with the flits that they hold; none without a head. -/
def packetOf (l : List FrameSlot) : Option (Packet × Nat) :=
  match l with
  | [] => none
  | h :: _ =>
    h.hdr.map fun k =>
      let n := if l.length = slotCount (flitsDue k) k.trl then flitsDue k else 0
      ({ k with
          payload := if k.ty = 1 then [] else (l.flatMap fun x => fillTo 256 x.data).take (64 * k.len.toNat)
          trailer := match l.getLast? with | some x => x.trailer | none => 0 }, n)

/-! ## The data field (11 Table 11-1) -/

/-- The header of a packet as it travels (07 Table 7-4). -/
def headerOut (p : Packet) : Nat :=
  headerNat p + 2 ^ 7 * b2n p.vcx + 2 ^ 8 * p.epoch.toNat + 2 ^ 59 * p.dx.toNat + 2 ^ 66 * p.dy.toNat + 2 ^ 73 * p.dunit.toNat

/-- The side field of a slot. -/
def sideOut (x : FrameSlot) : Bytes :=
  match x.hdr with
  | some k => leBytes 16 (headerOut k)
  | none => leBytes 16 x.trailer.toNat

/-- Bytes 0 to 1,115 of a frame's data field. -/
def frameBody (f : PortFrame) : Bytes :=
  let xs := (f.slots ++ List.replicate 4 ({} : FrameSlot)).take 4
  (xs.flatMap fun x => sideOut x ++ fillTo 256 x.data) ++
    (xs.flatMap fun x => leBytes 1 (x.kind.toNat + 4 * x.vc.toNat + 16 * b2n x.last)) ++
    leBytes 4 f.fseq.toNat ++ leBytes 4 f.ackseq.toNat ++ leBytes 1 (b2n f.ackValid + 2 * b2n f.nak) ++ zeros 3 ++
    ((List.range 4).flatMap fun i => leBytes 2 (f.credit.getD i 0)) ++ zeros 4

/-- FCRC (04 R88 with raddr = 0 and seq = FSEQ[15:0]). -/
def frameCrc (f : PortFrame) : BitVec 32 := (checkOf 1 0 (f.fseq.setWidth 16) (frameBody f)).setWidth 32

/-- The 1,120 data bytes of a frame. -/
def frameData (f : PortFrame) : Bytes := frameBody f ++ leBytes 4 (frameCrc f).toNat

/-! ## Reed-Solomon code and lanes (11 R268) -/

/-- Multiplication by alpha in GF(2^10) with x^10 + x^3 + 1. -/
def gfShift (x : BitVec 10) : BitVec 10 := if x.getLsbD 9 then (x <<< 1) ^^^ 9 else x <<< 1

/-- The product in GF(2^10), by Horner's rule over the bits of y. -/
def gfMul (x y : BitVec 10) : BitVec 10 :=
  (List.range 10).foldl (fun a i => gfShift a ^^^ (if y.getLsbD (9 - i) then x else 0)) 0

/-- alpha to the power n. -/
def gfPow : Nat → BitVec 10
  | 0 => 1
  | n + 1 => gfShift (gfPow n)

/-- A polynomial, highest coefficient first, times (x + r). -/
def polyTimes (g : List (BitVec 10)) (r : BitVec 10) : List (BitVec 10) :=
  List.zipWith (· ^^^ ·) (g ++ [0]) (0 :: g.map (gfMul r))

/-- The generator polynomial, with roots alpha^0 to alpha^15. -/
def rsGenerator : List (BitVec 10) := (List.range 16).foldl (fun g i => polyTimes g (gfPow i)) [1]

/-- The 16 parity symbols of a codeword's data symbols: the remainder by the generator, of a polynomial whose highest coefficient is the first
symbol (PRESUMED, log entry 63). -/
def rsParity (d : List (BitVec 10)) : List (BitVec 10) :=
  d.foldl (fun rem x =>
    let lead := x ^^^ rem.headD 0
    List.zipWith (· ^^^ ·) (rem.drop 1 ++ [0]) ((rsGenerator.drop 1).map (gfMul lead))) (List.replicate 16 0)

/-- Data symbol j of a frame: bits 10j to 10j + 9, the first of them its bit 0 (PRESUMED, log entry 63). -/
def dataSymbols (b : Bytes) : List (BitVec 10) := (List.range 896).map fun j => BitVec.ofNat 10 (leNat (slice b (10 * j / 8) 3) / 2 ^ (10 * j % 8))

/-- The 960 symbols of a frame: the data symbols, symbol k in codeword k mod 4, then the parity symbols of the four codewords in the same
interleave (PRESUMED, log entry 63). -/
def frameSymbols (f : PortFrame) : List (BitVec 10) :=
  let d := dataSymbols (frameData f)
  let par := (List.range 4).map fun c => rsParity ((List.range 224).map fun i => d.getD (4 * i + c) 0)
  d ++ (List.range 64).map fun i => (par.getD (i % 4) []).getD (i / 4) 0

/-- The lane of frame symbol k at width w. -/
def symbolLane (k w : Nat) : Nat := k / 4 % w

/-- The symbols of codeword c that arrived wrong. -/
def wrongIn (errors : List Nat) (c : Nat) : Nat := (errors.eraseDups.filter fun k => k % 4 = c).length

/-- Whether every codeword is corrected: at most 8 of its symbols arrived wrong. -/
def allCorrected (errors : List Nat) : Bool := (List.range 4).all fun c => decide (wrongIn errors c ≤ 8)

/-- The corrected symbols. -/
def symbolsCorrected (errors : List Nat) : Nat :=
  ((List.range 4).map fun c => if wrongIn errors c ≤ 8 then wrongIn errors c else 0).foldl (· + ·) 0

/-- Whether a frame arrives intact: every codeword is corrected, and FCRC holds. -/
def frameIntact (f : PortFrame) (fcrc : BitVec 32) (errors : List Nat) : Bool := allCorrected errors && decide (fcrc = frameCrc f)

end Sys2Proof.Machine
end

