-- ==== Sys2Proof/Machine/Deliver.lean ====
section
/-! DEFINITION. Ejection of a packet to its unit (07 R162 R165 R172, 10 R244), packets from ports (07 R160 R170, 11 R277), and failed checks (07 R161). -/

namespace Sys2Proof.Machine

open Sys2Proof

/-! ## Delivery -/

/-- An answer to a packet of an engine reaches its running entry: the PIDX is answered and the
lowest status that is not OK stands. One of no entry waits for the load that asked (08 R215). -/
def engineAck (e : Engine) (p : Packet) : Engine :=
  if e.running.any fun r => decide (pidxOf p ∈ r.open_) then
    { e with running := e.running.map fun r =>
      if pidxOf p ∈ r.open_ then { r with open_ := without (pidxOf p) r.open_, status := worse r.status (statusOf p) } else r }
  else { e with memIn := e.memIn ++ [p] }

/-- A NAK reaches a unit that is not a core: it sends the packet again, up to 3 times. -/
def unitResend (s : State) (u : Nat) (n : Packet) : State :=
  match takeFirst (fun t : Nat × Packet × Nat => t.1 = u && t.2.1.xq = n.xq && pidxOf t.2.1 = pidxOf n) s.fabric.retry with
  | none => s
  | some ((_, p, k), rest) =>
    let s1 := { s with fabric := { s.fabric with retry := rest } }
    if k < 3 then
      resend { s1 with fabric := { s1.fabric with retry := rest ++ [(u, p, k + 1)] } } u n p
    else
      let s2 := raiseFab s1 4 { unit := u }
      if p.ty = 2 then sendBack s2 u (mkPkt 3 p.dst (homeId s u) (8 + 256 * (pidxOf p).toNat) p.xq false [])
      else if 5184 ≤ u ∧ u < 5264 then
        s2.updEngine (u - 5184) fun e => engineAck e (mkPkt 3 p.src p.dst (8 + 256 * (pidxOf p).toNat) p.xq false [])
      else s2

/-- The harbour die serves a host window packet (10 R244): a write is acknowledged once it is sent,
a read returns what host memory holds. -/
def hostServe (s : State) (p : Packet) : State :=
  let vid := match unitOfId s p.src with
    | some u => (s.core u).misc.vid
    | none => noVoyage
  let win := p.ref.toNat % 16
  let off := bits p.ref.toNat 4 34
  let id := homeId s harbourUnit
  let st := hostCheck s vid win (p.ty = 0) off (pktBytes p)
  if st ≠ 0 then answer s harbourUnit id p (BitVec.ofNat 8 st)
  else
    let a := (match s.voyage vid.toNat with
      | some v => (match v.img.wins[win]? with | some w => w.iova.toNat + off | none => off)
      | none => off)
    if p.ty = 0 then answer (hostWrite s a p.payload) harbourUnit id p 0
    else sendBack s harbourUnit (mkPkt 2 p.src id (256 * (pidxOf p).toNat) p.xq false (hostRead s a (pktBytes p)))

/-- The tokens of a TOKEN packet. -/
def remoteToken (p : Packet) : TokIn :=
  { qe := p.ref.setWidth 3, n := bits p.ref.toNat 3 8 + 1, local_ := false, notify := false, step := 0, src := p.src,
    xq := p.xq, pidx := 0 }

/-- A packet reaches a core. -/
def toCore (s : State) (c : Nat) (p : Packet) : State :=
  match p.ty.toNat with
  | 0 | 1 => s.updCore c fun k => { k with berths := { k.berths with arrivals := k.berths.arrivals ++ [p] } }
  | 2 => s.updCore c fun k => if p.payload = [] then takeAck k p
      else { k with crane := { k.crane with rsp := k.crane.rsp ++ [p] } }
  | 3 | 6 => s.updCore c fun k => takeAck k p
  | 4 => s.updCore c fun k => tokenIn k (remoteToken p)
  | 10 => s.updCore c fun k => { k with crane := { k.crane with naks := k.crane.naks ++ [p] } }
  | _ => turnAway s c p

/-- A packet reaches engine m. -/
def toEngine (s : State) (m : Nat) (p : Packet) : State :=
  match p.ty.toNat with
  | 0 | 1 | 2 => s.updEngine m fun e => { e with memIn := e.memIn ++ [p] }
  | 3 => s.updEngine m fun e => engineAck e p
  | 5 => s.updEngine m fun e => { e with cmds := e.cmds ++ [p] }
  | 10 => unitResend s (memUnit m) p
  | _ => turnAway s (memUnit m) p

/-! ## Egress ports (07 R169, 11 R277) -/

def portOff (p : Nat) : Nat := lnkBase + 0x400 * (p / 2) + 0x100 + 0x40 * (p % 2)

/-- LNK_PORT_STATUS.TRANSIT. -/
def transitOn (s : State) (p : Nat) : Bool := getField s (portOff p) 7 1 = 1

/-- The egress port of a packet that entered through a port: one with transit enabled. -/
def transitPort (s : State) (e : Nat) (pkt : Packet) : Option Nat :=
  let off := ((List.range 48).map fun i => if transitOn s i then 0 else 2 ^ (16 + i)).foldl (· + ·) 0
  egress s (e - Nat.land e off) pkt.src pkt.dst pkt.xq

/-- Whether a packet is one of another panel that leaves through a port. -/
def inTransit (s : State) (k : Packet) : Bool := (unitOfId s k.src).isNone

/-- The port that a packet leaves by. -/
def exitPort (s : State) (k : Packet) : Option Nat :=
  let e := ettEntry s k.dst
  if inTransit s k then transitPort s e k else egress s e k.src k.dst k.xq

/-- A packet at port p leaves through port o: one of the same link die is reached inside the die (07 R170). -/
def toPort (s : State) (p o : Nat) (k : Packet) : State :=
  if o / 2 = p / 2 then (noteFlow s (portUnit o) k).updPort o fun t => { t with outq := t.outq ++ [trailed k] }
  else inject s (portUnit p) (portUnit o) (ettEpoch s) { k with cls := if inTransit s k then 3 else k.cls }

/-- A packet that port p cannot send moves to the next port that 07 R169 selects, or is answered with UNREACHABLE. -/
def moveOne (s : State) (p : Nat) (k : Packet) : State :=
  match exitPort s k with
  | some o => toPort s p o k
  | none => turnAway s (portUnit p) { k with dunit := 3 }

/-- A packet handed to a partner die, which has to answer it if its TYPE expects an answer (11 R289). -/
def toPartner (s : State) (i : Nat) (k : Packet) : State :=
  let x := s.site i
  s.setSite i { x with outq := x.outq ++ [k], asked := if wantsAnswer k then x.asked ++ [(k.src, k.xq, pidxOf k)] else x.asked }

/-- A packet reaches unit u. -/
def deliver (s : State) (u : Nat) (p : Packet) : State :=
  if unreachable s u then turnAway s u p
  else if u < 5184 then toCore s u p
  else if u < 5264 then toEngine s (u - 5184) p
  else if u < 5312 then
    let o := u - 5264
    if portUp s o && (transitOn s o || !inTransit s p) then s.updPort o fun t => { t with outq := t.outq ++ [trailed p] }
    else moveOne s o p
  else if u = 5312 then
    (if p.ty = 0 ∨ p.ty = 1 then hostServe s p else if p.ty = 10 then unitResend s u p else turnAway s u p)
  else toPartner s (u - 5313) p

/-- Whether an epoch is the active one or the one that drains (07 R172). -/
def epochKnown (s : State) (e : BitVec 2) : Bool :=
  decide (e.toNat = ettEpoch s) || (ettState s = 2 && decide ((e.toNat + 1) % 4 = ettEpoch s))

/-- The engine of a QCMD's command: whether the packet continues one that has begun to arrive. -/
def sameCmd (p q : Packet) : Bool := p.src = q.src && p.xq = q.xq && p.xid = q.xid

/-- Commands queued at an engine: those that have started to arrive, and the entries that they have started (08 R198). -/
def cmdsQueued (e : Engine) : Nat :=
  ((e.cmds.map fun p => (p.src, p.xq, p.xid)).eraseDups).length + (e.queue.filter (·.command)).length

/-- Whether the unit of a packet takes it now: a command waits while 64 are queued (08 R198), a write or a read request of a core while the
8 slots of its landing buffer are held (06 R131). -/
def takes (s : State) (r : Nat) (p : Packet) : Bool :=
  let u := if p.dunit = 7 then r else p.unit
  if u < 5184 then !(decide (p.ty.toNat < 2) && !unreachable s u && decide (8 ≤ (s.core u).berths.slots.length + (s.core u).berths.arrivals.length))
  else if u < 5264 then !(p.ty = 5 && !unreachable s u && !((s.engine (u - 5184)).cmds.any (sameCmd p)) && decide (64 ≤ cmdsQueued (s.engine (u - 5184))))
  else true

/-- Whether a packet has left its router whole toward its unit. -/
def gone (q : InPkt) : Bool := decide (flitsOf q.pkt ≤ q.sent)

/-- Whether packet i of router r arrives at its unit now: it has left whole, the unit takes it, and none before it on its output and
channel waits (07 R164). -/
def ejects (s : State) (r i : Nat) (q : InPkt) : Bool :=
  gone q && takes s r q.pkt &&
    !(((s.router r).pkts.take i).any fun t => gone t && decide (t.hop.map (·.1) = q.hop.map (·.1)) && decide (channelOf t.pkt = channelOf q.pkt))

/-- PACKET_EJECT: the first packet whose flits have all left router r toward its unit arrives
there. A packet of an unknown epoch is discarded. -/
def execPacketEject (r : Nat) (s : State) : Out :=
  onUnit (decide (r < coreCount)) <|
    let k := s.router r
    match k.pkts.zipIdx.find? fun p => ejects s r p.2 p.1 with
    | none => s
    | some (q, i) =>
      let s1 := s.setRouter r { k with pkts := dropAt k.pkts i }
      let u := if q.pkt.dunit = 7 then r else q.pkt.unit
      if epochKnown s q.pkt.epoch then deliver s1 u q.pkt else raiseFab s1 10 { unit := u }

/-! ## Ports (07 R160 R170, 11 R277) -/

/-- Whether a packet that arrives through a port is for a core or a partner die, whose REF is a berth access. -/
def toBerth (s : State) (p : Packet) : Bool :=
  let e := ettEntry s p.dst
  decide (e % 4 = 1) && (decide (localUnit e < 5184) || decide (5313 ≤ localUnit e))

/-- Reserved bits of REF by TYPE and destination (07 Table 7-6). -/
def refReserved (s : State) (p : Packet) : Bool :=
  let r := p.ref.toNat
  match p.ty.toNat with
  | 0 | 1 => toBerth s p && decide (r / 2 ^ 46 ≠ 0)
  | 2 | 3 | 10 => decide (r / 2 ^ 18 ≠ 0)
  | 4 => decide (r / 2 ^ 11 ≠ 0)
  | 5 | 6 => decide (r / 2 ^ 26 ≠ 0)
  | _ => false

/-- 07 R160: the cases in which a port packet is refused. -/
def portRefuses (s : State) (p : Packet) (flits : Nat) : Bool :=
  p.cls = 0 || p.cls = 1 || decide (10 < p.ty.toNat) || p.ty = 7 || p.ty = 8 || p.ty = 9 || decide (64 < p.len.toNat) ||
  flits ≠ flitsDue p || !p.trl || p.dunit = 6 || refReserved s p

/-- A NAK to the source of a packet that failed a check at router or port unit u. Of a multicast branch it names the output beyond which
its members lie (DESIGN CHOICE, log entry 25). -/
def nakPkt (s : State) (u : Nat) (p : Packet) (branch : Option Nat) : Packet :=
  { mkPkt 10 p.src (homeId s u) (256 * (pidxOf p).toNat) p.xq false [] with
    xid := if p.dunit = 7 then (match branch with | some 0 => 0 | some o => o + 1 | none => 0) else 0 }

/-- A packet at a port as its destination reads it: DUNIT of the unit that it goes to, 3 on its way to another panel. -/
def atPort (s : State) (p : Packet) : Packet :=
  let e := ettEntry s p.dst
  { p with dunit := if e % 4 = 1 then dunitOf (localUnit e) else 3 }

/-- A refused port packet (07 R160); status 6 of its answer raises UNREACHABLE. -/
def ingressRefuse (s : State) (p : Nat) (pkt : Packet) (good : Bool) : State :=
  let u := portUnit p
  let s1 := raiseFab (countRefused s) 5 { unit := u }
  if good && wantsAnswer pkt then answer (raiseFab s1 6 { unit := u }) u (homeId s u) (atPort s pkt) 6 else s1

/-- The attachment router of a link die by which a TRANSIT flow enters the mesh, selected by a hash of the flow (07 R170); the hash is
that of R169, a choice of the model (log entry 11). -/
def transitRouter (s : State) (u e : Nat) (p : Packet) : Nat :=
  let l := (attachRouters s u).filter fun r => !darkAt s r
  let h := p.src.toNat + p.dst.toNat + (if bits e 2 2 = 2 then p.xq.toNat else 0)
  (l[h % max 1 l.length]?).getD (attachAt s u 0)

/-- Whether the peer of a port is a storage gateway (11 Table 11-11 KIND). -/
def fromGateway (s : State) (p : Nat) : Bool := getField s (portOff p + 8) 14 2 = 1

/-- Whether a packet of a gateway names a source outside the gateway's home block (11 R279). -/
def outsideHome (s : State) (p : Nat) (k : Packet) : Bool :=
  fromGateway s p && decide (k.src.toNat / 8192 ≠ getField s (portOff p + 8) 0 8)

/-- 07 R170: a packet that passed its checks is looked up in the ETT. -/
def ingressRoute (s : State) (p : Nat) (pkt : Packet) : State :=
  let e := ettEntry s pkt.dst
  let ep := ettEpoch s
  let u := portUnit p
  match e % 4 with
  | 1 => inject s u (localUnit e) ep (trailed { pkt with cls := 2 })
  | 2 =>
    if !transitOn s p || fromGateway s p then ingressRefuse s p pkt true
    else
      match transitPort s e pkt with
      | none => turnAway s u { pkt with dunit := 3 }
      | some o =>
        let k := { pkt with vcx := bitOf e 4 }
        if o / 2 = p / 2 then (noteFlow s (portUnit o) k).updPort o fun t => { t with outq := t.outq ++ [trailed k] }
        else enterAt (noteFlow s (portUnit o) k) u (transitRouter s u e k) (portUnit o) ep { k with cls := 3 }
  | _ => ingressRefuse s p pkt true

/-- A packet has arrived whole through port p: it is refused (07 R160, 11 R279), fails its trailer check (R161), or goes on (R170). -/
def ingest (s : State) (p : Nat) (pkt : Packet) (flits : Nat) : State :=
  let good := pkt.trl && pkt.trailer = trailerOf pkt
  if portRefuses s pkt flits || outsideHome s p pkt then ingressRefuse s p pkt good
  else if !good then
    sendBack (raiseFab (countTrailer s) 2 { unit := portUnit p }) (portUnit p) (nakPkt s (portUnit p) (atPort s pkt) none)
  else ingressRoute s p pkt

/-- PORT_PACKET_INGRESS: a packet has arrived through port p, with so many flits. -/
def execPortPacketIngress (p : Nat) (pkt : Packet) (flits : Nat) (s : State) : Out :=
  onUnit (decide (p < portCount)) (if portUp s p then ingest s p pkt flits else s)

/-- A source that is not a core keeps a packet to send it again. -/
def keepRetry (s : State) (p : Packet) : State :=
  match unitOfId s p.src with
  | some u =>
    if u < 5184 || s.fabric.retry.any (fun t => t.1 = u && decide (t.2.1 = { p with epoch := t.2.1.epoch })) then s
    else { s with fabric := { s.fabric with retry := s.fabric.retry ++ [(u, p, 0)] } }
  | none => s

/-- TRAILER_ERR: packet k at router r fails its trailer check, or a flit of it or of a stream has an uncorrectable error. A packet
that the router holds whole is discarded and a NAK goes to its source; of one that has begun to leave, a later unit finds the error. A flit of
a REDUCE stream, number k after the packets, is sent again (DESIGN CHOICE, log entry 25). -/
def execTrailerErr (r k : Nat) (flitUe : Bool) (s : State) : Out :=
  onUnit (decide (r < coreCount)) <|
    let t := s.router r
    match t.pkts[k]? with
    | none => if flitUe && decide (k - t.pkts.length < t.streams.length) then raiseFab s 3 { unit := r } else s
    | some q =>
      if q.got < flitsOf q.pkt || (decide (0 < q.sent) && !gone q) then s
      else
        let s1 := s.setRouter r { t with pkts := dropAt t.pkts k }
        let s2 := keepRetry (raiseFab (countTrailer s1) (if flitUe then 3 else 2) { unit := r }) q.pkt
        sendBack s2 r (nakPkt s2 r q.pkt (q.hop.map (·.1)))

end Sys2Proof.Machine
end

