-- ==== Sys2Proof/Machine/Dtab.lean ====
section
/-! DEFINITION. The distance table (07 R152 R153 R183 to R185): the cost of a hop, of a path and of an attachment, the table's image, the broadcast distance of a partition, and the topology report (14 R358). -/

namespace Sys2Proof.Machine

open Sys2Proof

/-- The physical core site of core c in its core row (01 R12). -/
def siteOf (s : State) (c : Nat) : Nat :=
  physCore s (coreY c / 6) (physCol s (coreY c / 6) (coreX c / 6)) (coreY c % 6) (coreX c % 6)

/-- The physical die column of core c. -/
def colOf (s : State) (c : Nat) : Nat := physCol s (coreY c / 6) (coreX c / 6)

/-- The number of the link through output `out` (3 east, 5 south) of router r. -/
def meshLink (r out : Nat) : Nat := 6 * r + out

/-- fc that a link's reduced width adds to its hop (11 Table 11-12). -/
def widthCost (s : State) (link : Nat) : Nat :=
  match look 0 s.fabric.linkWidth link with
  | 0 => 0
  | 1 => 1
  | _ => 3

/-- 07 Table 7-1: the cost in fc of the hop between two adjacent routers at full width, r the lower one. -/
def hopBase (s : State) (r r' : Nat) : Nat :=
  let y := coreY r
  let y' := coreY r'
  if y = y' then
    if coreX r / 6 = coreX r' / 6 then (if siteOf s r + 1 = siteOf s r' then 3 else 4)
    else if colOf s r + 1 = colOf s r' then 6 else 14
  else if y / 6 = y' / 6 then (if siteOf s r = siteOf s r' then 3 else 4)
  else if y = 35 ∨ colOf s r ≠ colOf s r' then 14
  else if siteOf s r = siteOf s r' then 6 else 7

/-- The hop with the reduced width of its link. -/
def hopCost (s : State) (r r' : Nat) : Nat := hopBase s r r' + widthCost s (meshLink r (if coreY r = coreY r' then 3 else 5))

/-- Hops from router r to the destination of a probe, with detours; none if there is no path. -/
def hopsCost (s : State) (p : Packet) : Nat → Nat → Nat → Option Nat
  | 0, _, _ => none
  | n + 1, r, det =>
    if r = 72 * p.dy.toNat + p.dx.toNat then some 0
    else
      match nextHop s r p det with
      | none => none
      | some (out, det') =>
        match neighbour r out with
        | none => none
        | some r' => (hopsCost s p n r' det').map fun c => c + hopCost s (min r r') (max r r')

/-- The attachment link of a unit reached from router r: none for a core, 14 through a skip link over a spared
site, else 6 (07 R154, 01 R11). -/
def attachCost (s : State) (u r : Nat) : Nat :=
  if u < 5184 then 0 else (if (attachOf s u r).1.skip then 14 else 6) + widthCost s (attachLink u)

/-- d(u, v) in cc (07 R184), none where there is no path. -/
def distance (s : State) (u v : Nat) : Option Nat :=
  if unreachable s u || unreachable s v then none
  else if u = v then some 0
  else
    let a := attachAt s u (homeRouter s v)
    let b := attachAt s v a
    (hopsCost s (probe v b) 1024 a 0).map fun h => 2 * (4 + attachCost s u (homeRouter s v) + h + attachCost s v a)

/-- The largest finite distance between units of two lists. -/
def maxDistance (s : State) (us vs : List Nat) : Nat :=
  us.foldl (fun m u => vs.foldl (fun m v => max m ((distance s u v).getD 0)) m) 0

/-- 07 R185, in fc. -/
def broadcastFc (s : State) (cs : List Nat) : Nat := maxDistance s cs cs / 2 + 48

/-- Units of the table. -/
def dtabUnits : Nat := 5313

/-- Length of the image (07 Table 7-12). -/
def dtabLen : Nat := 42624 + 2 * dtabUnits * dtabUnits

/-- Type, A, B and C of a unit (07 Table 7-7). -/
def unitBytes (u : Nat) : Bytes :=
  let b (t a b c : Nat) : Bytes := [BitVec.ofNat 8 t, BitVec.ofNat 8 a, BitVec.ofNat 8 b, BitVec.ofNat 8 c]
  if u < 5184 then b 0 (coreX u) (coreY u) 0
  else if u < 5256 then b 1 ((u - 5184) / 6) ((u - 5184) % 6) 0
  else if u < 5264 then b 2 ((u - 5256) / 2) ((u - 5256) % 2) 0
  else if u < 5312 then b 3 ((u - 5264) / 16) ((u - 5264) / 2 % 8) ((u - 5264) % 2)
  else b 4 0 0 0

/-- The panel fuse map as it is stored (14 Table 14-5). -/
def fuseFile (m : FuseMap) : Bytes :=
  let b := leBytes 2 1 ++ leBytes 2 m.bad.length ++ leBytes 2 m.subs.length ++ zeros 2 ++ leBytes 16 m.serial.toNat ++
    ((List.range 12).flatMap fun r => leBytes 1 (look 6 m.spareSite r)) ++ zeros 4 ++ (m.bad.flatMap fun w => leBytes 2 w.toNat) ++ m.subs.flatten
  b ++ leBytes 4 (checkOf 1 0 0 b).toNat

/-- The fuse map and the lane maps that MAPCRC covers: the LANES fields of the dies by strap word, and the links with wires found bad since.
Their order is the model's (DESIGN CHOICE, log entry 59). -/
def mapBytes (s : State) : Bytes :=
  fuseFile s.bring.fuses ++ (s.bring.dies.flatMap fun d => slice d.2 24 2304) ++
    s.fabric.linkBad.flatMap fun l => leBytes 4 l.1 ++ leBytes 4 l.2

/-- The image of the table of the topology as it stands. -/
def dtabImage (s : State) : Bytes :=
  let us := List.range dtabUnits
  let cs := List.range coreCount
  leBytes 2 1 ++ zeros 2 ++ leBytes 4 (reg s (fabBase + 0x1C)).toNat ++ leBytes 4 dtabUnits ++
  leBytes 2 (maxDistance s us us) ++ leBytes 2 (broadcastFc s cs) ++ leBytes 4 (checkOf 1 0 0 (mapBytes s)).toNat ++ zeros 44 ++
  (us.flatMap fun u => unitBytes u ++ leBytes 4 (homeId s u).toNat) ++ zeros 56 ++
  (us.flatMap fun u => us.flatMap fun v => leBytes 2 ((distance s u v).getD 0xFFFF))

/-! ## The topology report (14 R358) -/

/-- A feature of the licence in force (14 Table 14-7). -/
def licensed (s : State) (i : Nat) : Bool := bitOf (reg s (secBase + 0xC)).toNat i

/-- Whether a core may hold voyage work: it has not failed, its basin is not dark, and its row is
licensed (14 R360). -/
def coreActive (s : State) (c : Nat) : Bool :=
  !(s.core c).misc.failed && !darkAt s c && (licensed s 0 || decide (coreY c % 6 < 4))

/-- Active cores among some. -/
def activeCount (s : State) (cs : List Nat) : Nat := (cs.filter (coreActive s)).length

def siteOff (i : Nat) : Nat := lnkBase + 0x8000 + 0x100 * i + 8
def siteState (s : State) (i : Nat) : Nat := getField s (siteOff i) 0 3

/-- Whether a link runs in serial mode: its hop at full width is 14 fc. -/
def linkSerial (s : State) (link : Nat) : Bool :=
  if link < 6 * coreCount then
    let r := link / 6
    hopBase s r (if link % 6 = 3 then r + 1 else r + 72) = 14
  else
    let u := link - 6 * coreCount
    (attachOf s u 0).1.skip

/-- Whether a link number names a link between two dies: through the east or south output of a router at a
die's edge, or a unit's attachment. -/
def linkOk (link : Nat) : Bool :=
  if link < 6 * coreCount then
    let r := link / 6
    (link % 6 = 3 && decide (coreX r % 6 = 5) && decide (coreX r ≠ 71)) ||
    (link % 6 = 5 && decide (coreY r % 6 = 5) && decide (coreY r ≠ 71))
  else decide (coreCount ≤ link - 6 * coreCount) && decide (link - 6 * coreCount < 5321)

/-- The topology report of R358: active cores of each basin, dark basins, failed dies, mode and width of every link, memories, open
sites. Its byte layout is not given (log entry 1). -/
def topologyReport (s : State) : Bytes :=
  Config.layout 0 (
    ((List.range basinCount).map fun b => (activeCount s (coresOfBasin s b) : Int)) ++
    (s.power.dark.map Int.ofNat) ++
    (s.bring.failedDies.flatMap fun d => [(d.1 : Int), (d.2 : Int)]) ++
    (s.bring.reports.flatMap fun f => [(f.1.toNat : Int), (f.2.toNat : Int)]) ++
    (((List.range (7 * coreCount + 137)).filter linkOk).flatMap fun l => [(b2n (linkSerial s l) : Int), ((look 0 s.fabric.linkWidth l : Nat) : Int)]) ++
    ((List.range memCount).map fun m => (b2n (s.engine m).lost : Int)) ++
    ((List.range siteCount).map fun i => (siteState s i : Int)))

/-- The distance table is published with a higher version (05 R114): its image stands until the next publication, and so does the topology report
(14 R358). -/
def republish (s : State) : State :=
  let s1 := setReg s (fabBase + 0x1C) (reg s (fabBase + 0x1C) + 1)
  raiseFab { s1 with fabric := { s1.fabric with dtab := dtabImage s1, dtabDue := false }
                     bring := { s1.bring with topology := topologyReport s1 } } 9

/-- A change of topology, after which the table is to be published again. -/
def topologyChanged (s : State) : State := { s with fabric := { s.fabric with dtabDue := true } }

/-- DTAB_REPUBLISH: a table that stage S6 has published is published again after a change of topology. -/
def execDtabRepublish (s : State) : Out := .next (if s.fabric.dtabDue && !s.fabric.dtab.isEmpty then republish s else s)

end Sys2Proof.Machine
end

