-- ==== Sys2Proof/Machine/Reduce.lean ====
section
/-! DEFINITION. Reduction in the routers (07 R173 to R182): trees, merging, landing, credits; detours (R165), the distance table's version (R114) and the bank swap (R171 R172). -/

namespace Sys2Proof.Machine

open Sys2Proof

/-! ## Trees (07 R174) -/

/-- The core that holds logical position (x, y) of a voyage: its own, or the one that the work was
re-placed on (13 R337). -/
def coreAt (s : State) (x y : Nat) : Nat :=
  match s.cores.find? fun p => p.2.misc.seedXY = some (x, y) with
  | some (c, _) => c
  | none => 72 * y + x

/-- The destination unit of a binding and its router. -/
def destUnit (s : State) (b : Binding) : Nat :=
  if b.dtype = 0 then coreAt s b.da.toNat b.db.toNat else memUnit (6 * b.da.toNat + b.db.toNat)
def destRouter (s : State) (b : Binding) : Nat := homeRouter s (destUnit s b)

/-- Engines that contribute to a binding. -/
def quayContribs (b : Binding) : List Nat :=
  ((List.range 72).filter fun i => b.qmask.getLsbD i) ++
    (((List.range 8).filter fun i => b.bmask.getLsbD i).map (72 + ·))

/-- Cores that contribute to a binding, by logical position. -/
def coreContribs (b : Binding) : List (Nat × Nat) :=
  (rectCores b.cx0.toNat b.cx1.toNat b.cy0.toNat b.cy1.toNat).map fun c => (c % 72, c / 72)

/-- A step of a tree: router, input, output. -/
abbrev TreeStep := Nat × Nat × Nat

/-- The way from router r to a destination as far as a router that is on the tree already, which it joins (07 R174): from there on
the streams are one. -/
def treePath (s : State) (p : Packet) (tree : List TreeStep) : Nat → Nat → Nat → Nat → List TreeStep
  | 0, _, _, _ => []
  | n + 1, r, inp, det =>
    match tree.find? fun x => decide (x.1 = r) with
    | some x => [(r, inp, x.2.2)]
    | none =>
      match nextHop s r p det with
      | some (out, det') =>
        (r, inp, out) :: match neighbour r out with
          | some r' => treePath s p tree n r' (inputOf out) det'
          | none => []
      | none => []

/-- A tree's routers with their inputs and output. -/
def treeOf (s : State) (b : Binding) : List TreeStep :=
  let d := destRouter s b
  let p := probe (destUnit s b) d
  let cs := (coreContribs b).map fun xy => (coreAt s xy.1 xy.2, 0)
  let qs := (quayContribs b).map fun m => (attachAt s (memUnit m) d, attachPort s (memUnit m) d)
  (cs ++ qs).foldl (fun l x => (treePath s p l 512 x.1 x.2 0).foldl (fun l y => addOnce y l) l) []

/-- A router takes an input of a tag's entry. -/
def addInput (t : List RtEntry) (tag vid : BitVec 16) (inp out : Nat) : List RtEntry :=
  match takeFirst (fun e : RtEntry => e.tag = tag && e.vid = vid) t with
  | some (e, rest) => rest ++ [{ e with inputs := addOnce inp e.inputs }]
  | none => t ++ [{ tag := tag, vid := vid, inputs := [inp], out := out }]

/-- The trees of an image are programmed into the routers. -/
def plantTrees (s : State) (vid : BitVec 16) (tags : List Binding) : State :=
  tags.foldl (fun s b => (treeOf s b).foldl (fun s x =>
    s.updRouter x.1 fun k => { k with table := addInput k.table b.tag vid x.2.1 x.2.2 }) s) s

/-- Whether every router holds at most 256 entries. -/
def treesFit (s : State) : Bool := s.routers.all fun p => decide (p.2.table.length ≤ 256)

/-- A voyage's entries leave every router. -/
def fellTrees (s : State) (vid : BitVec 16) : State :=
  (s.routers.map (·.1)).foldl (fun s r => s.updRouter r fun k => { k with table := k.table.filter (·.vid ≠ vid) }) s

/-- The trees of a voyage are built again. -/
def replant (s : State) (vid : Nat) : State :=
  match s.voyage vid with
  | some v => plantTrees (fellTrees s (BitVec.ofNat 16 vid)) (BitVec.ofNat 16 vid) v.img.tags
  | none => s

/-- A voyage's partial streams leave every router (07 R181). -/
def dropStreams (s : State) (vid : BitVec 16) : State :=
  (s.routers.map (·.1)).foldl (fun s r => s.updRouter r fun k =>
    { k with streams := k.streams.filter (·.vid ≠ vid), outs := k.outs.filter (·.vid ≠ vid)
             fifos := k.fifos.foldl (fun m p => put [] m p.1 (p.2.filter fun x => match x with | .red _ v => decide (v ≠ vid) | .pkt _ _ => true)) [] }) s

/-! ## Merging (07 R175 R176) -/

/-- The binding of a voyage's tag. -/
def bindingOf (s : State) (vid tag : BitVec 16) : Option Binding :=
  match s.voyage vid.toNat with
  | some v => findTag v.img tag
  | none => none

/-- Two images of a tag merge: elements, INV and SAT by R176, NX by OR. -/
def mergeImg (x y : TileImg) : TileImg :=
  { t := x.t, nx := x.nx || y.nx
    elems := putRange {} [] 0 (fun i => mergeElem (look {} x.elems i) (look {} y.elems i)) 1024 }

/-- The images of a tag's streams, combined in the order of their inputs. -/
def mergeAll : List RStream → TileImg
  | [] => {}
  | r :: rest => rest.foldl (fun x t => mergeImg x t.img) r.img

/-- The inputs of a router in the order in which it combines them (07 R175): local, attachment, west, east, north, south. -/
def inputOrder : List Nat := [0, 1, 6, 2, 3, 4, 5]

/-- The stream of an entry at each of its inputs, in input order; none where one is missing. -/
def entryStreams (k : Router) (e : RtEntry) : Option (List RStream) :=
  let ins := inputOrder.filter fun i => decide (i ∈ e.inputs)
  ins.foldr (fun i acc =>
    match acc, k.streams.find? fun t => t.tag = e.tag && t.vid = e.vid && decide (t.inp = i) with
    | some l, some t => some (t :: l)
    | _, _ => none) (some [])

/-- Flits of an entry that may merge: present at every input. -/
def flitsReady (l : List RStream) : Nat := l.foldl (fun m t => min m t.flits) 50

/-- One flit of an entry merges; the last consumes the streams and fixes the image. What has merged waits in the merge stage for its
output, whose buffer the spec does not bound (DESIGN CHOICE, log entry 25). -/
def mergeFlit (s : State) (r : Nat) (e : RtEntry) : Option State :=
  let k := s.router r
  match entryStreams k e with
  | some l =>
    let mine (m : MergedOut) : Bool := m.tag = e.tag && m.vid = e.vid && decide (m.merged < 50)
    let (m, rest) := match takeFirst mine k.outs with
      | some (m, rest) => (m, rest)
      | none => ({ tag := e.tag, vid := e.vid, out := e.out, round := l.any (·.round), merged := 0, sent := 0, since := fcNow s, img := {} }, k.outs)
    if l = [] ∨ flitsReady l ≤ m.merged then none
    else
      let n := m.merged + 1
      let m1 := { m with merged := n, img := if n = 50 then mergeAll l else m.img }
      let streams := if n = 50 then k.streams.filter fun t => !(l.any fun x => decide (x = t)) else k.streams
      some (s.setRouter r { k with outs := rest ++ [m1], streams := streams })
  | none => none

/-- ROUTER_MERGE: router r merges the next flit of a tag that is present at every input. -/
def execRouterMerge (r : Nat) (tag : BitVec 16) (s : State) : Out :=
  onUnit (decide (r < coreCount)) <|
    let s1 := s.updRouter r settleIn
    match ((s1.router r).table.filter fun e => e.tag = tag).filterMap (mergeFlit s1 r) with
    | [] => s1
    | t :: _ => t

/-! ## Landing (07 R179) -/

/-- A tag's merged stream that has left router r for its unit. -/
def landedAt (s : State) (r out : Nat) (tag : BitVec 16) : Option (MergedOut × List MergedOut) :=
  takeFirst (fun m : MergedOut => m.tag = tag && decide (m.out = out) && decide (m.sent ≥ 50)) (s.router r).outs

/-- 1,024 FP32 lanes of an image (07 R179), with the events of the conversion. -/
def imageF32 (m : TileImg) : List (Word × Ev) :=
  (List.range 1024).map fun i =>
    let x := look {} m.elems i
    let (w, ev) := convElem 10 (if x.inv then none else some (inj2 (elemVal x m.t.toInt 0))) none
    (BitVec.ofNat 32 w, ev)

/-- The bytes that a round writes into a core, with the events of its landing. -/
def landing (b : Binding) (img : TileImg) : Bytes × Ev :=
  let nx := evIf img.nx evNonExact
  if b.kind = 0 then (imageOut img, nx)
  else
    let ls := imageF32 img
    ((ls.map fun p => leBytes 4 p.1.toNat).flatten, nx.and (evAll (ls.map (·.2))))

/-- A round whose bytes have been written into a core has landed. -/
def landCore (k : Core) (b : Binding) (m : MergedOut) : Core :=
  let ev := (landing b m.img).2
  { k with sync := { k.sync with landed := k.sync.landed ++ [{ tag := b.tag, f7 := ev.f7, counts := ev.counts }] }
           cr := { k.cr with red := none } }

/-- Whether the reduction port has written the result of a tag. -/
def redDone (k : Core) (tag : BitVec 16) : Bool :=
  match k.cr.red with
  | some (t, j) => decide (t = tag) && decide (j.io.left = [])
  | none => false

/-- A queued entry of an engine. -/
def newRun (vid : BitVec 16) (idx : Nat) : QRun :=
  { vid := vid, idx := idx, root := idx, arg := 0, payload := [], src := 0, xq := 0, pidx := 0, command := false, done := false,
    status := 0, suspended := false, sid := 0, faultTick := 0, next := 0, open_ := [], buf := none }

/-- Fields of a quay manifest entry (08 Table 8-7). -/
def qField (e : BitVec 512) (off n : Nat) : Nat := bits e.toNat (8 * off) (8 * n)

/-- A context's BUFFER entry for a buffer. -/
def bufEntry (c : QCtx) (buf : Nat) : Option Nat :=
  c.entries.findIdx? fun w => qField w 1 1 = 1 && qField w 3 1 = buf

/-- A round lands in an engine's buffer and triggers the entry that consumes it (08 R198). -/
def landQuay (e : Engine) (b : Binding) (m : MergedOut) : Engine :=
  let buf := b.daddr.toNat
  match takeFirst (fun c : QCtx => c.vid = m.vid) e.ctxs with
  | none => e
  | some (c, rest) =>
    let c1 := { c with bufs := put {} c.bufs buf m.img, landed := addOnce buf c.landed }
    { e with ctxs := rest ++ [c1]
             queue := match bufEntry c buf with
               | some i => e.queue ++ [{ newRun m.vid i with buf := some m.img }]
               | none => e.queue }

/-- REDUCTION_LANDING: the merged image of a tag has landed at core u, or is handed to an engine. A result for a core that
has left its voyage is discarded (06 Table 6-10). -/
def execReductionLanding (u : Nat) (tag : BitVec 16) (s : State) : Out :=
  onUnit (decide (u < 5264)) <|
    let r := homeRouter s u
    match landedAt s r (attachPort s u r) tag with
    | none => s
    | some (m, rest) =>
      let s1 := s.updRouter r fun k => { k with outs := rest }
      match bindingOf s m.vid tag with
      | none => s1
      | some b =>
        if u < 5184 then
          let k := s1.core u
          if k.misc.vid ≠ m.vid || k.misc.scrubbing then s1
          else if redDone k tag then s1.setCore u (landCore k b m)
          else s
        else s1.updEngine (u - 5184) fun e => landQuay e b m

/-! ## Tag credits (07 R180) -/

/-- Contributions of an engine that wait and whose tag is free enter their trees. -/
def engineContribute (s : State) (m : Nat) (vid : BitVec 16) : State :=
  match takeFirst (fun c : QCtx => c.vid = vid) (s.engine m).ctxs with
  | none => s
  | some (c, rest) =>
    match takeFirst (fun t : RStream => decide (t.tag ∉ c.sent)) c.contribs with
    | none => s
    | some (t, waiting) =>
      match bindingOf s vid t.tag with
      | none => s
      | some b =>
        let c1 := { c with contribs := waiting, sent := c.sent ++ [t.tag] }
        let s1 := s.updEngine m fun e => { e with ctxs := rest ++ [c1] }
        contribute s1 (attachAt s (memUnit m) (destRouter s b)) (attachPort s (memUnit m) (destRouter s b)) vid t.tag (decide (t.tag ∈ c.round)) t.img

/-- A context whose sent mark of a tag is cleared. -/
def clearCtx (vid tag : BitVec 16) (dest : Bool) (c : QCtx) : QCtx :=
  if c.vid = vid && decide (tag ∈ c.sent) then
    { c with sent := without tag c.sent, round := if dest then c.round else toggle c.round tag }
  else c

/-- The sent marks of a tag are cleared at its contributors, and their round bits flip for the next
round; the destination's own has flipped when the round was consumed. -/
def clearMarks (s : State) (vid tag : BitVec 16) : State :=
  match bindingOf s vid tag with
  | none => s
  | some b =>
    let cs := (coreContribs b).map fun xy => coreAt s xy.1 xy.2
    let d := destUnit s b
    let s1 := cs.foldl (fun s c => s.updCore c fun k =>
      if k.misc.vid = vid && decide (tag ∈ k.sync.sent) then
        { k with sync := { k.sync with sent := without tag k.sync.sent
                                       round := if c = d then k.sync.round else toggle k.sync.round tag } }
      else k) s
    (quayContribs b).foldl (fun s m =>
      let s2 := s.updEngine m fun e => { e with ctxs := e.ctxs.map (clearCtx vid tag (memUnit m = d)) }
      engineContribute s2 m vid) s1

/-- TAG_CREDIT: the credit that unit u owes for a tag reaches its contributors. -/
def execTagCredit (u : Nat) (tag : BitVec 16) (s : State) : Out :=
  onUnit (decide (u < 5264)) <|
    if u < 5184 then
      let k := s.core u
      if tag ∈ k.sync.credits then
        clearMarks (s.setCore u { k with sync := { k.sync with credits := without tag k.sync.credits } }) k.misc.vid tag
      else s
    else
      let m := u - 5184
      match (s.engine m).ctxs.find? fun c => decide (tag ∈ c.credits) with
      | none => s
      | some c =>
        clearMarks (s.updEngine m fun e => { e with ctxs := e.ctxs.map fun x =>
          if x.vid = c.vid then { x with credits := without tag x.credits } else x }) c.vid tag

/-! ## Detours (07 R165 R174) -/

/-- Voyages that hold trees. -/
def treeVoyages (s : State) : List Nat :=
  (s.voyages.filter fun p => match p.2 with | some v => decide (v.st = vRunning ∨ v.st = vHeld ∨ v.st = vLoaded) | none => false).map (·.1)

/-- Packets under way to a unit that is sealed off are answered, each once (07 R165). -/
def answerSealed (s : State) : State :=
  let hit (q : InPkt) : Bool := q.pkt.dunit ≠ 7 && sealedOff s q.pkt.unit
  let ps := (s.routers.flatMap fun x => (x.2.pkts.filter hit).map fun q => (x.1, q.pkt))
  let once := ps.foldl (fun l x => if l.any fun y => decide (y.2 = x.2) then l else l ++ [x]) []
  let s1 := (s.routers.map (·.1)).foldl (fun t r => t.updRouter r fun k => { k with pkts := k.pkts.filter fun q => !hit q }) s
  once.foldl (fun t x => turnAway t x.1 x.2) s1

/-- DETOUR_PROGRAMMED: detour rules around dark basin b are programmed, the trees built again, and
the distance table republished. A voyage whose trees no longer fit is a loss of capacity: its
replay onto other basins or its hold is due (07 R174). -/
def execDetourProgrammed (b : Nat) (s : State) : Out :=
  onUnit (decide (b < basinCount)) <| if s.hm.hung.isSome then s else
    if !isDark s b || decide (b ∈ s.fabric.detours) then s
    else
      let s1 := answerSealed { s with fabric := { s.fabric with detours := s.fabric.detours ++ [b] } }
      let s2 := (treeVoyages s1).foldl (fun s v =>
        let t := replant s v
        if treesFit t then t else dueReplay s (BitVec.ofNat 16 v) 7) (raiseFab s1 7)
      republish s2

/-! ## The bank swap (07 R171 R172) -/

def ettStatusOff : Nat := fabBase + 8
def swapTickOff : Nat := fabBase + 0x10

/-- A bank of the table, replaced. -/
def setBank (s : State) (bank : Nat) (m : SMap (BitVec 64)) : State :=
  { s with fabric := if bank = 0 then { s.fabric with bank0 := m } else { s.fabric with bank1 := m } }
def bankMap (s : State) (bank : Nat) : SMap (BitVec 64) := if bank = 0 then s.fabric.bank0 else s.fabric.bank1

/-- The epoch before the active one. -/
def oldEpoch (s : State) : Nat := (ettEpoch s + 3) % 4

/-- Transfers of cores and engines and packets of the old epoch that have not completed, those queued at ports among them. -/
def oldCount (s : State) : Nat :=
  let o := BitVec.ofNat 2 (oldEpoch s)
  (s.cores.map fun p => ((craneEntries p.2).filter fun e => e.epoch = o).length).foldl (· + ·) 0 +
    (s.engines.map fun p => (p.2.running.filter fun r => r.epoch = o).length).foldl (· + ·) 0 +
    (s.routers.map fun p => (p.2.pkts.filter fun q => q.pkt.epoch = o).length).foldl (· + ·) 0 +
    (s.ports.map fun p => (p.2.outq.filter fun q => q.epoch = o).length).foldl (· + ·) 0

/-- ETT_SWAP_TICK: at T_s new translations use the new bank and the next epoch; an entry cached under that number four swaps ago is dropped. -/
def execEttSwapTick (s : State) : Out :=
  .next <|
    if ettState s = 1 ∧ (reg64 s swapTickOff).toNat ≤ s.tide.toNat then
      let s1 := putField (putField (putField s ettStatusOff 0 2 (ettEpoch s + 1)) ettStatusOff 2 1 (1 - ettBank s)) ettStatusOff 3 2 2
      { s1 with fabric := { s1.fabric with caches := s1.fabric.caches.filter fun c => decide (c.2.2.1.toNat ≠ ettEpoch s1) } }
    else s

/-- The reply body of ETT_SWAP: T_S and the new epoch. -/
def swapBody (s : State) : Bytes := leBytes 8 (reg64 s swapTickOff).toNat ++ leBytes 4 (ettEpoch s)

/-- The end of the message that asked for a swap: SET_PANEL_ID has no reply body, and the panel
number becomes the new one. -/
def endSwap (s : State) (status : Nat) : State :=
  match s.fabric.newPanel with
  | some p =>
    let s1 := { s with fabric := { s.fabric with newPanel := none, swapper := none } }
    finishOp (setReg s1 panelIdOff (p.setWidth 32)) s.fabric.swapper status 0 []
  | none => finishOp { s with fabric := { s.fabric with swapper := none } } s.fabric.swapper status 0 (swapBody s)

/-- ETT_DRAIN_COLLECT: the counts of the old epoch are collected; at zero the drain is complete,
SWAP_DONE is raised and the copy begins. -/
def execEttDrainCollect (s : State) : Out :=
  .next <|
    if ettState s ≠ 2 then s
    else
      let n := oldCount s
      let s1 := putField s ettStatusOff 8 24 (min n 0xFFFFFF)
      if n = 0 then
        let s2 := raiseFab (putField s1 ettStatusOff 3 2 3) 0
        endSwap { s2 with fabric := { s2.fabric with swapTimedOut := false } } stOk
      else s1

/-- SWAP_TIMEOUT: 10 ms after T_s the drain has not completed; ETT_SWAP is answered with TIMEOUT and
the drain goes on. -/
def execSwapTimeout (s : State) : Out :=
  .next <|
    if ettState s = 2 ∧ (reg64 s swapTickOff).toNat + 2500000 ≤ s.tide.toNat ∧ !s.fabric.swapTimedOut then
      let s1 := raiseFab { s with fabric := { s.fabric with swapTimedOut := true } } 1
      match s.fabric.swapper with
      | some a =>
        if s.fabric.newPanel.isSome then s1
        else if (s1.box a.mb).msg.isSome then reply s1 a.mb stTimeout 0 (swapBody s1) else s1
      | none => s1
    else s

/-- ETT_COPY_DONE: both banks are equal again. -/
def execEttCopyDone (s : State) : Out :=
  .next <| if s.hm.hung.isSome then s else
    if ettState s = 3 then putField (setBank s (1 - ettBank s) (bankMap s (ettBank s))) ettStatusOff 3 2 0 else s

end Sys2Proof.Machine
end

