-- ==== Sys2Proof/Machine/Launch.lean ====
section
/-! DEFINITION. How the cores and engines of a voyage start and restart: launch state (02 R23), mooring records (04 R110, 08 R208), positions and re-placement (13 R337), and the sites that spares take over (13 R333 R334). -/

namespace Sys2Proof.Machine

open Sys2Proof

/-! ## Positions -/

/-- The cores of a basin in row-major order. -/
def rowMajor (s : State) (b : Nat) : List Nat :=
  let cs := coresOfBasin s b
  (List.range 6).flatMap fun i => cs.filter fun c => coreY c % 6 = i

/-- The logical positions of basin b and the cores of basin r that take them (13 R337). -/
def spread (s : State) (b r : Nat) : List (Nat × Nat) := (rowMajor s b).zip (rowMajor s r)

/-- The CORE record of a logical position. -/
def coreRec (img : Image) (c : Nat) : Option CoreImg := img.cores.find? fun r => r.core = c

/-- The logical positions of a voyage on a set of basins: those of the basins themselves, and those
re-placed onto them. -/
def positions (s : State) (v : Voyage) (m : BitVec 24) : List Nat :=
  let re := v.moved.filter fun p => m.getLsbD (basinOf s p.2)
  re.map (·.1) ++ (coresOfBasins s m).filter fun c => !(v.moved.any fun p => decide (p.1 = c) || decide (p.2 = c))

/-- A core as it is given a logical position c: the position's home ID as its identity and its coordinates as
seed coordinates, where it is not its own (13 R337). -/
def atPlace (s : State) (c place : Nat) (k : Core) : Core :=
  if c = place then k
  else { k with misc := { k.misc with ident := some (homeId s c), seedXY := some (coreX c, coreY c) } }

/-- A core is given a logical position. -/
def takePlace (s : State) (c place : Nat) : State :=
  if c = place then s else s.updCore place (atPlace s c place)

/-! ## Cores -/

/-- A word of manifest memory. -/
def loadManifest (steps : List (BitVec 256)) : SMap (BitVec 256) := putList 0 [] 0 steps

/-- Endpoints as an image binds them. -/
def bindQ (r : CoreImg) : SMap QEnd :=
  putList {} [] 0 (r.qbind.map fun q => { bound := true, isOpen := q.1, limit := q.2 })

/-- The launch state of a core (02 Table 2-1). A core that no CORE record names counts as ended. -/
def launchCore (k : Core) (vid : BitVec 16) (seed : BitVec 64) (xy : Nat × Nat) (r : Option CoreImg) : Core :=
  let k0 := scrubbed k vid
  let misc := { k0.misc with gated := false }
  match r with
  | none => { k0 with sync := { run := .ended }, misc := misc }
  | some r =>
    { k0 with
      regs := { k0.regs with lfsr := seedLanes seed xy.1 xy.2 0 }
      seq := { mp := r.entry.setWidth 13, manifest := loadManifest r.steps }
      sync := { run := .running, q := bindQ r }
      misc := misc }

/-- A core restored to its mooring record (04 R110): the registers that a MOOR clears are clear, the
lanes are seeded with the record's ordinal. Tier S, CERR, the manifest and the endpoint kinds stay. -/
def restoreCore (k : Core) (rec : MoorRec) (seed : BitVec 64) (xy : Nat × Nat) : Core :=
  { k with
    regs := { p := rec.p, l := rec.l, f := put 0 [] 7 rec.f7, lfsr := seedLanes seed xy.1 xy.2 rec.ordinal,
              counters := k.regs.counters, ceCount := k.regs.ceCount }
    seq := { mp := rec.step, stack := rec.stack, manifest := k.seq.manifest, ordinal := rec.ordinal, lastMid := rec.mid,
             moor := some rec }
    crane := { cerr := k.crane.cerr }
    berths := { recs := putRange {} [] 0 (fun i => { lastGen := look 0 rec.lastGen i, hasLast := look false rec.hasLast i }) 16 }
    sync := { run := .running, q := k.sync.q.map fun e => (e.1, { e.2 with count := 0, out := 0 }) } }

/-- A core of a voyage at the start of a replay of ordinal `ord`, which does not scrub (06 R145): from its own record, or from its
shadow where `lost`; none where no record remains. A core that had ended before the join stays ended. -/
def backTo (s : State) (v : Voyage) (vid : BitVec 16) (c : Nat) (lost : Bool) : Option Core :=
  let k := s.core (placeOf v c)
  let xy := (coreX c, coreY c)
  let anew : Core := { launchCore k vid v.seed xy (coreRec v.img c) with tierS := k.tierS }
  if v.ordinal = 0 then some anew
  else
    let rec? := if lost then (s.router (shadowOf c)).shadow else k.seq.moor
    match rec? with
    | some r =>
      if r.ordinal = v.ordinal then
        (let k1 := if lost || k.seq.manifest.isEmpty then anew else k
         some (restoreCore k1 r v.seed xy))
      else some { k with sync := { run := .ended } }
    | none =>
      match coreRec v.img c with
      | none => some { k with sync := { run := .ended } }
      | some _ => none

/-! ## Engines -/

/-- An entry's fields (08 Table 8-7). -/
def qOp (e : BitVec 512) : Nat := qField e 0 1
def qTrig (e : BitVec 512) : Nat := qField e 1 1
def qChain (e : BitVec 512) : Bool := bitOf e.toNat 16
def qVerify (e : BitVec 512) : Bool := bitOf e.toNat 17

/-- LAUNCH entries of a context. -/
def launchEntries (c : QCtx) : List Nat := (c.entries.zipIdx.filter fun p => qTrig p.1 = 2).map (·.2)

/-- A voyage's context on an engine as its load leaves it. -/
def newCtx (vid : BitVec 16) (entries : List (BitVec 512)) : QCtx :=
  { vid := vid, entries := entries, lens := [], optR := [], optStep := [], bufs := [], landed := [],
    launchLeft := [], sent := [], round := [], credits := [], advance := [], contribs := [] }

/-- The engine with a context replaced. -/
def updCtx (e : Engine) (vid : BitVec 16) (g : QCtx → QCtx) : Engine :=
  { e with ctxs := e.ctxs.map fun c => if c.vid = vid then g c else c }

def ctxOf (e : Engine) (vid : BitVec 16) : Option QCtx := e.ctxs.find? fun c => c.vid = vid

/-- The launch state of a context: its LAUNCH entries are queued. -/
def launchCtx (e : Engine) (vid : BitVec 16) : Engine :=
  match ctxOf e vid with
  | none => e
  | some c =>
    let ls := launchEntries c
    let e1 := updCtx e vid fun c => { newCtx vid [] with entries := c.entries, launchLeft := ls }
    { e1 with queue := e1.queue.filter (·.vid ≠ vid) ++ ls.map (newRun vid), running := e1.running.filter (·.vid ≠ vid)
              moors := e1.moors.filter (·.vid ≠ vid) }

/-- A context restored to a quay mooring record: the buffers are empty (08 R208). -/
def restoreCtx (e : Engine) (vid : BitVec 16) : Engine :=
  match e.moors.find? fun m => m.vid = vid with
  | none => launchCtx e vid
  | some m =>
    let e1 := updCtx e vid fun c =>
      { newCtx vid [] with entries := c.entries, lens := m.lens, optR := m.optR, optStep := m.optStep }
    { e1 with queue := e1.queue.filter (·.vid ≠ vid), running := e1.running.filter (·.vid ≠ vid) }

/-- Engines with a context of a voyage. -/
def enginesOf (s : State) (vid : BitVec 16) : List Nat :=
  (s.engines.filter fun p => p.2.ctxs.any fun c => c.vid = vid).map (·.1)

/-- Generations of an engine's mooring record go back into the sets. -/
def restoreGens (s : State) (m : Nat) (vid : BitVec 16) : State :=
  match (s.engine m).moors.find? fun r => r.vid = vid with
  | none => s
  | some r => r.gens.foldl (fun s g => s.updRset g.1 fun t => { t with gen := g.2 }) s

def restoreEngines (s : State) (vid : BitVec 16) : State :=
  (enginesOf s vid).foldl (fun s m => (restoreGens s m vid).updEngine m fun e => restoreCtx e vid) s

/-! ## Spare sites (01 R12, 13 R333 R334) -/

/-- What belongs to a site and not to the work on it. -/
def withSite (k site : Core) : Core :=
  { k with tierS := site.tierS
           misc := { k.misc with patrol := site.misc.patrol, writebacks := site.misc.writebacks,
                                 failed := site.misc.failed, fenced := site.misc.fenced, switchOff := site.misc.switchOff } }

/-- The logical column at a site of a core row or a die row with a spared site. -/
def lcAt (spare site : Nat) : Nat := if site < spare then site else site - 1
def siteAt (spare lc : Nat) : Nat := if lc < spare then lc else lc + 1

/-- Whether the spare core of a core row of a die is unused. -/
def coreSpareFree (s : State) (row col cr : Nat) : Bool := decide ((row * 13 + col) * 6 + cr ∉ s.bring.usedCore)

/-- The spare core site of failed core c's core row takes over: the mapping of R12 with the failed
site as spared_core; every core that moves finds its new site as that site stands. -/
def spareCoreTakeover (s : State) (c : Nat) : State :=
  let row := coreY c / 6
  let ld := coreX c / 6
  let col := physCol s row ld
  let cr := coreY c % 6
  let key := (row * 13 + col) * 6 + cr
  let old := spareCore s row col cr
  let bad := siteAt old (coreX c % 6)
  let base := 72 * coreY c + 6 * ld
  let fresh : Core := {}
  let siteOf (lc : Nat) : Core :=
    let n := siteAt bad lc
    if n = old then fresh else s.core (base + lcAt old n)
  let s1 := (List.range 6).foldl (fun t lc =>
    if siteAt bad lc = siteAt old lc then t else t.setCore (base + lc) (withSite (s.core (base + lc)) (siteOf lc))) s
  topologyChanged { s1 with bring := { s1.bring with
    spareCore := put 6 s1.bring.spareCore key bad, usedCore := addOnce key s1.bring.usedCore
    failedCores := without c s1.bring.failedCores } }

/-- Whether the spare die of a row is unused. -/
def dieSpareFree (s : State) (row : Nat) : Bool := decide (row ∉ s.bring.usedSite)

/-- The cores of a logical die. -/
def coresOfDie (row ld : Nat) : List Nat := rectCores (6 * ld) (6 * ld + 5) (6 * row) (6 * row + 5)

/-- After a change of topology trees are built again for every voyage that holds some. -/
def replantAll (s : State) : State := topologyChanged ((treeVoyages s).foldl replant s)

/-- Logical die columns that the takeover of a row's spare site for column `ld` moves. -/
def movedDies (s : State) (row ld : Nat) : List Nat :=
  let old := spareSite s row
  let bad := siteAt old ld
  (List.range 12).filter fun l => siteAt bad l ≠ siteAt old l

/-- The spare die of a row takes over: R12 with the failed site as spared_site. -/
def spareDieTakeover (s : State) (row ld : Nat) : State :=
  let old := spareSite s row
  let bad := siteAt old ld
  let fresh : Core := {}
  let step (t : State) (l : Nat) : State :=
    let n := siteAt bad l
    (coresOfDie row l).foldl (fun t c =>
      t.setCore c (withSite (s.core c) (if n = old then fresh else s.core (c - 6 * l + 6 * lcAt old n)))) t
  let s1 := (movedDies s row ld).foldl step s
  replantAll { s1 with bring := { s1.bring with
    spareSite := put 6 s1.bring.spareSite row bad, usedSite := addOnce row s1.bring.usedSite
    failedCores := s1.bring.failedCores.filter fun c => decide (c ∉ coresOfDie row ld)
    failedDies := s1.bring.failedDies.filter fun d => decide (d ≠ (row, ld)) } }

/-! ## Re-placement rules (13 R337) -/

/-- The routers at the boundary of basin b, and its own while it is not dark; they lie in its row of dies, the router row above it and the one
below it. -/
def ruleRouters (s : State) (b : Nat) : List Nat :=
  ((List.range (72 * 8)).map (72 * (6 * (b / 2) - 1) + ·)).filter fun r => decide (r < coreCount) && !darkAt s r &&
    (decide (basinOf s r = b) || [2, 3, 4, 5].any fun o => match neighbour r o with | some n => decide (basinOf s n = b) | none => false)

/-- Router r takes rules, old place and new; packets that wait there and have not begun to leave are rewritten. -/
def takeRules (s : State) (l : List (Nat × Nat)) (r : Nat) : State :=
  let s1 := s.updRouter r fun k => { k with replace := k.replace.filter (fun x => !(l.any fun y => y.1 = x.1)) ++ l }
  s1.updRouter r fun k => { k with pkts := k.pkts.map fun q => if q.sent = 0 then { q with pkt := rehead s1 r q.pkt } else q }

/-- The positions of basin b lie at new places: rules that led to their old ones lead to these, and the routers around the basin take
theirs. -/
def programRules (s : State) (b : Nat) (l : List (Nat × Nat)) : State :=
  let old := (s.routers.filter fun p => p.2.replace.any fun x => l.any fun y => y.1 = x.2).map (·.1)
  let s1 := old.foldl (fun s r => s.updRouter r fun k =>
    { k with replace := k.replace.map fun x => match l.find? fun y => y.1 = x.2 with | some y => (x.1, y.2) | none => x }) s
  (ruleRouters s1 b).foldl (fun s r => takeRules s l r) s1

/-! ## Dark basins (01 R16, 13 R337) -/

/-- A core whose supply is off holds nothing; it stays in its voyage. -/
def darkCore (k : Core) : Core :=
  { misc := { k.misc with gated := true, scrubbing := false, writebacks := [] }
    sync := { run := if k.sync.run = .idle then .idle else .stopped }
    regs := { counters := k.regs.counters, ceCount := k.regs.ceCount } }

/-- Running voyages with a core in basin b. -/
def voyagesOn (s : State) (b : Nat) : List Nat :=
  (s.voyages.filter fun p => match p.2 with
    | some v => (decide (v.st = vRunning) || decide (v.st = vSaving)) &&
        (coresOf s (BitVec.ofNat 16 p.1)).any fun c => basinOf s c = b
    | none => false).map (·.1)

/-- PWR_DOMAIN_STATE.ON of domain d (12 Table 12-2). -/
def setDomain (s : State) (d : Nat) (on : Bool) : State := putField s (pwrBase + 0x30 + 4 * (d / 32)) (d % 32) 1 (b2n on)

/-- The routers around a basin that went dark: a packet whose tail had still to come out of it is lost, one that was on its way into it waits
whole at the boundary (07 R165). -/
def cutAt (dark : List Nat) (r : Nat) (k : Router) : Router :=
  let into (o : Nat) : Bool := match neighbour r o with | some n => decide (n ∈ dark) | none => false
  { k with pkts := (k.pkts.filter fun q => !(into q.inp && decide (q.got < flitsOf q.pkt))).map fun q =>
      match q.hop with
      | some h => if into h.1 && decide (q.sent < flitsOf q.pkt) then { q with sent := 0, hop := none } else q
      | none => q }

/-- A basin's compute domains are off: its cores and routers hold nothing, its memory interfaces stay powered. -/
def darken (s : State) (b : Nat) : State :=
  let cs := coresOfBasin s b
  let s1 := cs.foldl (fun s c => (s.updCore c darkCore).setRouter c {}) s
  let s2 := (s1.routers.map (·.1)).foldl (fun s r => s.updRouter r (cutAt cs r)) s1
  setDomain (setDomain { s2 with power := { s2.power with dark := addOnce b s2.power.dark } } b false) (24 + b) false

/-- Basin b goes dark until a full device reset, whatever has switched it off before (01 R16): its two domains are off, its cores, routers and
engines lose their supply, the memories keep their contents in self-refresh, and a re-placement or a hold is due for each voyage that
ran there. -/
def basinDark (s0 : State) (b : Nat) : State :=
  let s := { s0 with thermal := { s0.thermal with offBasins := without b s0.thermal.offBasins } }
  if isDark s b then s
  else
    let s1 := (voyagesOn s b).foldl (fun s v => dueReplay s (BitVec.ofNat 16 v) 7) s
    let s2 := ((List.range memCount).filter fun m => engineBasin m = b).foldl
      (fun s m => s.updEngine m fun e => { e with selfRefresh := true }) s1
    darken s2 b

end Sys2Proof.Machine
end

