-- ==== Sys2Proof/Machine/Replay.lean ====
section
/-! DEFINITION. Recovery of a voyage (13): stop and quiesce, replay from a mooring point (R330 to R332), spare takeover (R333 R334), re-placement (R337) and hold (R338), the soft save (09 R229), failed cores and dies (R327 R328), and the segment timeout (R339 to R342). -/

namespace Sys2Proof.Machine

open Sys2Proof

/-! ## Stop and quiesce (13 Table 13-2) -/

/-- Issued steps complete and the core stands at a step boundary. -/
def stopCore (k : Core) : Core :=
  let k1 := settleOps k
  { k1 with sync := { k1.sync with run := if k1.sync.run = .running then .stopped else k1.sync.run } }

/-- Crane entries that have not started are dropped, the others inject no more; waiting contributions
are dropped; every berth closes without a token. -/
def quietCore (k : Core) : Core :=
  let started := k.crane.queues.filterMap fun q =>
    let l := (q.2.filter fun e => decide (0 < e.next)).map fun e => { e with ended := true, suspended := false }
    if l = [] then none else some (q.1, l)
  { k with
    crane := { k.crane with queues := started }
    berths := { k.berths with recs := k.berths.recs.map (fun b => (b.1, { b.2 with isOpen := false })), drains := [] }
    seq := { k.seq with haz := [] }
    sync := { k.sync with rsends := [] } }

/-- Packets that a core's berth has accepted land, with their NOTIFY tokens, or are served. -/
def landAll (s : State) (c : Nat) : List LandSlot → State
  | [] => s
  | l :: r =>
    let s1 := if l.pkt.ty = 1 then readBack s c l (spadRead (s.core c) l.addr (pktBytes l.pkt))
      else answer (s.updCore c fun k => notifySlot (spadWrite k l.addr l.pkt.payload) l) c (coreId s c) l.pkt 0
    landAll s1 c r

/-- The landing buffer of a core empties. -/
def emptySlots (s : State) (c : Nat) : State :=
  (landAll s c (s.core c).berths.slots).updCore c fun k =>
    { k with berths := { k.berths with slots := [] }, cr := { k.cr with berth := none } }

/-- A core stops, drops what has not started and closes its berths. -/
def quiesceCore (s : State) (c : Nat) : State :=
  emptySlots (s.updCore c fun k => quietCore (stopCore k)) c

/-- Queued entries of a voyage are dropped and its running ones send no more. -/
def quiesceEngine (e : Engine) (vid : BitVec 16) : Engine :=
  { e with queue := e.queue.filter (·.vid ≠ vid)
           running := e.running.map fun r => if r.vid = vid then { r with done := true } else r }

/-- Stop and Quiesce of a voyage: the transfers that a fault has suspended are dropped, their fault time counts. -/
def quiesceVoyage (s : State) (vid : BitVec 16) : State :=
  let s1 := (coresOf s vid).foldl quiesceCore (countSuspended s vid)
  dropStreams ((enginesOf s1 vid).foldl (fun s m => s.updEngine m fun e => quiesceEngine e vid) s1) vid

/-- Every packet that the voyage's units have injected is answered. A core that has failed or is
dark injects nothing and is answered nothing. -/
def quiet (s : State) (vid : BitVec 16) : Bool :=
  ((coresOf s vid).all fun c =>
    (s.core c).misc.fenced || darkAt s c || (craneEntries (s.core c)).all fun e => decide (e.open_ = [])) &&
  (enginesOf s vid).all fun m => unreachable s (memUnit m) ||
    (s.engine m).running.all fun r => r.vid ≠ vid || decide (r.open_ = [])

/-! ## Restore -/

/-- Basins of a voyage's partition. -/
def basinsOf (s : State) (v : Voyage) : BitVec 24 :=
  match s.part v.pid with
  | some p => p.basins
  | none => 0

/-- The logical positions of a voyage in its partition. -/
def voyagePositions (s : State) (v : Voyage) : List Nat := positions s v (basinsOf s v)

/-- Positions whose core has failed, is dark or is not the voyage's. -/
def lostPositions (s : State) (v : Voyage) (vid : BitVec 16) : List Nat :=
  (voyagePositions s v).filter fun c =>
    let p := placeOf v c
    (s.core p).misc.failed || darkAt s p || (s.core p).misc.vid ≠ vid

/-- The cores of a voyage as its last mooring point leaves them; none where a record is missing. -/
def recordsOf (s : State) (v : Voyage) (vid : BitVec 16) (lost : List Nat) : Option (List (Nat × Core)) :=
  (voyagePositions s v).foldr (fun c acc =>
    match acc, backTo s v vid c (decide (c ∈ lost)) with
    | some l, some k => some ((c, k) :: l)
    | _, _ => none) (some [])

/-- Core k as it takes the restored state r of position c; what belongs to the site stays. -/
def restored (s : State) (vid : BitVec 16) (c place : Nat) (r k : Core) : Core :=
  { r with
    misc := { (atPlace s c place k).misc with vid := vid, gated := false, scrubbing := false }
    regs := { r.regs with counters := k.regs.counters, ceCount := k.regs.ceCount } }

/-- Cores take their restored state. -/
def placeCores (s : State) (v : Voyage) (vid : BitVec 16) (l : List (Nat × Core)) : State :=
  l.foldl (fun s p => s.updCore (placeOf v p.1) (restored s vid p.1 (placeOf v p.1) p.2)) s

/-! ## The soft save (09 R229 R230) -/

/-- A PARKED save segment of `len` bytes in Tier B, owned by the voyage; `data` are its bytes. -/
def saveSegment (s : State) (vid : Nat) (data : Bytes) (ms : List Nat) : State :=
  let len := (data.length + 65535) / 65536 * 65536
  let (s1, sid) := choose s 65535 (sidFree s)
  let (s2, place) := placeAmong s1 ms len
  match sid, place with
  | some i, some (m, b) =>
    let s3 := memWrite s2 m b data
    (s3.setSeg i { st := 3, tierB := true, mem := m - 72, gen := (s3.seg i).gen, owner := BitVec.ofNat 16 vid, base := b, len := len }).updVoyage
      vid fun v => { v with retained := i :: v.retained }
  | _, _ => s2

/-- The save is complete and logged (01 R22): the voyage is PREEMPTED, its cores are scrubbed, the message that asked is
answered with KIND. -/
def savedVoyage (s : State) (vid : Nat) (img : SaveImg) (kind : Nat) : State :=
  match s.voyage vid with
  | none => s
  | some v =>
    let id := BitVec.ofNat 16 vid
    let s1 := (coresOf s id).foldl foldCore s
    let s2 := s1.updVoyage vid fun v =>
      { v with st := vPreempted, save := some img, savePhase := 0, preempt := none, due := [], preempts := v.preempts + 1 }
    let s3 := (enginesOf s2 id).foldl (fun s m => s.updEngine m fun e =>
      { e with queue := e.queue.filter (·.vid ≠ id), running := e.running.filter (·.vid ≠ id) }) s2
    let s4 := sendToScrub (fellTrees (dropStreams s3 id) id) vid
    let s5 := logOpen (event s4 0x03 (some vid) stPreempted kind 0) { vid := id, ordinal := v.ordinal }
    finishOp s5 (match v.preempt with | some q => q.asker | none => none) stOk 0 [BitVec.ofNat 8 kind, 0, 0, 0]

/-- A voyage at a mooring point is saved from its records, 256 bytes for each core. A core without a
record ends the voyage with FAULTED (13 Table 13-14). -/
def softSave (s : State) (vid : Nat) : State :=
  let id := BitVec.ofNat 16 vid
  match s.voyage vid with
  | none => s
  | some v =>
    match recordsOf s v id (lostPositions s v id) with
    | none => voyageFaultBy s vid 0xFF
    | some l =>
      let s1 := restoreEngines s id
      let img : SaveImg := { hard := false, dtab := reg s (fabBase + 0x1C), basins := basinsOf s v, cores := l, streams := [], outs := [], moors := [], stores := [],
                             ctxs := (enginesOf s1 id).filterMap (fun m => (ctxOf (s1.engine m) id).map fun c => (m, c))
                             runs := [], parked := true }
      let n := 256 * (l.length + img.ctxs.length)
      let s2 := saveSegment { s1 with free := s1.free + n } vid (freeBytes s1.free n) [72, 73, 74, 75, 76, 77, 78, 79]
      savedVoyage s2 vid img 0

/-! ## Hold (13 R338, 08 R213) -/

/-- A voyage is held at its last mooring point. A pre-emption that waits saves it at once. -/
def holdVoyage (s : State) (vid status arg0 arg1 : Nat) : State :=
  match s.voyage vid with
  | none => s
  | some v =>
    if v.st ≠ vRunning ∧ v.st ≠ vSaving then s
    else
      let s1 := quiesceVoyage s (BitVec.ofNat 16 vid)
      let s2 := s1.updVoyage vid fun v => { v with st := vHeld, due := [], savePhase := 0, save := none }
      let s3 := event s2 0x08 (some vid) status arg0 arg1
      if v.preempt.isSome then softSave s3 vid else s3

/-! ## Spares in the Change phase (13 R333 R334) -/

/-- The row and logical column of a core's die. -/
def dieOf (c : Nat) : Nat × Nat := (coreY c / 6, coreX c / 6)
def dieKey (c : Nat) : Nat := 12 * (coreY c / 6) + coreX c / 6

/-- A failed die: its spare takes over, or its basin is powered down. -/
def changeDie (s : State) (row ld : Nat) : State :=
  if dieSpareFree s row then
    raiseFw (logFw (spareDieTakeover s row ld) 0x02 2 { unit := 72 * 6 * row + 6 * ld }) fwSpareUsed { unit := 72 * 6 * row + 6 * ld }
  else basinDark (raiseFw s fwSpareExhausted { unit := 72 * 6 * row + 6 * ld }) (basinOf s (72 * 6 * row + 6 * ld))

/-- A failed core: its spare takes over, or it is handled as a die failure. -/
def changeCore (s : State) (vid : Option Nat) (ordinal c : Nat) : State :=
  let row := coreY c / 6
  if coreSpareFree s row (physCol s row (coreX c / 6)) (coreY c % 6) then
    let s1 := spareCoreTakeover s c
    let s2 := event s1 0x07 vid stOk (basinOf s c) ordinal
    raiseFw (logFw s2 0x01 2 { unit := c }) fwSpareUsed { unit := c }
  else changeDie (raiseFw s fwDieFailed { unit := c }) row (coreX c / 6)

/-- The Change phase for the failed cores and dies: a die that lost three cores within the segment,
or was marked failed, is replaced whole (R328). -/
def changeAll (s : State) (vid : Option Nat) (ordinal : Nat) (fails : List Nat) (cs : List Nat) : State :=
  let s1 := (s.bring.failedDies.filter fun d => cs.any fun c => decide (dieOf c = d)).foldl (fun s d => changeDie s d.1 d.2) s
  cs.foldl (fun s c =>
    if !(s.core c).misc.failed || darkAt s c then s
    else if 3 ≤ (fails.filter (· = dieKey c)).length then changeDie (raiseFw s fwDieFailed { unit := c }) (dieOf c).1 (dieOf c).2
    else changeCore s vid ordinal c) s1

/-! ## Replay (13 R331 R332) -/

/-- Log data of a replay cause. -/
def causeData (cause : Nat) : BitVec 256 := BitVec.ofNat 256 cause

/-- Restore and Release: every core and engine of the voyage goes back to the last mooring point. -/
def restoreVoyage (s : State) (vid cause : Nat) (lost : List Nat) : State :=
  let id := BitVec.ofNat 16 vid
  match s.voyage vid with
  | none => s
  | some v =>
    match recordsOf s v id lost with
    | none => voyageFaultBy s vid 0xFF
    | some l =>
      let s1 := restoreEngines (placeCores s v id l) id
      let s2 := s1.updVoyage vid fun v =>
        { v with due := [], replays := v.replays + 1, ordReplays := v.ordReplays + 1
                 ordTimeouts := v.ordTimeouts + b2n (decide (cause = 5)), segStart := s.tide.toNat, savePhase := 0 }
      let s3 := event s2 0x05 (some vid) stOk v.ordinal.toNat cause
      raiseFw (logFw s3 0x03 2 { vid := id, ordinal := v.ordinal, data := causeData cause }) fwReplay { vid := id, ordinal := v.ordinal }

/-- A voyage may not be replayed again at its ordinal. -/
def replaysOut (v : Voyage) (cause : Nat) : Bool :=
  decide (3 ≤ v.ordReplays) || (decide (cause = 5) && decide (1 ≤ v.ordTimeouts))

/-- REPLAY: a due replay runs. It waits at Quiesce until every injected packet is answered; a basin
that went dark is for REPLACED or CAPACITY_LOST. A hard save that a failure stops ends as a save of
the mooring records (R351). -/
def execReplay (vid : Nat) (cause : BitVec 8) (s : State) : Out :=
  .next <|
    let id := BitVec.ofNat 16 vid
    match s.voyage vid with
    | none => s
    | some v =>
      if (v.st ≠ vRunning ∧ v.st ≠ vSaving) ∨ cause ∉ v.due ∨ s.hm.hung.isSome ∨ 7#8 ∈ v.due then s
      else
        let s1 := quiesceVoyage s id
        if !quiet s1 id then s1
        else if 0 < v.savePhase then
          softSave (changeAll s1 (some vid) v.ordinal.toNat v.coreFails (coresOf s1 id)) vid
        else if replaysOut v cause.toNat then voyageFaultBy s1 vid cause.toNat
        else
          let lost := lostPositions s1 v id
          let s2 := changeAll s1 (some vid) v.ordinal.toNat v.coreFails (coresOf s1 id)
          match s2.voyage vid with
          | some v2 => if 7#8 ∈ v2.due then s2 else restoreVoyage s2 vid cause.toNat lost
          | none => s2

/-! ## Failed cores and dies (13 R327 R328) -/

/-- Whether a core belongs to a voyage that a replay will restore. -/
def inRun (s : State) (c : Nat) : Bool :=
  match s.voyage (s.core c).misc.vid.toNat with
  | some v => decide (v.st = vRunning) || decide (v.st = vSaving)
  | none => false

/-- CORE_FAILED: a router's checkers see core c fail. Outside a running voyage the spare takes over
at once; within one, in the Change phase of its replay. -/
def execCoreFailed (c : Nat) (s : State) : Out :=
  onUnit (decide (c < coreCount)) <|
    let s1 := if (s.core c).misc.failed then s
      else (failCore s c).updVoyage (s.core c).misc.vid.toNat fun v => { v with coreFails := dieKey c :: v.coreFails }
    if inRun s c then s1 else changeCore s1 none 0 c

/-- Slots of a core whose Tier S can no longer be reached are answered with UNREACHABLE (06 R148). -/
def refuseSlots (s : State) (c : Nat) : List LandSlot → State
  | [] => s
  | l :: r => refuseSlots (answer s c (coreId s c) l.pkt 6) c r

/-- SCRUB_TIMEOUT: a core that has not reported within 8,192 cc is marked failed (06 R148): it leaves its voyage, its berths
and its landing buffer are closed, and its spare takes over. -/
def execScrubTimeout (c : Nat) (s : State) : Out :=
  let k := s.core c
  onUnit (decide (c < coreCount)) <|
    if !k.misc.scrubbing || decide (s.cc ≤ k.misc.scrubFrom + 8192) then s
    else
      let s1 := failCore (s.setCore c { k with berths := { arrivals := k.berths.arrivals }, cr := {}
                                               misc := { k.misc with scrubbing := false, vid := noVoyage } }) c
      changeCore (refuseSlots s1 c k.berths.slots) none 0 c

/-- A compute die has failed: its cores stop and are fenced, its shadow stores are lost; its spare takes over at once, or in the
Change phase of the voyages that run there. -/
def failDie (s : State) (row ld : Nat) : State :=
  let cs := coresOfDie row ld
  let s1 := cs.foldl (fun s c => (s.updCore c fun k =>
    { k with sync := { k.sync with run := if k.sync.run = .running then .stopped else k.sync.run }
             misc := { k.misc with failed := true, fenced := true } }).updRouter c fun k => { k with shadow := none }) s
  let s2 := raiseFw { s1 with bring := { s1.bring with failedDies := addOnce (row, ld) s1.bring.failedDies } } fwDieFailed
    { unit := 72 * 6 * row + 6 * ld }
  let vids := ((movedDies s row ld).flatMap (coresOfDie row)).foldl (fun l c =>
    if inRun s c then addOnce (s.core c).misc.vid l else l) ([] : List (BitVec 16))
  if vids = [] then changeDie s2 row ld else vids.foldl (fun s v => dueReplay s v 2) s2

/-- DIE_FAILED: the harbour master treats a compute die as failed. -/
def execDieFailed (row ld : Nat) (s : State) : Out :=
  onUnit (decide (row < 12) && decide (ld < 12)) (failDie s row ld)

/-! ## Re-placement (13 R337, 12 R296) -/

/-- The reserve that a voyage's RELOC section names for a basin. -/
def reserveFor (v : Voyage) (b : Nat) : Option Nat := (v.img.reloc.find? fun r => r.1.toNat = b).map (·.2.toNat)

/-- Whether the work of basin b of a voyage may move to basin r: it is held in reserve, not dark and large enough, and every
mooring record is at hand. -/
def mayMove (s : State) (v : Voyage) (vid : BitVec 16) (b r : Nat) : Bool :=
  (match s.part v.pid with | some p => p.reserve.getLsbD r | none => false) && !isDark s r &&
  decide ((coresOfBasin s b).length ≤ (coresOfBasin s r).length) &&
  (recordsOf s v vid (lostPositions s v vid)).isSome

/-- Positions of basin b go to their new places: each core there takes the position's identity and its record, and waits. -/
def carryRecords (s : State) (v new : Voyage) (vid : BitVec 16) (cs : List Nat) : State :=
  let lost := lostPositions s v vid
  cs.foldl (fun t c =>
    match backTo s v vid c (decide (c ∈ lost)) with
    | some k =>
      t.updCore (placeOf new c) fun site =>
        let k1 := restored t vid c (placeOf new c) { k with tierS := site.tierS } site
        { k1 with sync := { k1.sync with run := if k1.sync.run = .running then .stopped else k1.sync.run } }
    | none => t) s

/-- The voyage with basin b's positions on basin r's cores, in row-major order; the cores that it leaves scrub unless they are dark (06 R145). -/
def moveBasin (s : State) (vid b r : Nat) : State :=
  match s.voyage vid with
  | none => s
  | some v =>
    let id := BitVec.ofNat 16 vid
    let sp := spread s b r
    let moved := (v.moved.filter fun p => decide (basinOf s p.2 ≠ b)) ++
      (v.moved.filter fun p => decide (basinOf s p.2 = b)).map (fun p =>
        (p.1, match sp.find? fun x => x.1 = p.2 with | some x => x.2 | none => p.2)) ++
      sp.filter fun x => !(v.moved.any fun p => decide (p.2 = x.1))
    let new := { v with moved := moved }
    let old := (coresOfBasin s b).filter fun c => (s.core c).misc.vid = id
    let s1 := carryRecords s v new id ((voyagePositions s v).filter fun c => decide (basinOf s (placeOf v c) = b))
    let bit (i : Nat) : BitVec 24 := BitVec.ofNat 24 (2 ^ i)
    let s2 := s1.setVoyage vid (some new)
    let s3 := match s2.part v.pid with
      | some p => s2.setPart v.pid (some { p with
          basins := p.basins ||| bit r, reserve := p.reserve &&& ~~~(bit r), scrubbing := p.scrubbing || !isDark s b })
      | none => s2
    let s4 := updCores s3 old fun k =>
      let k1 := if isDark s b then { k with sync := { run := .idle } } else stopForScrub s.cc k
      { k1 with misc := { k1.misc with vid := noVoyage, ident := none, seedXY := none } }
    programRules s4 b sp

/-! ## The segment timeout and the compute-part reset (13 R339 to R342) -/

/-- The compute-part reset of a voyage's partition: its cores are scrubbed in place, their records
having been collected, its trees cleared and built again for the replay, its contexts restored. -/
def computePartReset (s : State) (vid : Nat) : State :=
  let id := BitVec.ofNat 16 vid
  let s1 := quiesceVoyage s id
  let s2 := (coresOf s1 id).foldl (fun s c =>
    let m := (s.core c).seq.moor
    let ended := decide ((s.core c).sync.run = .ended)
    (scrubCore (foldCore s c) c id).updCore c fun k =>
      { k with seq := { k.seq with moor := m }, sync := { k.sync with run := if ended then .ended else .stopped } }) s1
  let s3 := replant (restoreEngines s2 id) vid
  let s4 := (enginesOf s3 id).foldl (fun s m => s.updEngine m fun e => { e with queue := e.queue.filter (·.vid ≠ id) }) s3
  raiseFw (logFw s4 0x0A 2 { vid := id }) fwPartReset { vid := id }

/-- SEG_TIMEOUT: the voyage has not reached its next mooring point, or the END of every core, within
STMO. A replay suspends it (13 Table 13-14). -/
def execSegTimeout (vid : Nat) (s : State) : Out :=
  .next <|
    let id := BitVec.ofNat 16 vid
    match s.voyage vid with
    | none => s
    | some v =>
      if (v.st ≠ vRunning ∧ v.st ≠ vSaving) ∨ v.segHeld ∨ 0 < v.savePhase ∨ v.due ≠ [] ∨ s.hm.hung.isSome ∨
          s.tide.toNat ≤ v.segStart + v.stmo then s
      else
        let info : LogInfo := { vid := id, ordinal := v.ordinal }
        let s1 := raiseFw (event s 0x0B (some vid) stTimeout v.ordinal.toNat 0) fwSegTimeout info
        let s2 := computePartReset (writeDump (logFw s1 0x0F 2 info) 2 (some vid)) vid
        if replaysOut v 5 then voyageFaultBy s2 vid 5
        else s2.updVoyage vid fun v => { v with due := addOnce 5 v.due }

end Sys2Proof.Machine
end

