-- ==== Sys2Proof/Machine/Memory.lean ====
section
/-! DEFINITION. The memories of the quay and bulk quay dies (08 R188 to R193) and the geometry of replica sets (08 R209 to R213): blocks, check records, suspect blocks, packets served, refresh and patrol. -/

namespace Sys2Proof.Machine

open Sys2Proof

/-! ## Replica sets (08 R210) -/

/-- Bytes of a phase of a set, and blocks of 64 KiB. -/
def phaseBytes (t : RepSet) : Nat := t.dlen + t.dlen / 4096
def phaseBlocks (t : RepSet) : Nat := t.dlen / 65536
def blockBytes : Nat := 65536

/-- Copies of a set that are present: number and SID, in copy order. -/
def copiesOf (t : RepSet) : List (Nat × Nat) := (t.seg.zipIdx.filter fun p => p.1 ≠ 0xFFFF).map fun p => (p.2, p.1)

/-- Memory and byte address of block b's data (b counts through the phases) and of its record, in the
copy that a segment holds. -/
def blockAt (s : State) (t : RepSet) (sid b : Nat) : Nat × Nat :=
  let r := s.seg sid
  (memOf r.tierB r.mem, r.base + b / phaseBlocks t * phaseBytes t + b % phaseBlocks t * blockBytes)
def recordAt (s : State) (t : RepSet) (sid b : Nat) : Nat × Nat :=
  let r := s.seg sid
  (memOf r.tierB r.mem, r.base + b / phaseBlocks t * phaseBytes t + t.dlen + 16 * (b % phaseBlocks t))

/-- The block that an offset of a copy segment lies in, data or record. -/
def blockOfOff (t : RepSet) (off : Nat) : Nat :=
  let o := off % phaseBytes t
  off / phaseBytes t * phaseBlocks t + (if o < t.dlen then o / blockBytes else (o - t.dlen) / 16)

/-- A check record: GEN and the CRC-64 of the block's data folded with its offset and GEN. -/
def checkRecord (t : RepSet) (b : Nat) (gen : BitVec 16) (data : Bytes) : Bytes :=
  leBytes 2 gen.toNat ++ zeros 6 ++ leBytes 8 (checkOf 3 (b % phaseBlocks t * blockBytes) gen data).toNat

/-- A copy's block, its record, and its generation. -/
def blockData (s : State) (t : RepSet) (sid b : Nat) : Bytes := let a := blockAt s t sid b; memRead s a.1 a.2 blockBytes
def blockRecord (s : State) (t : RepSet) (sid b : Nat) : Bytes := let a := recordAt s t sid b; memRead s a.1 a.2 16
def blockGen (s : State) (t : RepSet) (sid b : Nat) : BitVec 16 := BitVec.ofNat 16 (fieldAt (blockRecord s t sid b) 0 2)

/-- The blocks of a range of a memory whose code holds an error: key and error. -/
def errsIn (s : State) (m a n : Nat) : List (Nat × BlockErr) :=
  s.ueBlocks.filter fun p => decide (memKey m (a / 64 * 64) ≤ p.1) && decide (p.1 < memKey m (a + n))

/-- An error that the code only detects. -/
def isUe (e : BlockErr) : Bool := e = .ue || e = .stuck

/-- Whether a range of a memory holds an uncorrectable block. -/
def ueIn (s : State) (m a n : Nat) : Bool := (errsIn s m a n).any fun p => isUe p.2

/-- The errors of a range that has been written whole are gone, but for those of a row that does not hold what is written. -/
def clearUe (s : State) (m a n : Nat) : State :=
  { s with ueBlocks := s.ueBlocks.filter fun p => !(decide (memKey m a ≤ p.1) && decide (p.1 + 64 ≤ memKey m (a + n))) || p.2 = .stuck }

/-- A write of a memory: the bytes, and blocks of 64 bytes that it covers carry valid codes. -/
def store (s : State) (m a : Nat) (b : Bytes) : State := memWrite (clearUe s m a b.length) m a b

/-- A copy's block is intact (08 R210). -/
def intact (s : State) (t : RepSet) (sid b : Nat) : Bool :=
  let a := blockAt s t sid b
  let r := recordAt s t sid b
  !unreachable s (memUnit a.1) && !ueIn s a.1 a.2 blockBytes && !ueIn s r.1 r.2 16 &&
    decide (blockRecord s t sid b = checkRecord t b (blockGen s t sid b) (blockData s t sid b))

/-- The set and copy that hold a byte of a memory: RSID, set, SID, offset in the copy. -/
def copyAt (s : State) (m a : Nat) : Option (Nat × RepSet × Nat × Nat) :=
  match (segsIn s m).find? fun p => decide (p.2.base ≤ a) && decide (a < p.2.base + p.2.len) with
  | none => none
  | some (sid, r) =>
    match s.rset r.rsid.toNat with
    | some t => if sid ∈ t.seg ∧ 0 < t.dlen then some (r.rsid.toNat, t, sid, a - r.base) else none
    | none => none

/-- Whether a range touches a block that is suspect (08 R213). -/
def suspectAt (s : State) (m a n : Nat) : Bool :=
  match copyAt s m a with
  | none => false
  | some (_, t, _, off) => t.suspects.any fun x =>
      decide (blockOfOff t off ≤ x.block) && decide (x.block ≤ blockOfOff t (off + n - 1))

/-- The generation that a write of a phase belongs to: the current one, or the next in the phase
that OPT and COPY write (08 R206). -/
def genOfPhase (t : RepSet) (p : Nat) : BitVec 16 :=
  if t.phases = 2 ∧ p ≠ t.gen.toNat % 2 then t.gen + 1 else t.gen

/-- The blocks of a set whose last byte lies among n bytes from offset `off` of a copy. -/
def blocksEnding (t : RepSet) (off n : Nat) : List Nat :=
  (List.range t.phases).flatMap fun p =>
    let i0 := min (off - p * phaseBytes t) t.dlen / blockBytes
    let i1 := min (off + n - p * phaseBytes t) t.dlen / blockBytes
    (List.range (i1 - i0)).map fun i => p * phaseBlocks t + i0 + i

/-- The records of the check blocks that a write completes, those whose last byte it writes: the writer of a replica set computes them
(08 R210), and such a block is lost no more. -/
def sealBlocks (s : State) (m a n : Nat) : State :=
  match copyAt s m a with
  | none => s
  | some (rsid, t, sid, off) =>
    (blocksEnding t off n).foldl (fun s b =>
      let r := recordAt s t sid b
      (store s r.1 r.2 (checkRecord t b (genOfPhase t (b / phaseBlocks t)) (blockData s t sid b))).updRset rsid fun t =>
        if b ∈ t.lost then { t with lost := without b t.lost } else t) s

/-- A write into a memory and the records that it completes. -/
def memStore (s : State) (m a : Nat) (b : Bytes) : State := sealBlocks (store s m a b) m a b.length

/-! ## Errors (08 R190 R191) -/

/-- HM_MIF_CE_COUNT and HM_MIF_UE_COUNT of a memory's group. -/
def mifOff (m : Nat) : Nat := hmBase + 0x2000 + 0x40 * mifOf m
def countCe (s : State) (m : Nat) : State := countField s (mifOff m + 8) 0 32 1
def countUe (s : State) (m : Nat) : State := countField s (mifOff m + 12) 0 16 1
def countFail (s : State) (m : Nat) : State := countField s (mifOff m + 12) 16 16 1

/-- An uncorrectable block is counted and raised, and remembered for the rule of 1 s (13 R335). -/
def noteMemUe (s : State) (m a : Nat) : State :=
  let s1 := s.updEngine m fun e =>
    { e with ueSeen := ((a / 64, s.tide.toNat) :: e.ueSeen.filter fun p => decide (p.1 ≠ a / 64)).filter fun p =>
        decide (s.tide.toNat < p.2 + 250000000) }
  raiseMif (countUe s1 m) m 1

/-- How bad an error is. -/
def errRank : BlockErr → Nat
  | .good => 0
  | .ce => 1
  | .ue => 2
  | .stuck => 3

/-- Errors arise in the memories; an error does not undo a worse one. -/
def plant (s : State) (errs : List MemErr) : State :=
  errs.foldl (fun s e =>
    let k := memKey e.m (64 * e.block)
    if e.m < memCount ∧ 64 * e.block < memSize e.m ∧ errRank (look .good s.ueBlocks k) < errRank e.err then
      { s with ueBlocks := put .good s.ueBlocks k e.err }
    else s) s

/-- The correctable blocks of a range are corrected and written back, each counted (08 R190). -/
def correctMem (s : State) (m a n : Nat) : State :=
  ((errsIn s m a n).filter fun p => p.2 = .ce).foldl (fun s p =>
    raiseMif (countCe { s with ueBlocks := put .good s.ueBlocks p.1 .good } m) m 0) s

/-- The uncorrectable blocks of a range: their addresses. -/
def uesIn (s : State) (m a n : Nat) : List Nat := ((errsIn s m a n).filter fun p => isUe p.2).map fun p => p.1 - memKey m 0

/-- A memory reads a range without a refetch: correctable blocks are corrected, uncorrectable ones counted (08 R190 R191). -/
def readRaw (s : State) (m a n : Nat) : State := (uesIn s m a n).foldl (fun s x => noteMemUe s m x) (correctMem s m a n)

/-- What has been rewritten is read back: a row that does not hold it gets soft post-package repair and is written again (08 R191). -/
def readBackRow (s : State) (m a n : Nat) : State :=
  ((errsIn s m a n).filter fun p => p.2 = .stuck).foldl (fun s p =>
    raiseMif (({ s with ueBlocks := put .good s.ueBlocks p.1 .good }).updEngine m fun e =>
      { e with repaired := addOnce ((p.1 - memKey m 0) / 64) e.repaired }) m 11) s

/-- A range is rewritten and read back. -/
def rewrite (s : State) (m a : Nat) (b : Bytes) : State := readBackRow (store s m a b) m a b.length

/-- A block and its record are written into a copy and read back (08 R212). -/
def writeBlock (s : State) (t : RepSet) (sid b : Nat) (data record : Bytes) : State :=
  let a := blockAt s t sid b
  let r := recordAt s t sid b
  rewrite (rewrite s a.1 a.2 data) r.1 r.2 record

/-- The next copies of a copy, in copy order. -/
def nextCopies (t : RepSet) (sid : Nat) : List Nat :=
  let l := (copiesOf t).map (·.2)
  let i := l.findIdx fun x => x = sid
  l.drop (i + 1) ++ l.take i

/-- The first of the copies that reads 64 bytes at an offset: where they lie. -/
def nextRead (s : State) (off : Nat) : List Nat → State × Option (Nat × Nat)
  | [] => (s, none)
  | sid :: l =>
    let r := s.seg sid
    let m := memOf r.tierB r.mem
    if unreachable s (memUnit m) then nextRead s off l
    else
      let s1 := readRaw s m (r.base + off) 64
      if ueIn s m (r.base + off) 64 then nextRead s1 off l else (s1, some (m, r.base + off))

/-- A block that reads uncorrectable is counted and raised; one of a copy is rewritten from the next copy that reads (08 R191). The answer
tells whether it was. -/
def refetch (s : State) (m a : Nat) : State × Bool :=
  let s1 := noteMemUe s m a
  match copyAt s1 m a with
  | none => (s1, false)
  | some (_, t, sid, off) =>
    match nextRead s1 off (nextCopies t sid) with
    | (s2, none) => (s2, false)
    | (s2, some (m', a')) => (rewrite s2 m a (memRead s2 m' a' 64), true)

/-- Whether a range touches a block of which no copy is intact (08 R212). -/
def lostIn (s : State) (m a n : Nat) : Bool :=
  match copyAt s m a with
  | none => false
  | some (_, t, _, off) => t.lost.any fun b => decide (blockOfOff t off ≤ b) && decide (b ≤ blockOfOff t (off + n - 1))

/-- A memory reads a range that is to be served (08 R190 R191): every correctable block is corrected, every uncorrectable one
refetched. The answer tells whether the range may be served. -/
def readMem (s : State) (m a n : Nat) : State × Bool :=
  let s0 := correctMem s m a n
  if lostIn s0 m a n then (noteMemUe s0 m (a / 64 * 64), false)
  else (uesIn s0 m a n).foldl (fun x b => let (t, ok) := refetch x.1 m b; (t, x.2 && ok)) (s0, true)

/-- A packet or a range is answered with UNCORRECTABLE (08 R191). -/
def noteFail (s : State) (m : Nat) : State := raiseMif (countFail s m) m 2

/-! ## MEMORY_ACCESS -/

/-- REF of a memory packet: its byte address (07 Table 7-6). -/
def memAddr (p : Packet) : Nat := p.ref.toNat % 2 ^ 38

/-- Whether a request from another panel lies in the current generation of an exported set (08 R216). -/
def exportOk (s : State) (m : Nat) (p : Packet) : Bool :=
  match copyAt s m (memAddr p) with
  | some (_, t, _, off) => p.ty = 1 && t.exported && t.ready && decide (off / phaseBytes t = t.gen.toNat % t.phases) &&
      decide ((off + pktBytes p - 1) / phaseBytes t = off / phaseBytes t)
  | none => false

/-- Whether a packet comes from another panel. -/
def foreign (s : State) (p : Packet) : Bool := decide (p.src.toNat / 8192 ≠ panelId s) && (unitOfId s p.src).isNone

/-- The data of a read, back to its source. -/
def memReply (s : State) (m : Nat) (p : Packet) : State :=
  sendBack s (memUnit m) (mkPkt 2 p.src (homeId s (memUnit m)) (256 * (pidxOf p).toNat) p.xq false
    (memRead s m (memAddr p) (pktBytes p)))

/-- Whether a packet is one that the memory serves now. A WRITE to a block under the procedure of 08 R213 waits as a READ_REQ does, which
the spec states for reads and for BAR2 only (DESIGN CHOICE, log entry 32). -/
def servable (s : State) (m : Nat) (p : Packet) : Bool :=
  (p.ty = 0 || p.ty = 1) && !suspectAt s m (memAddr p) (pktBytes p)

/-- A read of a packet is answered with its data, or with UNCORRECTABLE. -/
def serveRead (s : State) (m : Nat) (p : Packet) : State :=
  match readMem s m (memAddr p) (pktBytes p) with
  | (s1, true) => memReply s1 m p
  | (s1, false) => answer (noteFail s1 m) (memUnit m) (homeId s (memUnit m)) p 8

/-- MEMORY_ACCESS: memory m serves its first packet that no suspect block holds. `errs` are the errors that have arisen in the
memories. -/
def execMemoryAccess (m : Nat) (errs : List MemErr) (s : State) : Out :=
  onUnit (decide (m < memCount)) <|
    let s0 := plant s errs
    let e := s0.engine m
    let id := homeId s0 (memUnit m)
    if unreachable s0 (memUnit m) then s0
    else
      match takeFirst (servable s0 m) e.memIn with
      | none => s0
      | some (p, rest) =>
        let s1 := s0.setEngine m { e with memIn := rest }
        if memSize m < memAddr p + pktBytes p then answer s1 (memUnit m) id p 3
        else if foreign s0 p && !exportOk s0 m p then answer s1 (memUnit m) id p 2
        else if p.ty = 0 then answer (memStore s1 m (memAddr p) p.payload) (memUnit m) id p 0
        else serveRead s1 m p

/-! ## Refresh, temperature, patrol (08 R192 R193, 12 R320) -/

/-- REFRESH: a row of memory m is refreshed. In self-refresh the memory does it alone. -/
def execRefresh (m row : Nat) (s : State) : Out :=
  onUnit (decide (m < memCount)) <|
    if (s.engine m).selfRefresh then s
    else s.updEngine m fun e => { e with refreshed := put 0 e.refreshed row s.tide.toNat }

/-- The tick from which a power-up's doubled rate has ended at a memory (12 R320). -/
def settleTick (s : State) (e : Engine) : Nat := if e.settled = 0 then s.tide.toNat + 60 * 250000000 else e.settled

/-- The refresh interval of a memory in milliseconds at tick t: 16 above 85 degrees, else 32 (08 R192), at twice the rate until the
temperature history of a power-up is established (12 R320). -/
def refreshMs (e : Engine) (t : Nat) : Nat :=
  (if e.hot then 16 else 32) / (if e.settled = 0 || decide (t < e.settled) then 2 else 1)

/-- STACK_TEMP_READ: the temperature sets the interval; a change of it raises REFRESH_HOT. The first reading starts the 60 s after which the
doubled rate of a power-up ends. -/
def execStackTempRead (m : Nat) (temp : Int) (s : State) : Out :=
  onUnit (decide (m < memCount)) <|
    let e := s.engine m
    let e1 := { e with temp := temp, hot := decide (8500 < temp), settled := settleTick s e }
    let ms := refreshMs e1 s.tide.toNat
    let s1 := s.setEngine m { e1 with interval := ms }
    if ms = e.interval then s1 else raiseMif s1 m 4

/-- The patrol finds an uncorrectable block: it is repaired from another copy, or recorded (08 R193). -/
def patrolUe (s : State) (m a : Nat) : State :=
  match refetch s m a with
  | (s1, true) => raiseMif s1 m 7
  | (s1, false) => raiseMif (logFw s1 0x0D 3 { unit := memUnit m, data := BitVec.ofNat 256 (a / 64) }) m 3

/-- MEMORY_PATROL: the patrol reads memory m's next block of 64 bytes. `errs` are the errors that have arisen in the memories. -/
def execMemoryPatrol (m : Nat) (errs : List MemErr) (s : State) : Out :=
  onUnit (decide (m < memCount)) <|
    let s0 := plant s errs
    let e := s0.engine m
    if e.selfRefresh || e.lost then s0
    else
      let a := 64 * e.patrol
      let s1 := s0.setEngine m { e with patrol := (e.patrol + 1) % (memSize m / 64) }
      if ueIn s1 m a 64 then patrolUe s1 m a else correctMem s1 m a 64

end Sys2Proof.Machine
end

