-- ==== Sys2Proof/Machine/Quay.lean ====
section
/-! DEFINITION. The quay engines (08 R195 to R207): triggers, the start and the end of entries, and the operations of Table 8-9. A command of an operation runs one packet of GATHER, STREAM, MIGRATE and COPY, and the whole of the others. -/

namespace Sys2Proof.Machine

open Sys2Proof

/-! ## Triggers (08 R198) -/

/-- Voyages whose units are stopped: a replay is due or a hard save has quiesced them. -/
def unitsStopped (s : State) (vid : BitVec 16) : Bool :=
  match s.voyage vid.toNat with
  | some v => decide (v.due ≠ []) || decide (2 ≤ v.savePhase) || decide (v.st = vHeld)
  | none => true

/-- QDONE (07 Table 7-6): index, PIDX and the status. -/
def qdone (s : State) (m idx : Nat) (dst : BitVec 21) (xq : BitVec 3) (pidx : BitVec 10) (st : Byte) : State :=
  sendBack s (memUnit m) { mkPkt 6 dst (homeId s (memUnit m)) (idx + 2 ^ 16 * pidx.toNat) xq false [] with qst := st }

/-- The core whose command a QCMD packet belongs to, and its descriptor. -/
def commander (s : State) (p : Packet) : Option (Nat × BitVec 320) :=
  match unitOfId s p.src with
  | some u =>
    if u < 5184 then
      (entryWhere (fun e => !e.push && dOp e.desc = 3 && decide (e.issued = p.xid) && decide (e.open_ ≠ [])) (queueOf (s.core u) p.xq.toNat)).map fun e =>
        (u, e.2.desc)
    else none
  | none => none

/-- Whether the command of a packet has arrived whole. -/
def cmdWhole (s : State) (e : Engine) (p : Packet) : Bool :=
  match commander s p with
  | some (_, d) => decide (dLen d ≤ ((e.cmds.filter (sameCmd p)).map fun q => q.payload.length).foldl (· + ·) 0)
  | none => true

/-- QCMD_RECEIVE: the first command that has arrived whole starts its COMMAND entry, or is refused
with ACCESS_DENIED. -/
def execQcmdReceive (m : Nat) (s : State) : Out :=
  onUnit (decide (m < memCount)) <|
    let e := s.engine m
    match e.cmds.find? (cmdWhole s e) with
    | none => s
    | some p =>
      let idx := p.ref.toNat % 65536
      let rest := e.cmds.filter fun q => !sameCmd p q
      let s1 := s.setEngine m { e with cmds := rest }
      let deny := qdone s1 m idx p.src p.xq (pidxOf p) 2
      match commander s p with
      | none => deny
      | some (c, d) =>
        match ctxOf e (s.core c).misc.vid with
        | none => deny
        | some x =>
          match x.entries[idx]? with
          | none => deny
          | some w =>
            if qTrig w ≠ 0 then deny
            else
              let r : QRun := { newRun x.vid idx with
                arg := BitVec.ofNat 64 (dRaddr d), src := p.src, xq := p.xq, pidx := pidxOf p, command := true
                payload := ((e.cmds.filter (sameCmd p)).map (·.payload)).flatten }
              s1.updEngine m fun e => { e with queue := e.queue ++ [r] }

/-- Entries that run at once (08 Table 8-6). -/
def runSlots (m : Nat) : Nat := if m < 72 then 8 else 4

/-- The binding that targets a buffer of an engine. -/
def bufBinding (s : State) (vid : BitVec 16) (m buf : Nat) : Option Binding :=
  match s.voyage vid.toNat with
  | some v => v.img.tags.find? fun b => b.dtype ≠ 0 && decide (destUnit s b = memUnit m) && decide (b.daddr.toNat = buf)
  | none => none

/-- A BUFFER entry takes its buffer: the round bit flips and a tag credit is due (07 R180). -/
def takeBuffer (s : State) (m : Nat) (r : QRun) : State :=
  match r.buf, ctxOf (s.engine m) r.vid with
  | some _, some c =>
    let buf := qField (c.entries.getD r.idx 0) 3 1
    match bufBinding s r.vid m buf with
    | some b => s.updEngine m fun e => updCtx e r.vid fun c =>
        { c with landed := without buf c.landed, round := toggle c.round b.tag, credits := addOnce b.tag c.credits }
    | none => s.updEngine m fun e => updCtx e r.vid fun c => { c with landed := without buf c.landed }
  | _, _ => s

/-- The entry that a run executes. -/
def entryOf (s : State) (m : Nat) (r : QRun) : BitVec 512 :=
  match ctxOf (s.engine m) r.vid with
  | some c => c.entries.getD r.idx 0
  | none => 0

/-- Segment indices of an entry. -/
def segA (w : BitVec 512) : Nat := qField w 6 2
def segB (w : BitVec 512) : Nat := qField w 8 2
def segC (w : BitVec 512) : Nat := qField w 10 2
def segD (w : BitVec 512) : Nat := qField w 12 2

/-- The replica set that a segment index names, with its RSID. -/
def setOfIndex (s : State) (vid : BitVec 16) (i : Nat) : Option (Nat × RepSet) :=
  match mapEnt s vid i with
  | none => none
  | some e =>
    let rs := (s.seg e.sid.toNat).rsid.toNat
    (s.rset rs).map fun t => (rs, t)

/-- Offsets of the phase that OPT reads and of the one that it writes. -/
def phaseRead (s : State) (vid : BitVec 16) (i : Nat) : Nat :=
  match setOfIndex s vid i with | some (_, t) => t.gen.toNat % 2 * phaseBytes t | none => 0
def phaseWrite (s : State) (vid : BitVec 16) (i : Nat) : Nat :=
  match setOfIndex s vid i with | some (_, t) => (t.gen.toNat + 1) % 2 * phaseBytes t | none => 0

/-- Rows of a slot of a KV_APPEND entry of an engine. -/
def lenOf (s : State) (m : Nat) (vid : BitVec 16) (idx slot : Nat) : Nat :=
  match ctxOf (s.engine m) vid with | some c => (look 0 c.lens (4096 * idx + slot)).toNat | none => 0

/-- The LENREF entry of an ATTN. -/
def lenEntry (s : State) (m : Nat) (vid : BitVec 16) (w : BitVec 512) : BitVec 512 :=
  match ctxOf (s.engine m) vid with | some c => c.entries.getD (qField w 16 2) 0 | none => 0

/-- The keys of an ATTN: the offset of row 0 of its slot, the first, and the end. A slot that LENREF does not have holds no row: the spec is silent
(DESIGN CHOICE, log entry 33). -/
def attnKeys (s : State) (m : Nat) (r : QRun) (w : BitVec 512) : Nat × Nat × Nat :=
  let lw := lenEntry s m r.vid w
  let slot := bits r.arg.toNat 0 12
  (slot * qField lw 20 4 * qField lw 16 4, bits r.arg.toNat 12 32,
   if slot < qField lw 24 2 then lenOf s m r.vid (qField w 16 2) slot else 0)

/-- Bytes of payload that an operation reads. -/
def payloadDue (w : BitVec 512) (arg : BitVec 64) : Nat :=
  match qOp w with
  | 1 => 4 * (arg.toNat % 65536)
  | 4 => bits arg.toNat 12 12 * qField w 16 4
  | 5 => qField w 20 1 * (qField w 18 1 + 4)
  | _ => 0

/-- Where the rows of a SCATTER begin in its payload. -/
def scatterBase (n : Nat) : Nat := (4 * n + 63) / 64 * 64

/-- Whether a KV_APPEND finds no room in its slot (08 R202). -/
def kvFull (s : State) (m : Nat) (r : QRun) (w : BitVec 512) : Bool :=
  let slot := bits r.arg.toNat 0 12
  decide (qField w 24 2 ≤ slot) || decide (qField w 20 4 < lenOf s m r.vid r.idx slot + bits r.arg.toNat 12 12)

/-- The ranges that an entry refers to: segment index, whether it writes, offset, length (08 Table 8-10). -/
def entryRefs (s : State) (m : Nat) (r : QRun) (w : BitVec 512) : List (Nat × Bool × Nat × Nat) :=
  let n := r.arg.toNat % 65536
  let row := qField w 24 4
  let rows (wr : Bool) := (List.range n).map fun i => (segA w, wr, qField w 16 8 + fieldAt r.payload (4 * i) 4 * row, row)
  let moved := r.arg.toNat * qField w 32 4
  match qOp w with
  | 1 => rows false
  | 2 => if r.payload.length < scatterBase n + n * row then [] else rows true
  | 3 => [(segA w, false, qField w 16 8 + r.arg.toNat % 2 ^ 32 * qField w 44 4, qField w 24 4)]
  | 4 =>
    let slot := bits r.arg.toNat 0 12
    let k := bits r.arg.toNat 12 12
    if kvFull s m r w || k = 0 then []
    else [(segA w, true, slot * qField w 20 4 * qField w 16 4 + lenOf s m r.vid r.idx slot * qField w 16 4, k * qField w 16 4)]
  | 5 =>
    let lw := lenEntry s m r.vid w
    let (base, k0, k1) := attnKeys s m r w
    if k1 ≤ k0 then [] else [(segA lw, false, base + k0 * qField lw 16 4, (k1 - k0) * qField lw 16 4)]
  | 6 =>
    let rd := match ctxOf (s.engine m) r.vid with | some c => look 0 c.optR r.idx | none => 0
    let e0 := qField w 16 8 + 1024 * rd
    let sz := elemBits (qField w 28 1) / 8
    ([(segA w, 4), (segB w, sz), (segC w, sz)].flatMap fun p =>
      [(p.1, false, phaseRead s r.vid p.1 + p.2 * e0, 1024 * p.2), (p.1, true, phaseWrite s r.vid p.1 + p.2 * e0, 1024 * p.2)]) ++
    (if qField w 29 1 = 15 then [] else [(segD w, true, phaseWrite s r.vid (segD w) + 576 * rd, 576)])
  | 7 | 10 => [(segA w, false, qField w 16 8 + moved, qField w 32 4), (segB w, true, qField w 24 8 + moved, qField w 32 4)]
  | 8 => [(segA w, true, qField w 16 8, qField w 24 8)]
  | 9 => [(segA w, false, qField w 16 8 + r.arg.toNat * qField w 24 4, qField w 24 4)]
  | _ => []

/-- The status of the first segment reference of an entry that fails its check (09 R220); 0 where none does. -/
def refStatus (s : State) (m : Nat) (r : QRun) (w : BitVec 512) : Nat :=
  ((entryRefs s m r w).map fun x => segCheck s r.vid x.1 x.2.1 x.2.2.1 x.2.2.2).find? (· ≠ 0) |>.getD 0

/-- An entry starts: its payload is made up with free bytes where the command brought fewer than the operation reads, it has a number and the epoch
of its translation, and its segment references are checked before any byte moves (09 R220). -/
def startRun (s : State) (m : Nat) (r : QRun) : State × QRun :=
  let w := entryOf s m r
  let n := payloadDue w r.arg - r.payload.length
  let k := (s.engine m).starts + 1
  let r1 := { r with payload := r.payload ++ freeBytes s.free n, xid := k, epoch := BitVec.ofNat 2 (ettEpoch s) }
  let st := refStatus s m r1 w
  ({ s with free := s.free + n }.updEngine m fun e => { e with starts := k },
   if st = 0 then r1 else { r1 with done := true, status := BitVec.ofNat 8 st })

/-- QUAY_ENTRY_START: the oldest queued entry whose voyage is not stopped takes a free running slot. -/
def execQuayEntryStart (m : Nat) (s : State) : Out :=
  onUnit (decide (m < memCount)) <|
    let e := s.engine m
    if runSlots m ≤ e.running.length || unreachable s (memUnit m) then s
    else
      match takeFirst (fun r : QRun => !unitsStopped s r.vid) e.queue with
      | none => s
      | some (r, rest) =>
        let (s1, r1) := startRun s m r
        takeBuffer (s1.updEngine m fun e => { e with queue := rest, running := e.running ++ [r1] }) m r1

/-- QUAY_ENTRY_END: run k has ended and its packets are answered: its chain goes on, or QDONE is
sent and its slot is free. A status of UNREACHABLE is a completion that Table 7-13 reports. A LAUNCH entry that ends UNCORRECTABLE makes a replay due. -/
def execQuayEntryEnd (m k : Nat) (s : State) : Out :=
  onUnit (decide (m < memCount)) <|
    let e := s.engine m
    match e.running[k]? with
    | none => s
    | some r =>
      if !r.done || r.open_ ≠ [] then s
      else
        let w := entryOf s m r
        let s0 := if r.status = 6 then raiseFab s 6 { unit := memUnit m, vid := r.vid } else s
        let s1 := if r.status = 0 then s0 else raiseMif s0 m 5 { vid := r.vid }
        if r.status = 0 && qChain w then
          let (s2, r1) := startRun s1 m { newRun r.vid (qField w 4 2) with
            root := r.root, arg := r.arg, payload := r.payload, src := r.src, xq := r.xq, pidx := r.pidx, command := r.command }
          s2.updEngine m fun e => { e with running := setAt e.running k r1 }
        else
          let s2 := s1.updEngine m fun e => updCtx { e with running := dropAt e.running k } r.vid fun c =>
            { c with launchLeft := without r.root c.launchLeft }
          if r.command then qdone s2 m r.root r.src r.xq r.pidx r.status
          else if r.status = 8 then dueReplay s2 r.vid 4 else s2

/-! ## What an operation reads and writes -/

def setRun (s : State) (m k : Nat) (r : QRun) : State := s.updEngine m fun e => { e with running := setAt e.running k r }

/-- The entry ends with a status. -/
def endRun (s : State) (m k : Nat) (r : QRun) (st : Nat) : State :=
  setRun s m k { r with done := true, status := worse r.status (BitVec.ofNat 8 st) }

/-- The entry is suspended on a segment (09 R224). -/
def faultRun (s : State) (m k : Nat) (r : QRun) (sid : Nat) : State :=
  ((setRun s m k { r with suspended := true, sid := sid, faultTick := s.tide.toNat }).updVoyage r.vid.toNat fun v =>
    { v with faults := v.faults + 1 }).updSeg sid fun r => { r with faulted := true }

/-- Where a segment reference lies: the status of a failed check, a segment that is not in place, or
memory and address. -/
inductive Place where
  | bad (st : Nat)
  | fault (sid : Nat)
  | at_ (m a : Nat)
  deriving DecidableEq, Repr

/-- Translates a segment reference of an engine (09 R220 R221). -/
def qPlace (s : State) (vid : BitVec 16) (i : Nat) (write : Bool) (off n : Nat) : Place :=
  let st := segCheck s vid i write off n
  if st ≠ 0 then .bad st
  else
    match mapEnt s vid i with
    | none => .bad 5
    | some e =>
      match segTr (s.seg e.sid.toNat) with
      | none => .fault e.sid.toNat
      | some t => if unreachable s (memUnit (memOf t.tierB t.mem)) then .bad 6 else .at_ (memOf t.tierB t.mem) (t.base + off)

/-- The engine's cache takes a translation; it holds 256, the oldest leaves. -/
def fillEngine (s : State) (m : Nat) (vid : BitVec 16) (i : Nat) : State :=
  match mapEnt s vid i with
  | none => s
  | some e =>
    match segTr (s.seg e.sid.toNat) with
    | none => s
    | some t => s.updEngine m fun g =>
        if g.segCache.any fun p => p.1 = vid.toNat && p.2.1 = i then g
        else { g with segCache := (if 256 ≤ g.segCache.length then g.segCache.drop 1 else g.segCache) ++ [(vid.toNat, i, t)] }

/-- What a read answers. -/
inductive QRead where
  | ok (s : State) (b : List Bytes)
  | bad (s : State) (st : Nat)
  | fault (s : State) (sid : Nat)
  | wait

/-- The check blocks of a copy that a range touches. -/
def touched (s : State) (m a n : Nat) : List Nat :=
  match copyAt s m a with
  | none => []
  | some (_, t, _, off) => (List.range (blockOfOff t (off + n - 1) + 1 - blockOfOff t off)).map fun i => blockOfOff t off + i

/-- The check blocks of a copy that a range touches are intact (08 R210 VERIFY). -/
def verifyRange (s : State) (m a n : Nat) : Bool :=
  match copyAt s m a with
  | none => true
  | some (_, t, sid, _) => (touched s m a n).all fun b => intact s t sid b

/-- Reads of several ranges of a memory, as far as all may be served. -/
def readAll (s : State) (l : List (Nat × Nat × Nat)) : State × Bool :=
  l.foldl (fun x r => let (t, ok) := readMem x.1 r.1 r.2.1 r.2.2; (t, x.2 && ok)) (s, true)

/-- What an entry reads of a memory for a range: with VERIFY every check block that it touches, in full, with its record. -/
def readRanges (s : State) (m a n : Nat) (verify : Bool) : List (Nat × Nat × Nat) :=
  (m, a, n) :: (if verify then
    (match copyAt s m a with
    | none => []
    | some (_, t, sid, _) => (touched s m a n).flatMap fun b =>
        let d := blockAt s t sid b
        let r := recordAt s t sid b
        [(d.1, d.2, blockBytes), (r.1, r.2, 16)])
    else [])

/-- An entry reads n bytes of a segment. -/
def qRead (s : State) (m : Nat) (vid : BitVec 16) (i off n : Nat) (verify : Bool) : QRead :=
  match qPlace s vid i false off n with
  | .bad st => .bad s st
  | .fault sid => .fault s sid
  | .at_ mm a =>
    if suspectAt s mm a n then .wait
    else
      match readAll (fillEngine s m vid i) (readRanges s mm a n verify) with
      | (s1, false) => .bad (noteFail s1 mm) 8
      | (s1, true) => if verify && !verifyRange s1 mm a n then .bad s1 4 else .ok s1 [memRead s1 mm a n]

/-- An entry reads ranges in order: segment index, offset, length. -/
def qReads (s : State) (m : Nat) (vid : BitVec 16) (verify : Bool) : List (Nat × Nat × Nat) → QRead
  | [] => .ok s []
  | (i, off, n) :: l =>
    match qRead s m vid i off n verify with
    | .ok s1 b =>
      (match qReads s1 m vid verify l with
      | .ok s2 bs => .ok s2 (b ++ bs)
      | x => x)
    | x => x

/-- What an entry does with its bytes, or how it stops for want of them: it ends, is suspended, or waits as it is. -/
def onRead (m k : Nat) (r : QRun) (s : State) (q : QRead) (f : State → List Bytes → State) : State :=
  match q with
  | .ok s1 bs => f s1 bs
  | .bad s1 st => endRun s1 m k r st
  | .fault s1 sid => faultRun s1 m k r sid
  | .wait => s

/-- What a write answers. -/
inductive QWrite where
  | ok (s : State)
  | bad (st : Nat)
  | fault (sid : Nat)

/-- An entry writes bytes of a segment. -/
def qWrite (s : State) (m : Nat) (vid : BitVec 16) (i off : Nat) (b : Bytes) : QWrite :=
  match qPlace s vid i true off b.length with
  | .bad st => .bad st
  | .fault sid => .fault sid
  | .at_ mm a => .ok (memStore (fillEngine s m vid i) mm a b)

/-- Writes in order; the first that fails ends the list. -/
def qWrites (s : State) (m : Nat) (vid : BitVec 16) (i : Nat) : List (Nat × Bytes) → State × QWrite
  | [] => (s, .ok s)
  | (off, b) :: r =>
    match qWrite s m vid i off b with
    | .ok s1 => qWrites s1 m vid i r
    | w => (s, w)

/-- After writes the entry ends, is suspended, or ends with their status. -/
def afterWrites (m k : Nat) (r : QRun) (w : State × QWrite) : State :=
  match w.2 with
  | .ok s => endRun s m k r 0
  | .bad st => endRun w.1 m k r st
  | .fault sid => faultRun w.1 m k r sid

/-- Numerical events of an engine are folded into the panel's totals and the voyage's (02 R51). -/
def engineCounts (s : State) (vid : BitVec 16) (l : List (Nat × Nat)) : State :=
  let c : SMap Word := l.map fun p => (p.1, BitVec.ofNat 32 p.2)
  let s1 := { s with hm := { s.hm with health := addTotals s.hm.health c } }
  s1.updVoyage vid.toNat fun v => { v with health := addTotals v.health c }

/-! ## Sending -/

/-- The port through which an engine reaches a remote endpoint of the active bank, with its VCX. -/
def epOut (s : State) (m : Nat) (ep : BitVec 21) : Option (Nat × Bool) :=
  let x := ettEntry s ep
  if x % 4 = 2 then (egress s x (homeId s (memUnit m)) ep 0).map fun p => (p, bitOf x 4) else none

/-- Whether a translation serves an entry's destination: a core that can be reached, a remote endpoint, and for a STREAM a multicast group (07 R168,
08 Table 8-10). -/
def epServes (s : State) (x : Nat) (multi : Bool) : Bool :=
  match x % 4 with
  | 1 => decide (localUnit x < 5184) && !noWay s (localUnit x)
  | 2 => true
  | 3 => multi
  | _ => false

/-- The one translation of a run's destination: it is there, or the die's cache gives it, or a LOOKUP is due (07 R168). -/
def runEtt (s : State) (m : Nat) (r : QRun) (ep : BitVec 21) : Option Nat :=
  match r.ett with
  | some x => some x
  | none => cacheLook s (memUnit m) ep r.epoch

/-- The destination of an entry that sends to a berth. -/
def sendEp (w : BitVec 512) : BitVec 21 := BitVec.ofNat 21 (qField w 28 4)

/-- REF of a WRITE to a berth: DREF with an offset, NOTIFY and PIDX. -/
def drefOf (dref off : Nat) (notify : Bool) (pidx : BitVec 10) : Nat :=
  dref % 4096 + (dref / 4096 + off) % 2 ^ 23 * 4096 + b2n notify * 2 ^ 35 + pidx.toNat * 2 ^ 36

/-- The run with a packet sent under the engine's next PIDX. -/
def openPacket (s : State) (m k : Nat) (r : QRun) (last : Bool) : State :=
  let p := (s.engine m).nextPidx
  let s1 := s.updEngine m fun e => { e with nextPidx := p + 1 }
  setRun s1 m k { r with next := r.next + 1, open_ := r.open_ ++ [p], done := last }

/-- An entry sends bytes to a berth under the translation x; an endpoint that cannot be reached ends it. -/
def sendBerth (s : State) (m k : Nat) (r : QRun) (x : Nat) (w : BitVec 512) (off : Nat) (notify last : Bool) (b : Bytes) : State :=
  let ep := sendEp w
  let p := (s.engine m).nextPidx
  let r1 := { r with ett := some x }
  let pkt := { mkPkt 0 ep (homeId s (memUnit m)) (drefOf (qField w 32 8) off notify p) 0 (r.next = 0) b with xid := r.xid }
  if r.ett.isNone && !epServes s x (qOp w = 3) then endRun s m k r 6
  else
    match x % 4 with
    | 1 => inject (openPacket s m k r1 last) (memUnit m) (localUnit x) r.epoch.toNat pkt
    | 2 =>
      (match egress s x (homeId s (memUnit m)) ep 0 with
      | some o => inject (openPacket s m k r1 last) (memUnit m) (portUnit o) r.epoch.toNat { pkt with vcx := bitOf x 4 }
      | none => endRun s m k r1 6)
    | _ => injectMcast (openPacket s m k r1 last) (memUnit m) (bits x 2 7, bits x 9 7, bits x 16 7, bits x 23 7) r.epoch.toNat pkt

/-- Whether a run may go on: it is not done nor suspended, its voyage is not stopped, its packets leave
a PIDX free. -/
def runs (s : State) (m : Nat) (r : QRun) : Bool :=
  !r.done && !r.suspended && !unitsStopped s r.vid && !unreachable s (memUnit m) && decide (r.open_.length < 64)

/-- Runs an operation on run k of engine m if its entry has operation `op`. A run whose packet was
answered with a status ends. -/
def onRun (m k op : Nat) (s : State) (f : QRun → BitVec 512 → State) : Out :=
  onUnit (decide (m < memCount)) <|
    match (s.engine m).running[k]? with
    | none => s
    | some r =>
      let w := entryOf s m r
      if !runs s m r || qOp w ≠ op then s
      else if r.status ≠ 0 then endRun s m k r 0
      else f r w

/-- A run that waits for the translation of its destination. -/
def runWaits (s : State) (m : Nat) (r : QRun) : Bool :=
  let w := entryOf s m r
  runs s m r && (qOp w = 1 || qOp w = 3) && (runEtt s m r (sendEp w)).isNone

/-- LOOKUP_FILL: the die's cache takes the ETT entry that queue q of a core, or run q of an engine, waits for (07 R168). -/
def execLookupFill (u : Nat) (q : BitVec 3) (s : State) : Out :=
  onUnit (decide (u < 5264)) <|
    if u < coreCount then fillCrane s u q.toNat
    else
      match (s.engine (u - 5184)).running[q.toNat]? with
      | some r => if runWaits s (u - 5184) r then cacheFill s u (sendEp (entryOf s (u - 5184) r)) r.epoch else s
      | none => s

/-! ## QNOP, GATHER, SCATTER, STREAM (08 R199 to R201) -/

/-- QNOP. -/
def execQnop (m k : Nat) (s : State) : Out := onRun m k 0 s fun r _ => endRun s m k r 0

/-- GATHER: the next row of the list is read and sent. -/
def execGather (m k : Nat) (s : State) : Out :=
  onRun m k 1 s fun r w =>
    let n := r.arg.toNat % 65536
    if n ≤ r.next then endRun s m k r 0
    else
      match runEtt s m r (sendEp w) with
      | none => s
      | some x =>
        let row := qField w 24 4
        let i := fieldAt r.payload (4 * r.next) 4
        let last := decide (r.next + 1 = n)
        onRead m k r s (qRead s m r.vid (segA w) (qField w 16 8 + i * row) row (qVerify w)) fun s1 bs =>
          sendBerth s1 m k r x w (r.next * row) (last && bitOf (qField w 40 1) 0) last bs.flatten

/-- SCATTER: rows of the payload are written to indexed places. -/
def execScatter (m k : Nat) (s : State) : Out :=
  onRun m k 2 s fun r w =>
    let n := r.arg.toNat % 65536
    let row := qField w 24 4
    if r.payload.length < scatterBase n + n * row then endRun s m k r 3
    else
      afterWrites m k r (qWrites s m r.vid (segA w) ((List.range n).map fun i =>
        (qField w 16 8 + fieldAt r.payload (4 * i) 4 * row, slice r.payload (scatterBase n + i * row) row)))

/-- One output tile (03 Table 3-3, K = 32) from rows of elements and scale bytes. -/
def tileOut (c : Nat) (rows : List (List Nat × List Nat)) : Bytes :=
  let body := (rows.map fun r => (List.range (rowBytes c 32)).map (packByte c fun i => r.1.getD i 0)).flatten ++
    (rows.map fun r => r.2.map (BitVec.ofNat 8)).flatten
  body ++ zeros (tileStride c 32 - body.length)

/-- A row of 32 elements of a source tile in the output format: an MX block keeps its scale under
MXFP8, everything else converts from exact values. -/
def convRow (fin fout : Nat) (byte : Nat → Byte) (row half : Nat) : List Nat × List Nat × Ev :=
  if fout = 3 && isMx fin then
    let base := row * rowBytes fin 64
    let xs := (List.range 32).map fun j =>
      convElem 3 (decodeElem fin (packedAt fin (fun i => byte (base + i)) (32 * half + j))) none
    (xs.map (·.1), [(byte (32 * rowBytes fin 64 + row * rowScales fin 64 + half)).toNat], evAll (xs.map (·.2)))
  else convRun fout ((List.range 32).map fun j => tileElem fin 64 byte row (32 * half + j)) (List.replicate 32 none)

/-- The two output tiles of a source tile. -/
def convTile (fin fout : Nat) (src : Bytes) : Bytes × Ev :=
  let byte (i : Nat) : Byte := src.getD i 0
  let rows (h : Nat) := (List.range 32).map fun row => convRow fin fout byte row h
  let ls := [rows 0, rows 1]
  ((ls.map fun l => tileOut fout (l.map fun r => (r.1, r.2.1))).flatten, evAll ((ls.map fun l => evAll (l.map fun r => r.2.2))))

/-- What a STREAM sends for its source bytes. -/
def streamOut (fin fout : Nat) (src : Bytes) : Bytes × Ev :=
  if fin = fout then (src, {})
  else
    let st := tileStride fin 64
    let ts := (List.range (src.length / max 1 st)).map fun i => convTile fin fout (slice src (i * st) st)
    ((ts.map (·.1)).flatten, evAll (ts.map (·.2)))

/-- STREAM: the next 4 KiB of the output are sent. -/
def execStream (m k : Nat) (s : State) : Out :=
  onRun m k 3 s fun r w =>
    match runEtt s m r (sendEp w) with
    | none => s
    | some x =>
      let off := qField w 16 8 + r.arg.toNat % 2 ^ 32 * qField w 44 4
      onRead m k r s (qRead s m r.vid (segA w) off (qField w 24 4) (qVerify w)) fun s1 bs =>
        let (out, ev) := streamOut (qField w 40 1) (qField w 41 1) bs.flatten
        let n := (out.length + 4095) / 4096
        if n ≤ r.next then endRun s1 m k r 0
        else
          let last := decide (r.next + 1 = n)
          let s2 := if r.next = 0 then engineCounts s1 r.vid ev.counts else s1
          sendBerth s2 m k r x w (4096 * r.next) (last && bitOf (qField w 42 1) 0) last ((out.drop (4096 * r.next)).take 4096)

/-! ## KV_APPEND, ATTN (08 R202 R203) -/

/-- KV_APPEND: rows are appended to a slot. -/
def execKvAppend (m k : Nat) (s : State) : Out :=
  onRun m k 4 s fun r w =>
    let slot := bits r.arg.toNat 0 12
    let n := bits r.arg.toNat 12 12
    let row := qField w 16 4
    let len := lenOf s m r.vid r.idx slot
    if kvFull s m r w then endRun s m k r 3
    else
      let ws := (List.range n).map fun i => (slot * qField w 20 4 * row + (len + i) * row, slice r.payload (i * row) row)
      match qWrites s m r.vid (segA w) ws with
      | (_, .ok s1) =>
        endRun (s1.updEngine m fun e => updCtx e r.vid fun c =>
          { c with lens := put 0 c.lens (4096 * r.idx + slot) (BitVec.ofNat 32 (len + n)) }) m k r 0
      | x => afterWrites m k r x

/-- The value of an E4M3 byte; none if it is not a number. -/
def e4m3 (b : Byte) : Option Dy := (decodeElem 0 b.toNat).map (·.a)

/-- fp32_round(2^u) as an exact value. -/
def exp2Val (u : Dy) : Dy := (decodeF32 (fp32Round false false false (cmpOfExp2 u) none).1).val

/-- A score term: whether UMAX clamped it, and e; none where a NaN takes part. An infinite offset or
factor has no exact value, so e is the free value f. -/
def attnTerm (q key : Bytes) (c tau : Word) (umax : Nat) (f : BitVec 64) : Bool × Option Dy :=
  let ps := (q.zip key).map fun p => match e4m3 p.1, e4m3 p.2 with
    | some x, some y => some (DyOps.mul x y)
    | _, _ => none
  if ps.any (·.isNone) || decodeF32 c = .nan then (false, none)
  else
    let sc := ps.foldl (fun a p => DyOps.add a (p.getD (DyOps.ofInt 0))) (DyOps.ofInt 0)
    match decodeF32 c, decodeF32 tau with
    | .fin cn cm, .fin tn tm =>
      let u := DyOps.mul (DyOps.sub sc (F32.val (.fin cn cm))) (F32.val (.fin tn tm))
      if DyOps.cmp u (DyOps.ofInt umax) = .gt then (true, some (exp2Val (DyOps.ofInt umax))) else (false, some (exp2Val u))
    | _, _ =>
      match decodeF32 (f.setWidth 32) with
      | .fin n g => (false, some (F32.val (.fin n g)))
      | _ => (false, none)

/-- Adds terms to an element one by one, with their events under format code 0 (02 R41). -/
def addTerms (t : Int) : List (Option Dy) → Elem → Elem × Ev
  | [], x => (x, {})
  | u :: r, x =>
    let (y, o) := accumulate x [u] t
    let (z, e) := addTerms t r y
    (z, (accEv 0 true o).and e)

/-- The terms of one tag added to its image: `terms i d` are those of element (i, d). -/
def attnAdd (x : TileImg) (nq nd : Nat) (terms : Nat → Nat → List (Option Dy)) : TileImg × Ev :=
  let el (n : Nat) : Elem × Ev :=
    if n / 32 < nq ∧ n % 32 < nd then addTerms x.t.toInt (terms (n / 32) (n % 32)) (look {} x.elems n) else (look {} x.elems n, {})
  ({ x with elems := putRange {} [] 0 (fun n => (el n).1) 1024 }, evAll ((List.range 1024).map fun n => (el n).2))

/-- A finished image: SAT in every element of the rows that UMAX clamped. -/
def attnFin (rows : List Nat) (x : TileImg) : TileImg :=
  { x with elems := putRange {} [] 0 (fun n => let e := look {} x.elems n; if n / 32 ∈ rows then { e with sat := true } else e) 1024 }

/-- Contributions of an entry are queued and enter their trees as their tags are free. -/
def attnContribute (s : State) (m : Nat) (vid : BitVec 16) (imgs : List (BitVec 16 × TileImg)) : State :=
  imgs.foldl (fun s x =>
    engineContribute (s.updEngine m fun e => updCtx e vid fun c =>
      { c with contribs := c.contribs ++
          [{ tag := x.1, vid := vid, inp := 1, round := false, came := 50, flits := 0, resv := none, img := x.2 }] }) m vid) s

/-- The tags of an ATTN, the value tags first: binding, columns, and the place of its values in a row, or none for the sums. -/
def attnTags (s : State) (vid : BitVec 16) (w : BitVec 512) : List (Binding × Nat × Option Nat) :=
  ((List.range (qField w 19 1 / 32)).filterMap fun n =>
    (bindingOf s vid (BitVec.ofNat 16 (qField w 28 2 + n))).map fun b => (b, 32, some (32 * n))) ++
  (match bindingOf s vid (BitVec.ofNat 16 (qField w 30 2)) with
  | some b => [(b, 1, none)]
  | none => [])

/-- ATTN: the keys of the next 4 KiB are scored, whole rows of the slot at a time (DESIGN CHOICE, log entry 33); after the last the partial images
are contributed, the value tags first. -/
def execAttn (m k : Nat) (s : State) : Out :=
  onRun m k 5 s fun r w =>
    let lw := lenEntry s m r.vid w
    let row := qField lw 16 4
    let (dk, nq, umax) := (qField w 18 1, qField w 20 1, qField w 21 1)
    let tau := BitVec.ofNat 32 (qField w 24 4)
    let (base, k0, len) := attnKeys s m r w
    let tags := attnTags s r.vid w
    let k1 := if r.next = 0 then len else r.hi
    let imgs := if r.next = 0 then tags.map fun x => (x.1.tag, { t := x.1.t }) else r.imgs
    let per := max 1 (4096 / max 1 row)
    let j0 := k0 + per * r.next
    let nk := min per (k1 - j0)
    onRead m k r s (if nk = 0 then .ok s [] else qRead s m r.vid (segA lw) (base + j0 * row) (nk * row) (qVerify w)) fun s1 bs =>
      let rows := bs.flatten
      let val (j d : Nat) : Option Dy := e4m3 (rows.getD (j * row + dk + d) 0)
      let f0 := s1.free
      let term (i j : Nat) : Bool × Option Dy :=
        attnTerm (slice r.payload (i * dk) dk) (slice rows (j * row) dk) (BitVec.ofNat 32 (fieldAt r.payload (nq * dk + 4 * i) 4)) tau umax
          (Config.freeWord (f0 + nq * j + i))
      let sat := r.sat ++ (List.range nq).filter fun i => decide (i ∉ r.sat) && (List.range nk).any fun j => (term i j).1
      let res := (tags.zip imgs).map fun x => (x.2.1, attnAdd x.2.2 nq x.1.2.1 fun i d => (List.range nk).map fun j =>
        match x.1.2.2, (term i j).2 with
        | none, e => e
        | some d0, some e => (val j (d0 + d)).map (DyOps.mul e)
        | some _, none => none)
      let done := decide (k1 ≤ j0 + nk)
      let out := res.map fun x => (x.1, x.2.1)
      let s2 := engineCounts { s1 with free := s1.free + nq * nk } r.vid (evAll (res.map fun x => x.2.2)).counts
      if done then attnContribute (endRun s2 m k r 0) m r.vid (out.map fun x => (x.1, attnFin sat x.2))
      else setRun s2 m k { r with next := r.next + 1, hi := k1, sat := sat, imgs := out }

/-! ## OPT (08 R205 R206) -/

/-- Counts under format code 0xA. -/
def under10 (e : Ev) : List (Nat × Nat) := e.counts.map fun p => (50 + p.1 % 5, p.2)

/-- rnd of an expression that has a value, and of one that has none. -/
def rndDy (x : Option Dy) : Word × Ev :=
  let (w, e) := convElem 10 (x.map inj2) none
  (BitVec.ofNat 32 w, e)

/-- rnd of a value given by its sign, zero test and comparison (02 R44). -/
def rndCmp (neg zero : Bool) (c : Cmp) : Word × Ev :=
  let (w, e) := toFloat fFP32 10 neg zero c none
  (BitVec.ofNat 32 w, e)

/-- A finite FP32 value. -/
def fin32 (w : Word) : Option Dy :=
  match decodeF32 w with
  | .fin n m => some (F32.val (.fin n m))
  | _ => none

/-- A value stored in format 9 or 10. -/
def stored (c : Nat) (x : Nat) : Option Dy := (decodeElem c x).map (·.a)

def map2 (f : Dy → Dy → Dy) (x y : Option Dy) : Option Dy :=
  match x, y with
  | some a, some b => some (f a b)
  | _, _ => none

/-- rnd(1 / (1 - B^t)). -/
def biasCorr (b : Dy) (t : Nat) : Word :=
  let den := DyOps.sub (DyOps.ofInt 1) (DyOps.npow b t)
  (rndCmp (decide (den.m < 0)) false (cmpOfRat (DyOps.ofInt 1) den)).1

/-- sqrt x + eps: how it compares. -/
def cmpOfSqrtPlus (x eps : Dy) : Cmp := fun q =>
  let d := DyOps.sub q eps
  if d.m < 0 then .gt else DyOps.cmp x (DyOps.mul d d)

/-- The parameters of an OPT entry. -/
structure OptPar where
  lr : Dy
  b1 : Dy
  b2 : Dy
  eps : Dy
  wd : Dy
  c1 : Option Dy
  c2 : Option Dy

/-- One element of a round: w1, m1, v1 as FP32 and the events. A value that is not finite makes what
depends on it invalid under R44. -/
def optElem (p : OptPar) (g0 : Dy) (w m v : Option Dy) : Word × Word × Word × Ev :=
  let one := DyOps.ofInt 1
  let (gw, e0) := rndDy (some g0)
  let g := fin32 gw
  let mix (b x : Dy) (y : Dy) : Dy := DyOps.add (DyOps.mul b x) (DyOps.mul (DyOps.sub one b) y)
  let (m1, e1) := rndDy (map2 (mix p.b1) m g)
  let (v1, e2) := rndDy (map2 (fun x y => mix p.b2 x (DyOps.mul y y)) v g)
  let (mh, e3) := rndDy (map2 DyOps.mul (fin32 m1) p.c1)
  let (vh, e4) := rndDy (map2 DyOps.mul (fin32 v1) p.c2)
  let (dn, e5) := match fin32 vh with
    | some x =>
      let y := if x.m < 0 then DyOps.ofInt 0 else x
      rndCmp false false (cmpOfSqrtPlus y p.eps)
    | none => rndDy none
  let (w1, e6) := match w, fin32 mh, fin32 dn with
    | some w, some mh, some dn =>
      let num := DyOps.sub (DyOps.mul w dn) (DyOps.mul p.lr (DyOps.add mh (DyOps.mul (DyOps.mul p.wd w) dn)))
      rndCmp (decide (num.m < 0)) (decide (num.m = 0)) (cmpOfRat num dn)
    | _, _, _ => rndDy none
  (w1, m1, v1, e0.and (e1.and (e2.and (e3.and (e4.and (e5.and e6))))))

/-- The inference copy of a round: the 32 x 32 output of an MRD (03 Table 3-7). -/
def optCopy (fq : Nat) (ws : List Word) : Bytes × Ev :=
  let rows := (List.range 32).map fun i =>
    convRun fq ((List.range 32).map fun j => (fin32 (ws.getD (32 * i + j) 0)).map inj2) (List.replicate 32 none)
  ((rows.map fun r => (List.range (rowBytes fq 32)).map (packByte fq fun i => r.1.getD i 0)).flatten ++
    (rows.map fun r => r.2.1.map (BitVec.ofNat 8)).flatten, evAll (rows.map fun r => r.2.2))

/-- OPT: one round of the optimiser on the landed image. -/
def execOpt (m k : Nat) (s : State) : Out :=
  onRun m k 6 s fun r w =>
    match ctxOf (s.engine m) r.vid with
    | none => s
    | some c =>
      let img := r.buf.getD {}
      let rd := look 0 c.optR r.idx
      let step := look 0 c.optStep r.idx
      let fmv := qField w 28 1
      let fq := qField w 29 1
      let esz := elemBits fmv / 8
      let e0 := qField w 16 8 + 1024 * rd
      let at_ (i off n : Nat) : Nat × Nat × Nat := (i, phaseRead s r.vid i + off, n)
      onRead m k r s (qReads s m r.vid (qVerify w)
          [at_ (segA w) (4 * e0) 4096, at_ (segB w) (esz * e0) (1024 * esz), at_ (segC w) (esz * e0) (1024 * esz)]) fun s0 bs =>
        let (wb, mb, vb) := (bs.getD 0 [], bs.getD 1 [], bs.getD 2 [])
        let par (o : Nat) : Dy := (decodeF32 (BitVec.ofNat 32 (qField w o 4))).val
        let gsh := (BitVec.ofNat 8 (qField w 30 1)).toInt
        let p : OptPar := { lr := par 32, b1 := par 36, b2 := par 40, eps := par 44, wd := par 48
                            c1 := fin32 (biasCorr (par 36) (step + 1)), c2 := fin32 (biasCorr (par 40) (step + 1)) }
        let el (i : Nat) : Elem := look {} img.elems i
        let w0 (i : Nat) : Word := BitVec.ofNat 32 (fieldAt wb (4 * i) 4)
        let res := (List.range 1024).map fun i =>
          let x := el i
          let mo := fieldAt mb (esz * i) esz
          let vo := fieldAt vb (esz * i) esz
          if x.inv then (w0 i, mo, vo, evAccInvalid 10, true)
          else
            let (w1, m1, v1, ev) := optElem p (elemVal x img.t.toInt gsh) (fin32 (w0 i)) (stored fmv mo) (stored fmv vo)
            let (mc, em) := convElem fmv ((fin32 m1).map inj2) none
            let (vc, evv) := convElem fmv ((fin32 v1).map inj2) none
            (w1, mc, vc, ev.and (em.and evv), false)
        let ws := res.map (·.1)
        let (cp, ec) := if fq = 15 then ([], {}) else optCopy fq ws
        let put_ (i off : Nat) (b : Bytes) (st : State × QWrite) : State × QWrite :=
          match st.2 with
          | .ok s => qWrites s m r.vid i [(phaseWrite s r.vid i + off, b)]
          | _ => st
        let o1 := put_ (segA w) (4 * e0) ((ws.map fun x => leBytes 4 x.toNat).flatten) (s0, .ok s0)
        let o2 := put_ (segB w) (esz * e0) ((res.map fun x => leBytes esz x.2.1).flatten) o1
        let o3 := put_ (segC w) (esz * e0) ((res.map fun x => leBytes esz x.2.2.1).flatten) o2
        let o4 := if fq = 15 then o3 else put_ (segD w) (576 * rd) cp o3
        match o4.2 with
        | .ok s1 =>
          let lastR := decide (rd + 1 = qField w 24 4)
          let sets := ((segA w) :: (segB w) :: (segC w) :: (if fq = 15 then [] else [segD w])).filterMap fun i =>
            (setOfIndex s1 r.vid i).map (·.1)
          let s2 := s1.updEngine m fun e => updCtx e r.vid fun c =>
            { c with optR := put 0 c.optR r.idx (if lastR then 0 else rd + 1)
                     optStep := if lastR then put 0 c.optStep r.idx (step + 1) else c.optStep
                     advance := if lastR then sets.foldl (fun l i => addOnce i l) c.advance else c.advance }
          let s3 := engineCounts s2 r.vid (under10 (evAll (res.map fun x => x.2.2.2.1)) ++ under10 ec)
          let s4 := if res.any fun x => x.2.2.2.2 then raiseMif s3 m 6 { vid := r.vid } else s3
          endRun s4 m k r 0
        | _ => afterWrites m k r o4

/-! ## MIGRATE, COPY, SCRUB, CHECK (08 R207) -/

/-- One packet of 4 KiB from SEGA to SEGB; data for another memory travels as a WRITE. -/
def moveStep (m k : Nat) (s : State) (r : QRun) (w : BitVec 512) : State :=
  let len := qField w 32 4
  let o := 4096 * r.next
  let n := min 4096 (len - o)
  if len ≤ o then endRun s m k r 0
  else
    let at0 := r.arg.toNat * len
    match qPlace s r.vid (segB w) true (qField w 24 8 + at0) len with
    | .bad st => endRun s m k r st
    | .fault sid => faultRun s m k r sid
    | .at_ m2 a2 =>
      onRead m k r s (qRead s m r.vid (segA w) (qField w 16 8 + at0 + o) n (qVerify w)) fun s1 bs =>
        let b := bs.flatten
        let last := decide (len ≤ o + n)
        if m2 = m then setRun (memStore s1 m (a2 + o) b) m k { r with next := r.next + 1, done := last }
        else
          let p := (s1.engine m).nextPidx
          let pkt := { mkPkt 0 (homeId s (memUnit m2)) (homeId s (memUnit m)) (a2 + o + p.toNat * 2 ^ 38) 0 (r.next = 0) b with xid := r.xid }
          inject (openPacket s1 m k r last) (memUnit m) (memUnit m2) r.epoch.toNat pkt

/-- MIGRATE. -/
def execMigrate (m k : Nat) (s : State) : Out := onRun m k 7 s (moveStep m k s)

/-- COPY. -/
def execCopy (m k : Nat) (s : State) : Out := onRun m k 10 s (moveStep m k s)

/-- SCRUB: zeros with valid codes over a range. -/
def execScrub (m k : Nat) (s : State) : Out :=
  onRun m k 8 s fun r w =>
    let len := qField w 24 8
    match qPlace s r.vid (segA w) true (qField w 16 8) len with
    | .bad st => endRun s m k r st
    | .fault sid => faultRun s m k r sid
    | .at_ mm a => endRun (sealBlocks (zeroMem (fillEngine s m r.vid (segA w)) mm a len) mm a len) m k r 0

/-- CHECK: the check value of a range is compared with EXPECT. -/
def execCheck (m k : Nat) (s : State) : Out :=
  onRun m k 9 s fun r w =>
    let len := qField w 24 4
    let off := qField w 16 8 + r.arg.toNat * len
    onRead m k r s (qRead s m r.vid (segA w) off len (qVerify w)) fun s1 bs =>
      let v := checkOf (qField w 28 1) off (BitVec.ofNat 16 (qField w 30 2)) bs.flatten
      endRun s1 m k r (if v = BitVec.ofNat 64 (qField w 32 8) then 0 else 4)

end Sys2Proof.Machine
end

