-- ==== Sys2Proof/Machine/Replica.lean ====
section
/-! DEFINITION. The audit of replica sets and divergent copies (08 R211 to R214). -/

namespace Sys2Proof.Machine

open Sys2Proof

/-- Generation a is newer than b (08 R211). -/
def newer (a b : BitVec 16) : Bool := let d := (a - b).toNat; decide (1 ≤ d) && decide (d ≤ 32767)

/-- Whether an entry writes a set: COPY and MIGRATE their SEGB, OPT its four segments. -/
def writesSet (s : State) (rsid : Nat) (vid : BitVec 16) (w : BitVec 512) : Bool :=
  let hit (i : Nat) : Bool := match setOfIndex s vid i with | some (r, _) => decide (r = rsid) | none => false
  match qOp w with
  | 6 => hit (segA w) || hit (segB w) || hit (segC w) || hit (segD w)
  | 7 => hit (segB w)
  | 10 => hit (segB w)
  | _ => false

/-- Whether an update of a set is queued or running. -/
def updating (s : State) (rsid : Nat) : Bool :=
  s.engines.any fun p => (p.2.queue ++ p.2.running).any fun r => writesSet s rsid r.vid (entryOf s p.1 r)

/-- Loaded voyages that map a set. -/
def setMappers (s : State) (t : RepSet) : List Nat :=
  (copiesOf t).foldl (fun l p => (mappers s p.2).foldl (fun l v => addOnce v l) l) []

/-- The memory whose engine owns a set: that of copy 0 (01 R20). -/
def ownerMem (s : State) (t : RepSet) : Nat := let r := s.seg (t.seg.getD 0 0xFFFF); memOf r.tierB r.mem

/-- A cause of the owner's group. -/
def raiseSet (s : State) (t : RepSet) (rsid bit : Nat) : State :=
  raiseMif s (ownerMem s t) bit { data := BitVec.ofNat 256 rsid }

/-- Copies rewritten from one of them. -/
def rewriteFrom (s : State) (t : RepSet) (b src : Nat) (dst : List Nat) : State :=
  let d := blockData s t src b
  let r := blockRecord s t src b
  dst.foldl (fun s sid => writeBlock s t sid b d r) s

/-- 08 R213 step 4: the block stays suspect, and the running voyages that map the set are held. -/
def noMajority (s : State) (rsid : Nat) (t : RepSet) (b : Nat) : State :=
  let s1 := s.updRset rsid fun t => { t with suspects := t.suspects.map fun x => if x.block = b then { x with deadline := none } else x }
  (setMappers s1 t).foldl (fun s v => (holdVoyage s v stDivergent rsid b).updVoyage v fun v =>
    if v.st = vHeld then { v with heldRsid := some rsid } else v) (raiseSet s1 t rsid 10)

/-- The time for which the segment timeouts of the voyages that map a set have been suspended is made
up once no block of it is under the procedure. -/
def resumeTimers (s : State) (rsid : Nat) (since : Nat) : State :=
  match s.rset rsid with
  | none => s
  | some t =>
    if t.suspects.any fun x => x.deadline.isSome then s
    else (setMappers s t).foldl (fun s v => s.updVoyage v fun v =>
      { v with segHeld := false, segStart := v.segStart + (s.tide.toNat - since) }) s

/-- 08 R213 step 3: of the two copies that differ, one that equals the third copy wins; the other is rewritten from it and the
mark is cleared. -/
def settle (s : State) (rsid : Nat) (t : RepSet) (x : Suspect) (gen : BitVec 16) (data : Bytes) : State :=
  let b := x.block
  let win := x.pair.filter fun sid => blockGen s t sid b = gen && decide (blockData s t sid b = data)
  match win with
  | [] => noMajority s rsid t b
  | w :: _ =>
    let s1 := rewriteFrom s t b w (x.pair.filter fun sid => decide (sid ∉ win))
    s1.updRset rsid fun t => { t with suspects := t.suspects.filter fun x => decide (x.block ≠ b) }

/-! ### Fetches from a source outside (08 R213 R215) -/

/-- A READ_REQ of n bytes in the quay form to an endpoint outside the panel, with its PIDX; none where no port reaches it. -/
def askBytes (s : State) (m : Nat) (ep : BitVec 21) (off n : Nat) : Option (State × BitVec 10) :=
  let p := (s.engine m).nextPidx
  let req := { mkPkt 1 ep (homeId s (memUnit m)) (off % 2 ^ 38 + 2 ^ 38 * p.toNat) 0 false [] with len := BitVec.ofNat 7 (n / 64) }
  (epOut s m ep).map fun o =>
    (inject (s.updEngine m fun e => { e with nextPidx := p + 1 }) (memUnit m) (portUnit o.1) (ettEpoch s) { req with vcx := o.2 }, p)

/-- What is fetched next of block b and its record when `got` bytes have landed: offset from the source's base, and bytes. At the source the
records follow the data as in a copy of R210, and a record is read with the 64 bytes that hold it (DESIGN CHOICE, log entry 32). -/
def srcNext (t : RepSet) (b got : Nat) : Nat × Nat :=
  let i := b % max 1 (phaseBlocks t)
  if got < blockBytes then (i * blockBytes + got, 4096) else (t.dlen + 16 * i / 64 * 64, 64)

/-- The record in what has been fetched of a block with its record. -/
def gotRecord (t : RepSet) (b : Nat) (got : Bytes) : Bytes := slice got (blockBytes + 16 * (b % max 1 (phaseBlocks t)) % 64) 16

/-- The answer to a request of engine m, taken out of what has arrived. -/
def takeAnswer (s : State) (m : Nat) (p : BitVec 10) : Option (Packet × State) :=
  (takeFirst (fun k : Packet => (k.ty = 2 || k.ty = 3) && decide (pidxOf k = p)) (s.engine m).memIn).map fun x =>
    (x.1, s.updEngine m fun e => { e with memIn := x.2 })

/-- A suspect block's account replaced. -/
def setSuspect (s : State) (rsid : Nat) (x : Suspect) : State :=
  s.updRset rsid fun t => { t with suspects := t.suspects.map fun y => if y.block = x.block then x else y }

/-- The next request of the third copy of a block; where no port reaches the source it is not sent. -/
def askThird (s : State) (rsid : Nat) (t : RepSet) (x : Suspect) : State :=
  let n := srcNext t x.block x.got.length
  match askBytes s (ownerMem s t) t.srcEp (t.srcOff + n.1) n.2 with
  | some (s1, p) => setSuspect s1 rsid { x with asked := some p }
  | none => setSuspect s rsid { x with asked := none }

/-- Two intact copies of equal generation differ (08 R213 steps 1 and 2). -/
def diverge (s : State) (rsid : Nat) (t : RepSet) (b i j : Nat) : State :=
  let x : Suspect := { block := b, deadline := some (s.tide.toNat + 2500000), pair := [i, j] }
  let s1 := raiseSet ((notIdle s).updRset rsid fun t => { t with suspects := t.suspects ++ [x] }) t rsid 9
  let s2 := (setMappers s1 t).foldl (fun s v => s.updVoyage v fun v => { v with segHeld := true }) s1
  match ((copiesOf t).map (·.2)).find? fun k => decide (k ≠ i) && decide (k ≠ j) && intact s t k b && blockGen s t k b = blockGen s t i b with
  | some k => resumeTimers (settle s2 rsid t x (blockGen s t k b) (blockData s t k b)) rsid s.tide.toNat
  | none => if t.srcEp = 0 then resumeTimers (noMajority s2 rsid t b) rsid s.tide.toNat else askThird s2 rsid t x

/-- The first pair of a list that satisfies a test. -/
def firstPair (p : Nat → Nat → Bool) : List Nat → Option (Nat × Nat)
  | [] => none
  | x :: r =>
    match r.find? (p x) with
    | some y => some (x, y)
    | none => firstPair p r

/-- The copy of the newest generation of a list. -/
def newestOf (s : State) (t : RepSet) (b : Nat) : List Nat → Option Nat
  | [] => none
  | x :: r =>
    match newestOf s t b r with
    | none => some x
    | some y => if newer (blockGen s t y b) (blockGen s t x b) then some y else some x

/-- A copy's block and its record are read (08 R214: what is correctable is corrected first). -/
def readCopy (s : State) (t : RepSet) (sid b : Nat) : State :=
  let a := blockAt s t sid b
  let r := recordAt s t sid b
  readRaw (readRaw s a.1 a.2 blockBytes) r.1 r.2 16

/-- A block of which no copy is intact: it is lost (08 Table 8-12). -/
def loseBlock (s : State) (rsid : Nat) (t : RepSet) (b : Nat) : State :=
  let a := blockAt s t (t.seg.getD 0 0xFFFF) b
  let s1 := if ueIn s a.1 a.2 blockBytes then raiseSet s t rsid 1 else noteMemUe s a.1 a.2
  s1.updRset rsid fun t => { t with lost := addOnce b t.lost }

/-- 08 Table 8-12, for the copies that can be reached. -/
def auditBlock (s0 : State) (rsid : Nat) (t : RepSet) (b : Nat) : State :=
  let cs := ((copiesOf t).map (·.2)).filter fun sid => !unreachable s0 (memUnit (blockAt s0 t sid b).1)
  let s := cs.foldl (fun s sid => readCopy s t sid b) s0
  let good := cs.filter fun sid => intact s t sid b
  let same (x y : Nat) : Bool := decide (blockGen s t x b = blockGen s t y b)
  match firstPair (fun x y => same x y && decide (blockData s t x b ≠ blockData s t y b)) good with
  | some (i, j) => diverge s rsid t b i j
  | none =>
    match newestOf s t b good with
    | none => loseBlock s rsid t b
    | some n =>
      if good.length < cs.length then
        raiseSet (rewriteFrom s t b n (cs.filter fun sid => decide (sid ∉ good))) t rsid 7
      else
        let old := good.filter fun sid => !same sid n
        if old = [] || updating s rsid then s
        else raiseSet (rewriteFrom s t b n old) t rsid 8

/-- Whether a write to n bytes at an address of a memory touches block b of a set, its data or its record. -/
def hitsBlock (s : State) (t : RepSet) (b m a n : Nat) : Bool :=
  (copiesOf t).any fun p =>
    let d := blockAt s t p.2 b
    let r := recordAt s t p.2 b
    (decide (d.1 = m) && overlap (a, a + n - 1) (d.2, d.2 + blockBytes - 1)) || (decide (r.1 = m) && overlap (a, a + n - 1) (r.2, r.2 + 15))

/-- Whether a write is in progress on block b of a set: a WRITE under way to it or at its memory, or an entry that runs and writes it. -/
def writingBlock (s : State) (t : RepSet) (b : Nat) : Bool :=
  let hit (m : Nat) (p : Packet) : Bool := p.ty = 0 && hitsBlock s t b m (memAddr p) (pktBytes p)
  (s.engines.any fun x => x.2.memIn.any (hit x.1) || x.2.running.any fun r => !r.done &&
    (entryRefs s x.1 r (entryOf s x.1 r)).any fun f => f.2.1 && match qPlace s r.vid f.1 true f.2.2.1 f.2.2.2 with
      | .at_ m a => hitsBlock s t b m a f.2.2.2
      | _ => false) ||
  s.routers.any fun x => x.2.pkts.any fun q => decide (5184 ≤ q.pkt.unit) && decide (q.pkt.unit < 5264) && hit (q.pkt.unit - 5184) q.pkt

/-- REPLICA_AUDIT: the owner audits the set's next block; a suspect block and one that a write is in
progress on are left for the next pass, as is the phase that an update writes. -/
def execReplicaAudit (rsid : Nat) (s : State) : Out :=
  .next <|
    match s.rset rsid with
    | none => s
    | some t =>
      if !t.ready || phaseBlocks t = 0 || unreachable s (memUnit (ownerMem s t)) then s
      else
        let b := t.auditPos
        let s1 := s.updRset rsid fun t => { t with auditPos := (b + 1) % (t.phases * phaseBlocks t) }
        let writing := (updating s rsid && decide (b / phaseBlocks t ≠ t.gen.toNat % t.phases)) || writingBlock s t b
        if writing || t.suspects.any fun x => decide (x.block = b) then s1 else auditBlock s1 rsid t b

/-- A block under the procedure, with its deadline. -/
def suspectOf (t : RepSet) (b : Nat) : Option (Suspect × Nat) :=
  (t.suspects.find? fun x => decide (x.block = b)).bind fun x => x.deadline.map fun d => (x, d)

/-- THIRD_COPY_ARRIVAL: what the source has answered of a suspect block is taken and the next part asked for; once the block and its record
have landed they are compared with the copies. A part that the source refuses is asked for again. -/
def execThirdCopyArrival (rsid block : Nat) (s : State) : Out :=
  .next <|
    match s.rset rsid with
    | none => s
    | some t =>
      match suspectOf t block with
      | none => s
      | some (x, d) =>
        match x.asked with
        | none => askThird s rsid t x
        | some p =>
          match takeAnswer s (ownerMem s t) p with
          | none => s
          | some (k, s1) =>
            let x1 := { x with asked := none, got := if k.ty = 2 then x.got ++ slice k.payload 0 (srcNext t block x.got.length).2 else x.got }
            if x1.got.length < blockBytes + 64 then askThird s1 rsid t x1
            else
              resumeTimers (settle s1 rsid t x1 (BitVec.ofNat 16 (fieldAt (gotRecord t block x1.got) 0 2)) (x1.got.take blockBytes))
                rsid (d - 2500000)

/-- THIRD_COPY_TIMEOUT: the fetch has not completed within 10 ms. -/
def execThirdCopyTimeout (rsid block : Nat) (s : State) : Out :=
  .next <|
    match s.rset rsid with
    | none => s
    | some t =>
      match suspectOf t block with
      | none => s
      | some (_, d) =>
        if s.tide.toNat < d then s
        else resumeTimers (noMajority s rsid t block) rsid (d - 2500000)

end Sys2Proof.Machine
end

