-- ==== Sys2Proof/Machine/Segment.lean ====
section
/-! DEFINITION. Moves of segments by invalidate and drain (09 R222), and translation faults (09 R223 to R227). -/

namespace Sys2Proof.Machine

open Sys2Proof

/-! ## Units that translate a segment -/

/-- Whether a voyage's segment index names a SID. -/
def namesSid (s : State) (vid : BitVec 16) (i sid : Nat) : Bool :=
  match mapEnt s vid i with
  | some e => decide (e.sid.toNat = sid)
  | none => false

/-- Whether a crane entry refers to a SID. -/
def entryOn (s : State) (vid : BitVec 16) (sid : Nat) (e : CraneEntry) : Bool :=
  !e.push && decide (dTgt e.desc = 1) && namesSid s vid (dRef e.desc) sid

/-- Whether a quay entry refers to a SID. -/
def runOn (s : State) (m sid : Nat) (r : QRun) : Bool :=
  let w := entryOf s m r
  [segA w, segB w, segC w, segD w].any fun i => namesSid s r.vid i sid

/-- Whether unit u has a packet in flight that it translated under a SID. -/
def inFlight (s : State) (u sid : Nat) : Bool :=
  if u < 5184 then
    (craneEntries (s.core u)).any fun e => entryOn s (s.core u).misc.vid sid e && decide (e.open_ ≠ [])
  else (s.engine (u - 5184)).running.any fun r => runOn s (u - 5184) sid r && decide (r.open_ ≠ [])

/-- Units with packets in flight under a SID. -/
def busyUnits (s : State) (sid : Nat) : List Nat :=
  ((s.cores.map (·.1)).filter fun c => inFlight s c sid) ++
    (((s.engines.map (·.1)).filter fun m => inFlight s (memUnit m) sid).map memUnit)

/-- Every unit drops its translation of a SID. -/
def dropTranslations (s : State) (sid : Nat) : State :=
  let s1 := (s.cores.map (·.1)).foldl (fun t c => t.updCore c fun k => { k with crane := { k.crane with
    segCache := k.crane.segCache.filter fun p => !namesSid s k.misc.vid p.1 sid } }) s
  (s1.engines.map (·.1)).foldl (fun t m => t.updEngine m fun e =>
    { e with segCache := e.segCache.filter fun p => !namesSid s (BitVec.ofNat 16 p.1) p.2.1 sid }) s1

/-! ## Moves (09 R222) -/

/-- STATE becomes MOVING and SEG_INVAL is broadcast. Units without packets in flight answer at once. -/
def startMove (s : State) (sid : Nat) (v : SegMoveSt) : State :=
  let s1 := dropTranslations (notIdle s) sid
  s1.updSeg sid fun r => { r with st := 2, move := some { v with waiting := busyUnits s sid } }

/-- INVAL_ACK: the packets of unit u that were translated under the segment have completed. -/
def execInvalAck (sid u : Nat) (s : State) : Out :=
  onUnit (decide (u < 5264)) <|
    match (s.seg sid).move with
    | none => s
    | some v =>
      if u ∉ v.waiting ∨ inFlight s u sid then s
      else s.updSeg sid fun r => { r with move := some { v with waiting := without u v.waiting } }

/-- The bytes and the uncorrectable marks of a range copied to another place. -/
def copyRange (s : State) (m a m2 a2 len : Nat) : State :=
  let s1 := zeroMem s m2 a2 len
  let inside (k : Nat) : Bool := decide (memKey m a ≤ k) && decide (k < memKey m (a + len))
  let shift (k : Nat) : Nat := k - memKey m a + memKey m2 a2
  { s1 with
    mem := (s.mem.filter fun p => inside p.1).foldl (fun t p => put 0 t (shift p.1) p.2) s1.mem
    ueBlocks := (s.ueBlocks.filter fun p => inside p.1).foldl (fun t p => put .good t (shift p.1) p.2) s1.ueBlocks }

/-- The entry of a queue that is suspended on a SID resumes when it is in place. -/
def wakeQueue (s : State) (c q sid : Nat) : State :=
  let k := s.core c
  match curOf k q with
  | some (j, e) =>
    if e.suspended && entryOn s k.misc.vid sid e then
      match segTr (s.seg sid) with
      | some t => (countFault s k.misc.vid e.faultTick).setCore c (segFill (putEntry k q j { e with suspended := false }) (dRef e.desc) t)
      | none => s
    else s
  | none => s

/-- A run that is suspended on a SID goes on. -/
def wakeRun (sid : Nat) (r : QRun) : QRun := if r.suspended && decide (r.sid = sid) then { r with suspended := false } else r

/-- The runs of an engine resume on a SID. -/
def wakeEngine (s : State) (m sid : Nat) : State :=
  let e := s.engine m
  let rs := e.running.filter fun r => r.suspended && decide (r.sid = sid)
  let s1 := rs.foldl (fun s r => countFault s r.vid r.faultTick) s
  s1.updEngine m fun e => { e with running := e.running.map (wakeRun sid) }

/-- SEG_READY: every unit suspended on a SID refills its translation and resumes. -/
def wakeUnits (s : State) (sid : Nat) : State :=
  if (s.seg sid).st ≠ 1 then s
  else
    let s1 := (s.cores.map (·.1)).foldl (fun s c => (List.range 8).foldl (fun s q => wakeQueue s c q sid) s) s
    (s1.engines.map (·.1)).foldl (fun s m => wakeEngine s m sid) s1

/-- Memories in which a replacement of a lost copy may lie: those of the groups that hold no copy. -/
def refillMems (s : State) (t : RepSet) : List Nat :=
  let used := (copiesOf t).map fun p => mifOf (memOf (s.seg p.2).tierB (s.seg p.2).mem)
  (List.range 72).filter fun m => decide (mifOf m ∉ used) && !unreachable s (memUnit m)

/-- 13 R335: a lost copy whose record has been moved onto the place of an intact one is filled again in
another memory-interface group. -/
def refill (s : State) (sid : Nat) : State :=
  let r := s.seg sid
  match s.rset r.rsid.toNat with
  | none => s
  | some t =>
    let (s1, place) := placeAmong s (refillMems s t) r.len
    match place with
    | none => s1
    | some (m, b) =>
      startMove s1 sid { waiting := [], tierB := false, mem := m, base := b, toState := 1, prio := r.prio, home := r.home,
                         asker := none, copied := false }

/-- SEG_READY: once every INVAL_ACK has arrived the data is copied, the record takes the new place and
state, and the suspended units resume. A move of what a voyage maps is logged (01 R22). -/
def execSegReady (sid : Nat) (s : State) : Out :=
  .next <| if s.hm.hung.isSome then s else
    let r := s.seg sid
    match r.move with
    | none => s
    | some v =>
      if v.waiting ≠ [] then s
      else
        let s1 := if v.copied then s else copyRange s (memOf r.tierB r.mem) r.base (memOf v.tierB v.mem) v.base r.len
        let s2 := s1.setSeg sid { r with
          st := v.toState, tierB := v.tierB, mem := v.mem, base := v.base, prio := v.prio, home := v.home, move := none,
          resolving := false, faulted := r.faulted && decide (v.toState ≠ 1), readOnly := v.copied
          promoted := if r.tierB && !v.tierB then some s.tide.toNat else r.promoted }
        let s2 := if mappers s sid = [] then s2 else logOpen s2 { data := BitVec.ofNat 256 sid }
        let s3 := finishOp (wakeUnits s2 sid) v.asker stOk 0 []
        if v.copied then refill s3 sid else s3

/-! ## Fault resolution (09 R225 R226) -/

/-- Whether a core has a transfer suspended on a SID. -/
def coreWaits (s : State) (c sid : Nat) : Bool :=
  (List.range 8).any fun q => match curOf (s.core c) q with
    | some (_, e) => e.suspended && entryOn s (s.core c).misc.vid sid e
    | none => false

/-- Whether a unit is suspended on a SID. -/
def anyWaits (s : State) (sid : Nat) : Bool :=
  (s.cores.any fun p => coreWaits s p.1 sid) || s.engines.any fun p => p.2.running.any fun r => r.suspended && decide (r.sid = sid)

/-- Voyages with a unit suspended on a SID. -/
def waitingVoyages (s : State) (sid : Nat) : List Nat :=
  let a := (s.cores.filter fun p => coreWaits s p.1 sid).map fun p => p.2.misc.vid.toNat
  let b := s.engines.flatMap fun p => (p.2.running.filter fun r => r.suspended && decide (r.sid = sid)).map fun r => r.vid.toNat
  (a ++ b).foldl (fun l v => addOnce v l) []

/-- Stacks of a memory's group. -/
def stacksOf (m : Nat) : List Nat := (List.range 72).filter fun i => mifOf i = mifOf m

/-- Whether the harbour master may demote a segment: a resident, unpinned segment of the group's
stacks, which no enabled window maps (10 R243), not promoted within 10 ms and not that of another waiting fault. -/
def demotable (s : State) (g : List Nat) (p : Nat × SegRec) : Bool :=
  let r := p.2
  r.st = 1 && !r.tierB && decide (r.mem ∈ g) && decide (r.prio ≠ 0) && decide (winsOf s p.1 = []) &&
  (match r.promoted with | some t => decide (t + 2500000 ≤ s.tide.toNat) | none => true) && !r.resolving && !r.faulted && !anyWaits s p.1

/-- The demotable segment of lowest PRIO. -/
def lowestPrio : List (Nat × SegRec) → Option (Nat × SegRec)
  | [] => none
  | x :: r =>
    match lowestPrio r with
    | none => some x
    | some y => if y.2.prio.toNat < x.2.prio.toNat then some y else some x

/-- A resident segment starts its way to Tier B, to its group's pair, or to another with space: the spec does not say to which (DESIGN CHOICE,
log entry 58). -/
def demote (s : State) (sid : Nat) : Option State :=
  let r := s.seg sid
  let pair := 72 + mifOf r.mem
  let (s1, p0) := placeIn s pair r.len
  let (s2, place) := match p0 with
    | some b => (s1, some (pair, b))
    | none => placeAmong s1 [72, 73, 74, 75, 76, 77, 78, 79] r.len
  match place with
  | none => none
  | some (m, b) =>
    let s3 := startMove s2 sid { waiting := [], tierB := true, mem := m - 72, base := b, toState := 3, prio := r.prio,
                                 home := r.home, asker := none, copied := false }
    some ((mappers s sid).foldl (fun s v => event s 0x0F (some v) stOk sid (m - 72)) s3)

/-- Whether a demotion out of the group is in progress. -/
def demoting (s : State) (g : List Nat) : Bool :=
  s.segs.any fun p => !p.2.tierB && decide (p.2.mem ∈ g) && (match p.2.move with | some v => decide (v.toState = 3) | none => false)

/-- FAULT_RESOLVE: the harbour master resolves a fault by the state it finds (09 Table 9-4), whatever has become of the voyages that
faulted (R236). While a demotion out of the group runs it waits for it. A segment that finds no place in Tier B is not demoted: the spec is silent, and the
model then tries no other and reports nothing (DESIGN CHOICE, log entry 58). -/
def execFaultResolve (sid : Nat) (s : State) : Out :=
  .next <| if s.hm.hung.isSome then s else
    let r := s.seg sid
    if !r.faulted && !anyWaits s sid then s
    else if r.st = 1 then (wakeUnits s sid).updSeg sid fun r => { r with faulted := false }
    else if r.st ≠ 3 then s
    else
      let home := r.home.toNat
      let g := stacksOf home
      let (s1, p0) := placeIn s home r.len
      let (s2, place) := match p0 with
        | some b => (s1, some (home, b))
        | none => placeAmong s1 g r.len
      match place with
      | some (m, b) =>
        startMove s2 sid { waiting := [], tierB := false, mem := m, base := b, toState := 1, prio := r.prio, home := r.home,
                           asker := none, copied := false }
      | none => if demoting s g then s2 else
        match lowestPrio (s.segs.filter (demotable s g)) with
        | some (d, _) =>
          (match demote s2 d with
            | some s3 => s3
            | none => s2)
        | none =>
          if r.resolving then s2
          else (waitingVoyages s sid).foldl (fun s v => event s 0x0A (some v) stNoResource sid 0)
            (s2.updSeg sid fun r => { r with resolving := true })

end Sys2Proof.Machine
end

