-- ==== Sys2Proof/Machine/Preempt.lean ====
section
/-! DEFINITION. Mooring joins (04 R110, 08 R208), pre-emption (09 R228 to R235), and the completion of a voyage (04 R112, 10 R257). -/

namespace Sys2Proof.Machine

open Sys2Proof

/-! ## The mooring join -/

/-- Whether an engine has arrived at a join: the conditions of 08 R208. -/
def engineIdle (s : State) (m : Nat) (vid : BitVec 16) : Bool :=
  let e := s.engine m
  !((e.queue ++ e.running).any fun r => r.vid = vid) &&
  (match ctxOf e vid with
    | some c => decide (c.launchLeft = [] ∧ c.landed = [] ∧ c.contribs = [] ∧ c.sent = [])
    | none => true)

def enginesIdle (s : State) (vid : BitVec 16) : Bool := (enginesOf s vid).all fun m => engineIdle s m vid

/-- The MID at which a core waits. -/
def midOf (k : Core) : Option (BitVec 16) :=
  match k.sync.waiting with
  | some ⟨_, _, _, .moor mid⟩ => if k.sync.run = .running then some mid else none
  | _ => none

/-- A core takes its record and stands behind the MOOR with cleared registers (04 R110). -/
def moorCore (k0 : Core) (mid : BitVec 16) (seed : BitVec 64) (xy : Nat × Nat) : Core :=
  let k := afterMoor k0
  let r := moorRec k0 mid
  { k with
    regs := { k.regs with v := [], e := [], tileT := [], tileNx := [], f := put 0 [] 7 (fReg k 7)
                          lfsr := seedLanes seed xy.1 xy.2 r.ordinal }
    seq := { k.seq with ordinal := r.ordinal, lastMid := mid, moor := some r }
    sync := { k.sync with waiting := none, waitSince := none, waitLong := false, round := [] } }

/-- Sets that a voyage writes: those of the map entries with WR. -/
def writtenSets (s : State) (vid : BitVec 16) : List Nat :=
  match s.voyage vid.toNat with
  | none => []
  | some v => v.img.segmap.foldl (fun l e =>
      let r := (s.seg e.sid.toNat).rsid.toNat
      if e.wr && (s.rset r).isSome then addOnce r l else l) []

/-- Sets whose generation rises at the join. -/
def advancing (s : State) (vid : BitVec 16) : List Nat :=
  (enginesOf s vid).foldl (fun l m => match ctxOf (s.engine m) vid with
    | some c => c.advance.foldl (fun l r => addOnce r l) l
    | none => l) []

/-- Whether the rise of a set's generation would leave a copy 32,768 behind (08 R211). -/
def tooFar (s : State) (t : RepSet) : Bool :=
  (copiesOf t).any fun p => (List.range (t.phases * phaseBlocks t)).any fun b =>
    decide ((t.gen + 1 - blockGen s t p.2 b).toNat = 32768)

/-- The generations rise (08 R206). One that R211 forbids does not, which is logged (DESIGN CHOICE, log entry 58: R211 has the harbour master refuse
such an update with BAD_MESSAGE, and no message asks at a join). -/
def raiseGens (s : State) (vid : Nat) (l : List Nat) : State :=
  l.foldl (fun s r =>
    match s.rset r with
    | some t =>
      if tooFar s t then logOpen s { vid := BitVec.ofNat 16 vid, data := BitVec.ofNat 256 r }
      else s.updRset r fun t => { t with gen := t.gen + 1 }
    | none => s) s

/-- The sets that a voyage's OPT entries write. -/
def optSets (s : State) (vid : Nat) (v : Voyage) : List Nat :=
  (v.img.quays.flatMap (·.entries)).foldl (fun l w =>
    if qOp w = 6 then ([segA w, segB w, segC w, segD w].filterMap fun i => (setOfIndex s (BitVec.ofNat 16 vid) i).map (·.1)).foldl
      (fun l r => addOnce r l) l else l) []

/-- Whether an update by a voyage's optimiser is one that R211 forbids. -/
def updateTooFar (s : State) (vid : Nat) (v : Voyage) : Bool :=
  (optSets s vid v).any fun r => match s.rset r with | some t => tooFar s t | none => false

/-- An engine records at the join (08 R208). -/
def moorEngine (s : State) (vid : BitVec 16) (m : Nat) : State :=
  match ctxOf (s.engine m) vid with
  | none => s
  | some c =>
    let gens := (writtenSets s vid).filterMap fun r => (s.rset r).map fun t => (r, t.gen)
    let rec_ : QMoorRec := { vid := vid, lens := c.lens, optR := c.optR, optStep := c.optStep, gens := gens }
    s.updEngine m fun e =>
      { updCtx e vid (fun c => { c with round := [], advance := [] }) with moors := e.moors.filter (·.vid ≠ vid) ++ [rec_] }

/-- A basin whose work moves at this mooring point after a second phase failure (12 R296). -/
def moveDue (s : State) (vid : BitVec 16) : Bool :=
  match s.voyage vid.toNat with
  | none => false
  | some v => s.power.limited.any fun b =>
      ((coresOf s vid).any fun c => basinOf s c = b) && match reserveFor v b with
        | some r => mayMove s v vid b r
        | none => false

/-- What follows a join: a soft pre-emption that waits saves the voyage; a basin's work that must
move is due to. -/
def afterJoin (s : State) (vid : BitVec 16) : State :=
  match s.voyage vid.toNat with
  | none => s
  | some v =>
    if (match v.preempt with | some q => !q.hard | none => false) then softSave s vid.toNat
    else if moveDue s vid then dueReplay s vid 9
    else s

/-- MOOR_JOIN: every member core and engine has arrived; equal MIDs release the join. A set with a
suspect block whose generation would rise holds it (08 R214). -/
def execMoorJoin (pid : Nat) (s : State) : Out :=
  onUnit (decide (pid < 24)) <|
    match runningIn s pid with
    | none => s
    | some vid =>
      let ms := membersOf s vid
      let mids := ms.map fun c => midOf (s.core c)
      let suspect := (advancing s vid).any fun r => match s.rset r with | some t => decide (t.suspects ≠ []) | none => false
      match mids with
      | some mid :: _ =>
        if mids.any (·.isNone) || !enginesIdle s vid || suspect then s
        else if !(mids.all (· = some mid)) then syncMismatch s vid ms
        else
          let seed := match s.voyage vid.toNat with | some v => v.seed | none => 0
          let s1 := raiseGens s vid.toNat (advancing s vid)
          let s2 := (enginesOf s1 vid).foldl (fun s m => moorEngine s vid m) s1
          let s3 := ms.foldl (fun s c => s.updCore c fun k => moorCore k mid seed (coreXY s c)) s2
          let s4 := updCores s3 (coresOf s3 vid) fun k => { k with sync := { k.sync with round := [] } }
          let s5 := s4.updVoyage vid.toNat fun v =>
            { v with ordinal := v.ordinal + 1, ordReplays := 0, ordTimeouts := 0, coreFails := [], segStart := s.tide.toNat }
          afterJoin s5 vid
      | _ => s

/-! ## Hard pre-emption (09 R231 to R235) -/

/-- Whether staging slots that a voyage needs are still being parked. -/
def slotsHeld (s : State) (vid : Nat) (cs : List Nat) : Bool :=
  s.voyages.any fun p => match p.2 with
    | some v => decide (p.1 ≠ vid) && (match v.save with
        | some g => !g.parked && g.hard && g.cores.any fun x => decide (placeOf v x.1 ∈ cs)
        | none => false)
    | none => false

/-- The transfers of a voyage are quiet: no packet of its units is unanswered, no read data waits. -/
def transfersQuiet (s : State) (vid : BitVec 16) : Bool :=
  quiet s vid && (coresOf s vid).all fun c => (s.core c).crane.rsp = [] && (s.core c).crane.naks = []

/-- No round of a voyage can still move: what stands at an output has been forwarded as far as it has been merged and is
not whole, and no entry can merge. -/
def roundsQuiet (s : State) (vid : BitVec 16) : Bool :=
  s.routers.all fun p => (p.2.outs.all fun o => o.vid ≠ vid || (decide (o.sent = o.merged) && decide (o.merged < 50))) &&
    p.2.table.all fun e => e.vid ≠ vid || (mergeFlit s p.1 e).isNone

/-- No packet, drain or token of a voyage's cores is under way. -/
def berthsQuiet (s : State) (vid : BitVec 16) : Bool :=
  (coresOf s vid).all fun c => let k := s.core c
    decide (k.berths.slots = [] ∧ k.berths.drains = [] ∧ k.sync.tokens = [])

/-- The start of a hard save; a save in progress keeps its phase. -/
def startHard (s : State) (vid : Nat) : State :=
  s.updVoyage vid fun v => { v with savePhase := max 1 v.savePhase, preempt := v.preempt.map fun q => { q with hard := true } }

/-- A core stops; a wait at a join is abandoned. -/
def haltForSave (k : Core) : Core :=
  let k1 := stopCore k
  { k1 with sync := { k1.sync with waiting := none, waitSince := none, holds := [], holdSent := false } }

/-- The image of a voyage whose berths are about to close: its cores with the berths as they stand. -/
def berthSnapshot (s : State) (v : Voyage) : SaveImg :=
  { hard := true, dtab := reg s (fabBase + 0x1C), basins := basinsOf s v, streams := [], outs := [], ctxs := [], runs := [], moors := [],
    stores := [], parked := false
    cores := (voyagePositions s v).map fun c => (c, s.core (placeOf v c)) }

/-- The captured image: cores with the berth records as they stood before the close, streams held at
merges, contexts and suspended runs of the engines. -/
def capture (s : State) (vid : Nat) (v : Voyage) (before : SaveImg) : SaveImg :=
  let id := BitVec.ofNat 16 vid
  { before with
    dtab := reg s (fabBase + 0x1C)
    cores := before.cores.map fun p =>
      let k := s.core (placeOf v p.1)
      (p.1, { k with berths := { k.berths with recs := p.2.berths.recs } })
    streams := s.routers.flatMap fun r => (r.2.streams.filter (·.vid = id)).map fun t => (r.1, t)
    outs := s.routers.flatMap fun r => (r.2.outs.filter (·.vid = id)).map fun t => (r.1, t)
    moors := s.engines.flatMap fun e => (e.2.moors.filter (·.vid = id)).map fun t => (e.1, t)
    stores := (before.cores.map fun p => (stageSlot (placeOf v p.1)).1).foldl (fun l m => addOnce m l) []
    ctxs := (enginesOf s id).filterMap fun m => (ctxOf (s.engine m) id).map fun c => (m, c)
    runs := (enginesOf s id).flatMap fun m =>
      (((s.engine m).running.filter (·.vid = id)).map fun r => (m, true, { r with suspended := false })) ++
        ((s.engine m).queue.filter (·.vid = id)).map fun r => (m, false, r) }

/-- Flits of a stream in a capture region, those that have come and not merged (09 R234): a 16-byte descriptor in the order of its fields (log entry 57), then the
flit's 256 bytes. -/
def captureFlits (t : RStream) : Bytes :=
  let img := imageOut t.img
  ((List.range t.came).drop t.flits).flatMap fun i =>
    leBytes 2 t.tag.toNat ++ leBytes 2 t.inp ++ leBytes 2 (4 * i) ++ leBytes 2 i ++ leBytes 1 (b2n t.round) ++ zeros 7 ++ slice img (256 * i) 256

/-- What a router's capture region holds: a 64-byte header with the flit count, then the flits. -/
def captureBytes (l : List RStream) : Bytes :=
  leBytes 4 ((l.map fun t => t.came - t.flits).foldl (· + ·) 0) ++ zeros 60 ++ l.flatMap captureFlits

/-- The core images and the capture regions are written into the staging area (09 R232 to R234). -/
def writeStaging (s : State) (vid : Nat) (v : Voyage) (g : SaveImg) : State :=
  let s1 := g.cores.foldl (fun t p =>
    let a := stageSlot (placeOf v p.1)
    memWrite t a.1 a.2 (saveImage p.2 v.img (coreX p.1, coreY p.1) v.stopTick g.dtab)) s
  let s2 := (capturedRouters g).foldl (fun t r => memWrite t (captureAt r).1 (captureAt r).2 (captureBytes (capturedAt g r))) s1
  s2.updVoyage vid fun v => { v with save := some g }

/-- HARD_SAVE_PHASE_END: the phase of a voyage's hard save ends once its condition holds everywhere. -/
def execHardSavePhaseEnd (vid : Nat) (s : State) : Out :=
  .next <| if s.hm.hung.isSome then s else
    let id := BitVec.ofNat 16 vid
    match s.voyage vid with
    | none => s
    | some v =>
      if v.st ≠ vSaving ∨ v.due ≠ [] then s
      else
        match v.savePhase with
        | 1 => (updCores s (coresOf s id) haltForSave).updVoyage vid fun v => { v with savePhase := 2, stopTick := s.tide }
        | 2 =>
          if !transfersQuiet s id then s
          else
            let s1 := s.updVoyage vid fun v => { v with savePhase := 3, save := some (berthSnapshot s v) }
            updCores s1 (coresOf s1 id) fun k => closeAll k s.cc
        | 3 =>
          if !berthsQuiet s id || !roundsQuiet s id || slotsHeld s vid (coresOf s id) then s
          else s.updVoyage vid fun v => { v with savePhase := 4 }
        | 4 =>
          (match v.save with
            | some g => (writeStaging (countSuspended s id) vid v (capture s vid v g)).updVoyage vid fun v => { v with savePhase := 5 }
            | none => s)
        | 5 =>
          (match v.save with
            | some g => savedVoyage s vid g 1
            | none => s)
        | _ => s

/-- SAVE_PARK_DONE: the images of a hard save are parked in Tier B, each in the pair of its stack's
group, and the staging slots are free. -/
def execSaveParkDone (vid : Nat) (s : State) : Out :=
  .next <| if s.hm.hung.isSome then s else
    match s.voyage vid with
    | none => s
    | some v =>
      match v.save with
      | none => s
      | some g =>
        if g.parked || !g.hard || v.st ≠ vPreempted then s
        else
          let parts := stagingParts v g
          let park (s : State) (grp : Nat) : State :=
            let mine := parts.filter fun a => mifOf a.1 = grp
            if mine = [] then s
            else saveSegment s vid (mine.flatMap fun a => memRead s a.1 a.2.1 a.2.2) [72 + grp]
          let s1 := (List.range 8).foldl park s
          (scrubStaging s1 v g).updVoyage vid fun v => { v with save := some { g with
            parked := true, stores := (g.stores.map fun m => 72 + mifOf m).foldl (fun l m => addOnce m l) [] } }

/-! ## Soft pre-emption (09 R228) -/

/-- PREEMPT_DEADLINE: no mooring point was reached by the deadline: the request becomes HARD, or is
withdrawn with TIMEOUT and the voyage runs on. -/
def execPreemptDeadline (vid : Nat) (s : State) : Out :=
  .next <|
    match s.voyage vid with
    | none => s
    | some v =>
      match v.preempt with
      | none => s
      | some q =>
        match q.deadline with
        | none => s
        | some d =>
          if q.hard || v.st ≠ vSaving || decide (s.tide.toNat < d) then s
          else if q.esc then startHard s vid
          else finishOp (s.updVoyage vid fun v => { v with st := vRunning, preempt := none }) q.asker stTimeout 0 []

/-! ## Resume (09 R230 R235) -/

/-- A saved core as its mooring record leaves it. -/
def savedToMoor (s : State) (v : Voyage) (vid : BitVec 16) (p : Nat × Core) : Nat × Core :=
  let xy := (coreX p.1, coreY p.1)
  let base := launchCore (s.core (placeOf v p.1)) vid v.seed xy (coreRec v.img p.1)
  if v.ordinal = 0 then (p.1, base)
  else match p.2.seq.moor with
    | some r => if r.ordinal = v.ordinal then (p.1, restoreCore base r v.seed xy) else (p.1, { base with sync := { run := .ended } })
    | none => (p.1, { base with sync := { run := .ended } })

/-- Whether a hard-saved voyage resumes at its saved step boundary (09 R235): the same basins and distance table, and the
memories that hold its images not lost. -/
def atBoundary (s : State) (v : Voyage) (g : SaveImg) : Bool :=
  g.hard && decide (g.basins = basinsOf s v) && decide (g.dtab = reg s (fabBase + 0x1C)) &&
    g.stores.all fun m => !(s.engine m).lost && !unreachable s (memUnit m)

/-- A core that had been stopped runs again; its suspended transfers translate anew. -/
def goOn (k : Core) : Core :=
  { k with sync := { k.sync with run := if k.sync.run = .stopped then .running else k.sync.run }
           crane := { k.crane with segCache := []
                                   queues := k.crane.queues.map fun q => (q.1, q.2.map fun e => { e with suspended := false }) } }

/-- The voyage runs again in its partition: from its step boundary, with the captured streams and runs,
or from its mooring records. -/
def resumeVoyage (s : State) (vid : Nat) : State :=
  let id := BitVec.ofNat 16 vid
  match s.voyage vid with
  | none => s
  | some v =>
    match v.save with
    | none => s
    | some g =>
      let here := atBoundary s v g
      let cores := if here then g.cores.map fun p => (p.1, goOn p.2) else g.cores.map (savedToMoor s v id)
      let s1 := replant (placeCores s v id cores) vid
      let s2 := if here then
          let t := g.streams.foldl (fun s p => s.updRouter p.1 fun k => { k with streams := k.streams ++ [p.2] }) s1
          let t0 := g.outs.foldl (fun s p => s.updRouter p.1 fun k => { k with outs := k.outs ++ [p.2] }) t
          let tm := g.moors.foldl (fun s p => s.updEngine p.1 fun e =>
            { e with moors := e.moors.filter (·.vid ≠ id) ++ [p.2] }) t0
          let t1 := g.ctxs.foldl (fun s p => s.updEngine p.1 fun e => updCtx e id fun _ => p.2) tm
          g.runs.foldl (fun s p => s.updEngine p.1 fun e =>
            if p.2.1 then { e with running := e.running ++ [p.2.2] } else { e with queue := e.queue ++ [p.2.2] }) t1
        else restoreEngines s1 id
      s2.updVoyage vid fun v => { v with st := vRunning, save := none, savePhase := 0, segStart := s.tide.toNat }

/-! ## Completion (04 R112, 10 R257) -/

/-- Whether every core of a voyage has ended and every quay manifest has finished. -/
def complete (s : State) (vid : Nat) : Bool :=
  let id := BitVec.ofNat 16 vid
  match s.voyage vid with
  | none => false
  | some v => (v.st = vRunning || (v.st = vSaving && decide (v.savePhase = 0))) && decide (v.due = []) && decide (coresOf s id ≠ []) &&
      decide (membersOf s id = []) && enginesIdle s id

/-- Other voyages of a race group that have not ended. -/
def raceOthers (s : State) (vid : Nat) : List Nat :=
  match s.voyage vid with
  | none => []
  | some v => if v.race = 0 then [] else
      (s.voyages.filter fun p => match p.2 with
        | some w => decide (p.1 ≠ vid) && w.race = v.race && decide (w.st ≠ vEnded) && decide (w.st ≠ vLoaded)
        | none => false).map (·.1)

/-- The tick in which a voyage has completed: this one where the clock has not kept it. -/
def doneAt (s : State) (vid : Nat) : Nat := ((s.voyage vid).bind (·.doneTick)).getD s.tide.toNat

/-- The member that wins: of those that are complete the first, of several in one tick the lowest VID. -/
def raceWinner (s : State) (vid : Nat) : Nat :=
  ((raceOthers s vid).filter (complete s)).foldl
    (fun w v => if doneAt s v < doneAt s w ∨ (doneAt s v = doneAt s w ∧ v < w) then v else w) vid

/-- VOYAGE_COMPLETE. -/
def execVoyageComplete (vid : Nat) (s : State) : Out :=
  .next <| if s.hm.hung.isSome then s else
    if !complete s vid then s
    else
      let w := raceWinner s vid
      let ord := match s.voyage w with | some v => v.ordinal.toNat | none => 0
      (raceOthers s w).foldl (fun s v => endVoyage s v stCancelled 0x04 w 0) (endVoyage s w stOk 0x01 ord 0)

end Sys2Proof.Machine
end

