-- ==== Sys2Proof/Machine/Mailbox.lean ====
section
/-! DEFINITION. Mailboxes (10 R246 to R250): submission, acceptance, the checks common to every message type, and the order in which messages are served. -/

namespace Sys2Proof.Machine

open Sys2Proof

/-! ## Submission and acceptance (10 R246) -/

/-- MAILBOX_SUBMIT: a host write of bytes `off` on into the request slot of a mailbox. A write that
covers byte 3 submits the message. -/
def execMailboxSubmit (mb off : Nat) (data : Bytes) (s : State) : Out :=
  onUnit (decide (mb < boxCount)) <|
    let b := s.box mb
    let submits := decide (off ≤ 3) && decide (3 < off + data.length)
    if b.st ≠ 0 then (if submits then raise s 0 0 (16 + mb) else s)
    else
      let s1 := s.setBox mb { b with req := putList 0 b.req off (data.take (4096 - off)) }
      if submits then setBoxState s1 mb 1 else s1

/-- The message types of 10 Table 10-10: default timeout in ticks, and whether the operation continues
after a TIMEOUT. -/
def msgType : Nat → Option (Nat × Bool)
  | 0x01 | 0x03 | 0x05 | 0x07 | 0x23 | 0x24 | 0x2A | 0x30 | 0x31 | 0x33 | 0x37 => some (250000, false)
  | 0x02 | 0x06 => some (25000000, false)
  | 0x04 => some (5000000, true)
  | 0x10 => some (2500000, false)
  | 0x11 => some (0, true)
  | 0x20 | 0x28 | 0x32 => some (250000000, false)
  | 0x21 | 0x22 | 0x2B => some (250000000, true)
  | 0x29 => some (15000000000, true)
  | 0x34 | 0x36 => some (2500000, true)
  | 0x35 => some (5000000, false)
  | _ => none

/-- The copy of a message that acceptance takes. -/
def copyMsg (s : State) (mb : Nat) : Msg :=
  let raw := lookRange 0 (s.box mb).req 0 4096
  let ty := fieldAt raw 4 2
  let tmo := fieldAt raw 8 4
  let timeout := match msgType ty with
    | some (d, _) => if ty = 0x11 then none else some (if tmo = 0 then d else 1024 * tmo)
    | none => none
  { bytes := raw, ty := BitVec.ofNat 16 ty, seq := BitVec.ofNat 32 (fieldAt raw 0 4), tick := s.tide.toNat,
    timeout := timeout, begun := false, ord := s.hm.accepts }

/-- MAILBOX_ACCEPT: the harbour master copies a submitted message; one of an unknown TYPE is answered
with BAD_MESSAGE. It accepts none while it hangs or the device is in an idle state. -/
def execMailboxAccept (mb : Nat) (s : State) : Out :=
  onUnit (decide (mb < boxCount)) <|
    if (s.box mb).st ≠ 1 || s.hm.hung.isSome || decide (s.hm.idle.state ≠ 0) then s
    else
      let m := copyMsg s mb
      let s0 := s.setBox mb { s.box mb with msg := some m }
      let s1 := setBoxState { s0 with hm := { s0.hm with accepts := s0.hm.accepts + 1 } } mb 2
      if (msgType m.ty.toNat).isNone then reply s1 mb stBadMessage 0 [] else s1

/-! ## Serving a message -/

/-- A field of a message. -/
def mf (m : Msg) (off n : Nat) : Nat := fieldAt m.bytes off n

/-- Whether an earlier message of another mailbox has not been begun (10 R259). -/
def earlier (s : State) (mb : Nat) (m : Msg) : Bool :=
  s.hm.boxes.any fun p => decide (p.1 ≠ mb) && match p.2.msg with
    | some m' => !m'.begun && decide (m'.ord < m.ord)
    | none => false

/-- Runs the message of type `ty` that a mailbox holds in progress, in the order of acceptance. -/
def onMsg (mb ty : Nat) (inTurn : Bool) (s : State) (f : State → Nat → Msg → State) : Out :=
  onUnit (decide (mb < boxCount)) <|
    match (s.box mb).msg with
    | none => s
    | some m => if m.ty.toNat ≠ ty || s.hm.hung.isSome || (inTurn && earlier s mb m) then s else f s mb m

/-- The message's operation has begun and goes on after this command. -/
def begin_ (s : State) (mb : Nat) : State :=
  let b := s.box mb
  s.setBox mb { b with msg := b.msg.map fun m => { m with begun := true } }

/-- Who a message is. -/
def askerOf (mb : Nat) (m : Msg) (vid : Option Nat) : Asker := { mb := mb, ty := m.ty, seq := m.seq, vid := vid }

/-- Whether every byte of a message from 16 on that no field covers is zero. -/
def uncovered (m : Msg) (len : Nat) (fields : List (Nat × Nat)) : Bool :=
  (List.range len).all fun i =>
    decide (i < 16) || (fields.any fun f => decide (f.1 ≤ i) && decide (i < f.1 + f.2)) || decide (m.bytes.getD i 0 = 0)

/-- 10 R248 R249: LEN is the layout's, the reserved fields are zero. -/
def wellFormed (m : Msg) (len : Nat) (fields : List (Nat × Nat)) : Bool :=
  decide (mf m 6 2 = len) && decide (mf m 12 4 = 0) && uncovered m len fields

/-- Answers a message with a status that has no effect. -/
def refuse (s : State) (mb st : Nat) : State := reply s mb st 0 []

/-- The checks common to every type (10 Table 10-9): the layout and the values first (00 R5), then the stage, `need` the one from which the
type is accepted. -/
def checked (s : State) (mb : Nat) (m : Msg) (need len : Nat) (fields : List (Nat × Nat)) (ok : Bool) (f : State) : State :=
  if !(wellFormed m len fields && ok) then refuse s mb stBadMessage
  else if stage s < need then reply s mb stNotReady (stage s) []
  else f

/-- Whether a host buffer access fails (10 Table 10-9 FAULTED); the environment decides (log entry 1). -/
def hostFails (s : State) : State × Bool := chooseBool s

/-- Bytes written to a host buffer, and the reply. -/
def toBuffer (s : State) (mb addr : Nat) (b body : Bytes) : State :=
  let (s1, bad) := hostFails s
  if bad then reply s1 mb stFaulted 4 [] else reply (hostWrite s1 addr b) mb stOk 0 body

end Sys2Proof.Machine
end

