-- ==== Sys2Proof/Machine/MsgDevice.lean ====
section
/-! DEFINITION. Device and fabric messages (10 Table 10-11): GET_INFO, GET_LOG, LATENCY_TOLERANCE, SET_PANEL_ID, PORT_TRANSIT, GET_DTAB, GET_HEALTH, ETT_WRITE, ETT_SWAP. -/

namespace Sys2Proof.Machine

open Sys2Proof

/-! ## GET_INFO -/

/-- Version of an image (14 Table 14-8). -/
def imageVersion (b : Bytes) : Nat := if b = [] then Config.shippedVersion.toNat else fieldAt b 8 4

/-- A component's slot: component 0 lighthouse, 1 harbour. -/
def fwSlot (s : State) (comp slot : Nat) : FwSlot := look {} s.sec.slots (2 * comp + slot)

/-- The active slot of a component (14 Table 14-16: LH_SLOT, HM_SLOT). -/
def activeSlot (s : State) (comp : Nat) : Nat := getField s (secBase + 8) (if comp = 0 then 4 else 3) 1

/-- The harbour firmware that runs: the active slot's, or the restart image. -/
def harbourImage (s : State) : Bytes :=
  if s.hm.altImage then s.sec.restartImage.getD [] else (fwSlot s 1 (activeSlot s 1)).image

/-- Basins that are not dark, as a bit map. -/
def litBasins (s : State) : Nat := ((List.range 24).map fun b => if isDark s b then 0 else 2 ^ b).foldl (· + ·) 0

def infoBody (s : State) : Bytes :=
  leBytes 2 0x5184 ++ [0] ++ leBytes 1 (stage s) ++ leBytes 4 (reg s (secBase + 0xC)).toNat ++
  leBytes 2 (activeCount s (List.range coreCount)) ++ zeros 2 ++ leBytes 4 (litBasins s) ++
  leBytes 4 (if stage s < 7 then 0 else (reg s (fabBase + 0x1C)).toNat) ++ leBytes 1 (panelId s) ++ zeros 3 ++
  leBytes 8 s.tide.toNat ++ leBytes 4 (imageVersion (harbourImage s)) ++ leBytes 2 s.bring.boot.toNat

def doGetInfo (s : State) (mb : Nat) (m : Msg) : State :=
  checked s mb m 0 16 [] true <| reply s mb stOk 0 (infoBody s)

/-- GET_INFO. -/
def execGetInfo (mb : Nat) (s : State) : Out := onMsg mb 0x01 true s doGetInfo

/-! ## GET_LOG (13 R349 R350) -/

/-- The error log as GET_LOG writes it. -/
def logFile (s : State) : Bytes :=
  let l := s.log.recs
  let seqOf (r : Option LogRec) : Nat := match r with | some r => r.seq.toNat | none => 0
  leBytes 4 0x474F4C45 ++ leBytes 2 1 ++ zeros 2 ++ leBytes 4 l.length ++ leBytes 4 (seqOf l.head?) ++
  leBytes 4 (seqOf l.getLast?) ++ zeros 44 ++ (l.map logBytes).flatten

/-- Directory of a dump (13 Table 13-11), `off` the offset of the next section. -/
def dumpDir : List (Nat × Nat × Bytes) → Nat → Bytes
  | [], _ => []
  | (ty, n, b) :: r, off => leBytes 2 ty ++ zeros 2 ++ leBytes 4 n ++ leBytes 8 off ++ dumpDir r (off + b.length)

/-- Header and directory with a TAG. -/
def dumpHead (d : Dump) (tag : Bytes) : Bytes :=
  leBytes 4 0x504D5544 ++ leBytes 2 1 ++ leBytes 2 d.reason.toNat ++ leBytes 8 d.tick.toNat ++ leBytes 2 d.vid.toNat ++
  [d.pid] ++ leBytes 1 d.sections.length ++ leBytes 4 (dumpLen d) ++ leBytes 4 d.logSeq.toNat ++ leBytes 4 d.keyId.toNat ++
  slice d.iv 0 12 ++ zeros 4 ++ slice tag 0 16 ++ dumpDir d.sections (64 + 16 * d.sections.length)

/-- A dump as it leaves the lighthouse: the body sealed, header and directory bound in with TAG
zero. -/
def dumpFile (d : Dump) : Bytes :=
  let aad := dumpHead d []
  let body := (d.sections.map fun x => x.2.2).flatten
  dumpHead d (Config.gcmTag d.keyId.toNat (leNat d.iv) aad body) ++
    slice (Config.gcmSeal d.keyId.toNat (leNat d.iv) aad body) 0 body.length

/-- The k-th dump has been read. -/
def markRead (s : State) (k : Nat) : State :=
  { s with log := { s.log with dumps := match s.log.dumps[k]? with
      | some d => setAt s.log.dumps k { d with read := true }
      | none => s.log.dumps } }

def doGetLog (s : State) (mb : Nat) (m : Msg) : State :=
  checked s mb m 0 36 [(16, 8), (24, 8), (32, 1)] (decide (mf m 32 1 ≤ 1)) <|
    let put (s : State) (b : Bytes) : State :=
      if mf m 24 8 < b.length then refuse s mb stNoResource else toBuffer s mb (mf m 16 8) b (leBytes 8 b.length)
    if mf m 32 1 = 0 then put s (logFile s)
    else
      match s.log.dumps.getLast? with
      | none => put s []
      | some d =>
        let reads := decide ((dumpFile d).length ≤ mf m 24 8) && !(hostFails s).2
        put (if reads then markRead s (s.log.dumps.length - 1) else s) (dumpFile d)

/-- GET_LOG. -/
def execGetLog (mb : Nat) (s : State) : Out := onMsg mb 0x02 true s doGetLog

/-! ## LATENCY_TOLERANCE (10 R260) -/

/-- Exit latency of an idle state in ns (12 Table 12-8). -/
def exitNs : Nat → Nat
  | 1 => 300 | 2 => 18000 | 3 => 1500000 | 4 => 35000000 | _ => 0

/-- Whether any port forwards transit. -/
def transitAny (s : State) : Bool := (List.range portCount).any (transitOn s)

/-- The deepest idle state that is permitted now. -/
def deepest (s : State) : Nat :=
  let base := match s.hm.idle.tol with
    | none => 1
    | some t => ([4, 3, 2, 1].find? fun i => decide (exitNs i ≤ t.toNat)).getD 0
  if transitAny s then min 3 base else base

/-- HM_PSTATE says what is permitted. -/
def noteDeepest (s : State) : State :=
  putField (putField s (hmBase + 0x10) 3 3 (deepest s)) (hmBase + 0x10) 6 1 (b2n (transitAny s))

def doLatencyTolerance (s : State) (mb : Nat) (m : Msg) : State :=
  checked s mb m 9 20 [(16, 4)] true <|
    let t : Word := BitVec.ofNat 32 (mf m 16 4)
    let s1 := { s with hm := { s.hm with idle := { s.hm.idle with tol := some t } } }
    let s2 := noteDeepest (putField (setReg s1 (hmBase + 0x14) t) (hmBase + 0x10) 7 1 1)
    reply s2 mb stOk 0 (leBytes 1 (deepest s2))

/-- LATENCY_TOLERANCE. -/
def execLatencyTolerance (mb : Nat) (s : State) : Out := onMsg mb 0x03 true s doLatencyTolerance

/-! ## SET_PANEL_ID (07 R166) -/

/-- A LOCAL entry (07 Table 7-7). -/
def localEntry (u : Nat) : BitVec 64 :=
  let e (t a b c : Nat) : BitVec 64 := BitVec.ofNat 64 (1 + 4 * t + 32 * a + 4096 * b + 2 ^ 19 * c)
  if u < 5184 then e 0 (coreX u) (coreY u) 0
  else if u < 5256 then e 1 ((u - 5184) / 6) ((u - 5184) % 6) 0
  else if u < 5264 then e 2 ((u - 5256) / 2) ((u - 5256) % 2) 0
  else if u < 5312 then e 3 ((u - 5264) / 16) ((u - 5264) / 2 % 8) ((u - 5264) % 2)
  else if u = 5312 then e 4 0 0 0
  else if u < 5321 then e 5 ((u - 5313) / 2) ((u - 5313) % 2) 0
  else 0

/-- The home block of a panel number. -/
def homeBlock (m : SMap (BitVec 64)) (panel : Nat) : SMap (BitVec 64) := putRange 0 m (8192 * panel) localEntry 8192

/-- A swap tick, at least 1,024 ticks after acceptance; the harbour master selects it (log entry 1). -/
def startSwap (s : State) (mb : Nat) (m : Msg) (panel : Option (BitVec 8)) : State :=
  let (s1, f) := drawFree s
  let s2 := setReg64 s1 swapTickOff (BitVec.ofNat 64 (m.tick + 1024 + f.toNat % 2 ^ 32))
  let s3 := putField s2 ettStatusOff 3 2 1
  begin_ { s3 with fabric := { s3.fabric with swapper := some (askerOf mb m none), newPanel := panel, swapTimedOut := false } } mb

def doSetPanelId (s : State) (mb : Nat) (m : Msg) : State :=
  checked s mb m 7 20 [(16, 1)] true <|
    if s.voyages ≠ [] ∨ ettState s ≠ 0 then refuse s mb stBusy
    else
      let b := 1 - ettBank s
      startSwap (setBank s b (homeBlock (bankMap s b) (mf m 16 1))) mb m (some (BitVec.ofNat 8 (mf m 16 1)))

/-- SET_PANEL_ID: the new home block is written to the standby bank and swapped in. -/
def execSetPanelId (mb : Nat) (s : State) : Out := onMsg mb 0x04 true s doSetPanelId

/-! ## PORT_TRANSIT (11 R277 R278) -/

/-- Whether the licence enables a port (11 R278). -/
def portLicensed (s : State) (p : Nat) : Bool := licensed s 2 || decide (p % 2 = 0)

/-- Whether packet i of a port's queue has slots in frames already sent. -/
def slotsOut (t : Port) (i : Nat) (k : Packet) : Bool :=
  decide (0 < t.slotsSent.getD (portChannel k) 0) && !((t.outq.take i).any fun q => decide (portChannel q = portChannel k))

/-- The packets of a port's queue that meet a condition, but for those partly sent, move to the next port. -/
def moveFrom (s : State) (p : Nat) (c : Packet → Bool) : State :=
  let t := s.port p
  let q := t.outq.zipIdx.map fun x => (x.1, c x.1 && !slotsOut t x.2 x.1)
  ((q.filter (·.2)).map (·.1)).foldl (fun s k => moveOne s p k) (s.updPort p fun t => { t with outq := (q.filter (!·.2)).map (·.1) })

/-- The TRANSIT packets queued at a port move on when transit is disabled; frames already sent are delivered (11 Table 11-6). -/
def dropTransit (s : State) (p : Nat) : State := moveFrom s p (inTransit s)

def setTransit (s : State) (p : Nat) (on : Bool) : State :=
  let s1 := putField s (portOff p) 7 1 (b2n on)
  if transitOn s p && !on then dropTransit s1 p else s1

def doPortTransit (s : State) (mb : Nat) (m : Msg) : State :=
  checked s mb m 7 24 [(16, 8)] (decide (mf m 16 8 < 2 ^ 48)) <|
    let on (p : Nat) : Bool := bitOf (mf m 16 8) p
    if (List.range portCount).any fun p => on p && !portLicensed s p then refuse s mb stLicence
    else reply (noteDeepest ((List.range portCount).foldl (fun s p => setTransit s p (on p)) s)) mb stOk 0 []

/-- PORT_TRANSIT. -/
def execPortTransit (mb : Nat) (s : State) : Out := onMsg mb 0x05 true s doPortTransit

/-! ## GET_DTAB, GET_HEALTH -/

def doGetDtab (s : State) (mb : Nat) (m : Msg) : State :=
  checked s mb m 7 32 [(16, 8), (24, 8)] true <|
    if mf m 24 8 < dtabLen then refuse s mb stNoResource
    else toBuffer s mb (mf m 16 8) s.fabric.dtab
      (leBytes 4 (reg s (fabBase + 0x1C)).toNat ++ leBytes 4 dtabLen)

/-- GET_DTAB. -/
def execGetDtab (mb : Nat) (s : State) : Out := onMsg mb 0x06 true s doGetDtab

def doGetHealth (s : State) (mb : Nat) (m : Msg) : State :=
  checked s mb m 9 20 [(16, 2)] (decide (mf m 16 2 = 0xFFFF) || (s.voyage (mf m 16 2)).isSome) <|
    let tot := match s.voyage (mf m 16 2) with
      | some v => if mf m 16 2 = 0xFFFF then s.hm.health else v.health
      | none => s.hm.health
    reply s mb stOk 0 (leBytes 8 s.hm.healthTick.toNat ++ ((lookRange 0 tot 0 55).map fun x => leBytes 8 x.toNat).flatten)

/-- GET_HEALTH. -/
def execGetHealth (mb : Nat) (s : State) : Out := onMsg mb 0x07 true s doGetHealth

/-! ## ETT_WRITE, ETT_SWAP (07 R167 R171) -/

/-- Whether an entry may be written (07 R167). -/
def ettOk (e : Nat) : Bool :=
  let a := bits e 5 7
  let b := bits e 12 7
  let c := bits e 19 1
  match e % 4 with
  | 0 => true
  | 1 => decide (e < 2 ^ 20) &&
    (match bits e 2 3 with
      | 0 => decide (a ≤ 71) && decide (b ≤ 71) && decide (c = 0)
      | 1 => decide (a ≤ 11) && decide (b ≤ 5) && decide (c = 0)
      | 2 => decide (a ≤ 3) && decide (b ≤ 1) && decide (c = 0)
      | 3 => decide (a ≤ 2) && decide (b ≤ 7)
      | 4 => decide (a = 0) && decide (b = 0) && decide (c = 0)
      | 5 => decide (a ≤ 3) && decide (b ≤ 1) && decide (c = 0)
      | _ => false)
  | 2 => decide (bits e 2 2 ≠ 3) && decide (bits e 5 11 = 0)
  | _ => decide (e < 2 ^ 30) && decide (bits e 2 7 ≤ bits e 9 7) && decide (bits e 16 7 ≤ bits e 23 7) &&
    decide (bits e 9 7 ≤ 71) && decide (bits e 23 7 ≤ 71)

def doEttWrite (s : State) (mb : Nat) (m : Msg) : State :=
  let n := mf m 20 2
  let es := (List.range n).map fun i => mf m (24 + 8 * i) 8
  checked s mb m 7 (24 + 8 * n) [(16, 4), (20, 2), (24, 8 * n)]
    (decide (1 ≤ n) && decide (n ≤ 509) && decide (mf m 16 4 + n ≤ 0x200000) && es.all ettOk) <|
    if ettState s ≠ 0 then refuse s mb stBusy
    else
      let b := 1 - ettBank s
      reply (setBank s b (putList 0 (bankMap s b) (mf m 16 4) (es.map (BitVec.ofNat 64)))) mb stOk 0 []

/-- ETT_WRITE. -/
def execEttWrite (mb : Nat) (s : State) : Out := onMsg mb 0x10 true s doEttWrite

def doEttSwap (s : State) (mb : Nat) (m : Msg) : State :=
  checked s mb m 7 16 [] true <| if ettState s ≠ 0 then refuse s mb stBusy else startSwap s mb m none

/-- ETT_SWAP. -/
def execEttSwap (mb : Nat) (s : State) : Out := onMsg mb 0x11 true s doEttSwap

end Sys2Proof.Machine
end

