-- ==== Sys2Proof/Machine/MsgSegment.lean ====
section
/-! DEFINITION. Segment, window and replica messages (10 Table 10-12): SEG_CREATE, SEG_RELEASE, SEG_MOVE, SEG_LOADED, WINDOW_SET, REPLICA_CREATE, REPLICA_LOAD, REPLICA_EXPORT, REPLICA_RELEASE. -/

namespace Sys2Proof.Machine

open Sys2Proof

/-! ## Segments (09 R217 R222) -/

/-- A memory index of a tier, or 0xFF for the harbour master's choice. -/
def memIndexOk (tierB : Bool) (i : Nat) : Bool := decide (i = 0xFF) || decide (i < if tierB then 8 else 72)

/-- Memories of a tier that serve, or the one that is named. -/
def memChoices (s : State) (tierB : Bool) (i : Nat) : List Nat :=
  let all := if i = 0xFF then (if tierB then (List.range 8).map (72 + ·) else List.range 72) else [memOf tierB i]
  all.filter fun m => !unreachable s (memUnit m)

/-- Whether a message names a segment that exists, under its generation. -/
def segKnown (s : State) (sid gen : Nat) : Bool :=
  decide (sid < 0xFFFF) && decide ((s.seg sid).st ≠ 0) && decide ((s.seg sid).gen.toNat = gen)

/-- Whether another message is moving or releasing a segment. -/
def segBusy (s : State) (sid : Nat) : Bool :=
  (match (s.seg sid).move with | some v => v.asker.isSome | none => false) || (s.seg sid).releasing

def doSegCreate (s : State) (mb : Nat) (m : Msg) : State :=
  let len := mf m 16 8
  let tierB := decide (mf m 24 1 = 1)
  let home := mf m 27 1
  let flags := mf m 28 1
  checked s mb m 9 32 [(16, 8), (24, 1), (25, 1), (26, 1), (27, 1), (28, 1)]
    (decide (len % 65536 = 0) && decide (0 < len) && decide (mf m 24 1 ≤ 1) && memIndexOk tierB (mf m 25 1) &&
      memIndexOk false home && decide (flags < 4)) <|
    if tierB && !licensed s 1 then refuse s mb stLicence
    else
      let (s1, sid) := choose s 65535 (sidFree s)
      let (s2, place) := placeAmong s1 (memChoices s1 tierB (mf m 25 1)) len
      match sid, place with
      | some i, some (k, base) =>
        let pend := bitOf flags 0
        let s3 := if pend then s2 else zeroMem s2 k base len
        let idx := if tierB then k - 72 else k
        let gen := (s.seg i).gen
        let s4 := s3.setSeg i { st := if pend then 4 else 1, tierB := tierB, mem := idx, gen := gen,
                                prio := BitVec.ofNat 8 (mf m 26 1), home := BitVec.ofNat 8 home, base := base, len := len,
                                excl := bitOf flags 1 }
        reply s4 mb stOk 0 (leBytes 2 i ++ [gen] ++ leBytes 1 idx ++ zeros 4 ++ leBytes 8 base)
      | _, _ => refuse s2 mb stNoResource

/-- SEG_CREATE. -/
def execSegCreate (mb : Nat) (s : State) : Out := onMsg mb 0x20 true s doSegCreate

/-- The windows that map a segment are disabled for good (10 R243). -/
def closeWindows (s : State) (sid : Nat) : State := (winsOf s sid).foldl winClear s

def doSegRelease (s : State) (mb : Nat) (m : Msg) : State :=
  let sid := mf m 16 2
  checked s mb m 9 20 [(16, 2), (18, 1)] (segKnown s sid (mf m 18 1)) <|
    if mappers s sid ≠ [] || segBusy s sid then refuse s mb stBusy
    else reply (freeSeg (closeWindows s sid) sid) mb stOk 0 []

/-- SEG_RELEASE. -/
def execSegRelease (mb : Nat) (s : State) : Out := onMsg mb 0x21 true s doSegRelease

def doSegMove (s : State) (mb : Nat) (m : Msg) : State :=
  let sid := mf m 16 2
  let tierB := decide (mf m 19 1 = 1)
  let home := mf m 22 1
  checked s mb m 9 24 [(16, 2), (18, 1), (19, 1), (20, 1), (21, 1), (22, 1)]
    (segKnown s sid (mf m 18 1) && decide (mf m 19 1 ≤ 1) && memIndexOk tierB (mf m 20 1) && memIndexOk false home) <|
    if tierB && !licensed s 1 then refuse s mb stLicence
    else if ((s.seg sid).st ≠ 1 ∧ (s.seg sid).st ≠ 3) ∨ segBusy s sid then refuse s mb stBusy
    else
      let (s1, place) := placeAmong s (memChoices s tierB (mf m 20 1)) (s.seg sid).len
      match place with
      | none => refuse s1 mb stNoResource
      | some (k, base) =>
        startMove (begin_ s1 mb) sid
          { waiting := [], tierB := tierB, mem := if tierB then k - 72 else k, base := base,
            toState := if tierB && decide (home ≠ 0xFF) then 3 else 1, prio := BitVec.ofNat 8 (mf m 21 1),
            home := BitVec.ofNat 8 home, asker := some (askerOf mb m none), copied := false }

/-- SEG_MOVE: the move begins; SEG_READY ends it. -/
def execSegMove (mb : Nat) (s : State) : Out := onMsg mb 0x22 true s fun s mb m => if m.begun then s else doSegMove s mb m

def doSegLoaded (s : State) (mb : Nat) (m : Msg) : State :=
  let sid := mf m 16 2
  checked s mb m 9 20 [(16, 2), (18, 1)] (segKnown s sid (mf m 18 1)) <|
    if (s.seg sid).st ≠ 4 then refuse s mb stBusy
    else reply (wakeUnits (s.updSeg sid fun r => { r with st := 1 }) sid) mb stOk 0 []

/-- SEG_LOADED. -/
def execSegLoaded (mb : Nat) (s : State) : Out := onMsg mb 0x23 true s doSegLoaded

/-! ## Windows (10 R242) -/

/-- Whether a descriptor of an enabled window may be written to window w. -/
def winOk (s : State) (w : Nat) (d : Bytes) : Bool :=
  let boff := fieldAt d 0 8
  let len := fieldAt d 8 8
  let sid := fieldAt d 24 2
  decide (boff % 65536 = 0) && decide (len % 65536 = 0) && decide (boff + len ≤ 128 * 2 ^ 30) &&
  ((List.range 256).all fun v => decide (v = w) || !winOn s v ||
    decide (winField s v 0 8 + winField s v 8 8 ≤ boff) || decide (boff + len ≤ winField s v 0 8)) &&
  segKnown s sid (fieldAt d 26 1) && decide (fieldAt d 16 8 + len ≤ (s.seg sid).len) &&
  decide (fieldAt d 28 2 = s.bring.boot.toNat)

def doWindowSet (s : State) (mb : Nat) (m : Msg) : State :=
  let w := mf m 16 1
  let d := slice m.bytes 24 32
  let acc := fieldAt d 27 1
  let en := bitOf acc 7
  checked s mb m 9 56 [(16, 1), (24, 32)]
    (decide (bits acc 2 5 = 0) && decide (fieldAt d 30 2 = 0) && (!en || winOk s w d)) <|
    if en && segBusy s (fieldAt d 24 2) then refuse s mb stBusy
    else
      let s1 := setWords s (winOff w) (wordsOfBytes d)
      reply { s1 with hm := { s1.hm with winDisabled := without w s1.hm.winDisabled } } mb stOk 0 []

/-- WINDOW_SET. -/
def execWindowSet (mb : Nat) (s : State) : Out := onMsg mb 0x24 true s doWindowSet

/-! ## Replica sets (08 R209 R215 R216) -/

/-- Bytes of a copy's segment: its phases, in units of 64 KiB. -/
def copyLen (phases dlen : Nat) : Nat := (phases * (dlen + dlen / 4096) + 65535) / 65536 * 65536

/-- Places the copies in order, each in a memory-interface group of its own, in its preferred memory
where that one serves. -/
def placeCopies (s : State) (len : Nat) : List Nat → List Nat → State × Option (List (Nat × Nat))
  | [], _ => (s, some [])
  | p :: ps, used =>
    let free := (List.range 72).filter fun m => decide (mifOf m ∉ used) && !unreachable s (memUnit m)
    let (s1, a) := placeAmong s (free.filter fun m => decide (m = p)) len
    let (s2, b) := match a with
      | some x => (s1, some x)
      | none => placeAmong s1 free len
    match b with
    | none => (s2, none)
    | some x =>
      match placeCopies s2 len ps (mifOf x.1 :: used) with
      | (s3, some l) => (s3, some (x :: l))
      | (s3, none) => (s3, none)

/-- Gives each placed copy a SID and a PENDING record of the set. -/
def makeCopies (s : State) (rsid len : Nat) : List (Nat × Nat) → State × Option (List Nat)
  | [] => (s, some [])
  | (k, base) :: r =>
    let (s1, sid) := choose s 65535 (sidFree s)
    match sid with
    | none => (s1, none)
    | some i =>
      let s2 := s1.setSeg i { st := 4, mem := k, gen := (s1.seg i).gen, home := BitVec.ofNat 8 k, base := base, len := len,
                              rsid := BitVec.ofNat 16 rsid }
      match makeCopies s2 rsid len r with
      | (s3, some l) => (s3, some (i :: l))
      | (s3, none) => (s3, none)

def doReplicaCreate (s : State) (mb : Nat) (m : Msg) : State :=
  let copies := mf m 18 1
  let phases := mf m 19 1
  let dlen := mf m 24 8
  let pref := ((List.range 3).map fun i => mf m (80 + i) 1).take copies
  checked s mb m 9 84 [(18, 1), (19, 1), (24, 8), (40, 4), (48, 8), (56, 1), (80, 3)]
    (decide (1 ≤ copies) && decide (copies ≤ 3) && decide (1 ≤ phases) && decide (phases ≤ 2) && decide (0 < dlen) &&
      decide (dlen % 65536 = 0) && decide (mf m 40 4 < 2 ^ 21) && pref.all (memIndexOk false)) <|
    let (s1, rs) := choose s 65535 fun i => (s.rset i).isNone
    let len := copyLen phases dlen
    match rs with
    | none => refuse s1 mb stNoResource
    | some rsid =>
      match placeCopies s1 len pref [] with
      | (s2, none) => refuse { s with free := s2.free } mb stNoResource
      | (s2, some places) =>
        match makeCopies s2 rsid len places with
        | (s3, none) => refuse { s with free := s3.free } mb stNoResource
        | (s3, some sids) =>
          let seg := sids ++ List.replicate (3 - sids.length) 0xFFFF
          let t : RepSet :=
            { copies := copies, phases := phases, gen := 0, dlen := dlen, seg := seg, srcEp := BitVec.ofNat 21 (mf m 40 4),
              srcOff := mf m 48 8, audit := BitVec.ofNat 8 (mf m 56 1), auditPos := 0, ready := false, load := none,
              exported := false, cap := 7200, suspects := [] }
          reply (s3.setRset rsid (some t)) mb stOk 0 (leBytes 2 rsid ++ (seg.map (leBytes 2)).flatten)

/-- REPLICA_CREATE. -/
def execReplicaCreate (mb : Nat) (s : State) : Out := onMsg mb 0x28 true s doReplicaCreate

/-! ### Loading -/

/-- A load in progress that a mailbox has asked for. -/
def loadOf (s : State) (mb : Nat) : Option (Nat × RepSet × RepLoad) :=
  (s.sets.filterMap fun p => match p.2 with
    | some t => (match t.load with
      | some l => if l.asker.mb = mb then some (p.1, t, l) else none
      | none => none)
    | none => none).head?

/-- The end of a load with a status. -/
def endLoad (s : State) (rsid : Nat) (l : RepLoad) (st : Nat) : State :=
  finishOp (s.updRset rsid fun t => { t with load := none }) (some l.asker) st 0 []

/-- The first block of the phase of a generation. -/
def phaseStart (t : RepSet) (gen : BitVec 16) : Nat := gen.toNat % t.phases * phaseBlocks t

/-- Steps 2 to 4 of a load: copy 0's blocks fill the other copies and are checked, GEN rises, the copies
become RESIDENT. -/
def finishLoad (s : State) (rsid : Nat) (t : RepSet) (l : RepLoad) : State :=
  let b0 := phaseStart t l.gen
  let blocks := (List.range (phaseBlocks t)).map (b0 + ·)
  let sid0 := t.seg.getD 0 0xFFFF
  let others := ((copiesOf t).map (·.2)).filter fun i => decide (i ≠ sid0)
  let s1 := blocks.foldl (fun s b => rewriteFrom s t b sid0 others) s
  if !(((copiesOf t).map (·.2)).all fun i => blocks.all fun b => intact s1 t i b) then endLoad s1 rsid l stFaulted
  else
    let s2 := s1.updRset rsid fun t => { t with gen := l.gen, ready := true, suspects := [], lost := [] }
    let s3 := (copiesOf t).foldl (fun s p =>
      wakeUnits (s.updSeg p.2 fun r => { r with st := if r.st = 4 then 1 else r.st }) p.2) s2
    endLoad s3 rsid l stOk

/-- The release of voyages held with REPLICA_DIVERGENT: each replays from its mooring point. The
cause of that replay is open (log entry 1). -/
def releaseHeld (s : State) (rsid : Nat) : State :=
  let vs := (s.voyages.filter fun p => match p.2 with
    | some v => decide (v.st = vHeld) && decide (v.heldRsid = some rsid)
    | none => false).map (·.1)
  vs.foldl (fun s v =>
    let (s1, f) := drawFree s
    let s2 := s1.updVoyage v fun v => { v with st := vRunning, heldRsid := none }
    match s2.voyage v with
    | some y => restoreVoyage s2 v (f.toNat % 256) (lostPositions s2 y (BitVec.ofNat 16 v))
    | none => s2) s

/-- A repaired block: written into every copy, its mark cleared; after the last one the load ends and the
held voyages are released. -/
def repairBlock (s : State) (rsid : Nat) (t : RepSet) (l : RepLoad) (b : Nat) (data record : Bytes) : State :=
  let s1 := (copiesOf t).foldl (fun s p => writeBlock s t p.2 b data record) s
  let left := t.suspects.filter fun x => decide (x.block ≠ b)
  let s2 := s1.updRset rsid fun t => { t with suspects := left, lost := without b t.lost, load := some { l with pos := 0, tries := 0, got := [], asked := none } }
  if left = [] then releaseHeld (endLoad s2 rsid l stOk) rsid else s2

/-- The block that a load's fetch stands in: the next of the phase, or the first suspect one. -/
def loadBlock (t : RepSet) (l : RepLoad) : Nat :=
  if l.repair then (match t.suspects with | x :: _ => x.block | [] => 0) else phaseStart t l.gen + l.pos / blockBytes

/-- Whether a load fetches each block's record with it: of a neighbour's set, and under repair (08 R215). -/
def needsRecord (l : RepLoad) : Bool := l.repair || decide (l.srcKind = 2)

/-- The next request of a load to its source; none where no port reaches it. -/
def askSource (s : State) (rsid : Nat) (t : RepSet) (l : RepLoad) : Option State :=
  let n := srcNext t (loadBlock t l) l.got.length
  (askBytes s (ownerMem s t) l.ep (l.off + n.1) n.2).map fun x =>
    x.1.updRset rsid fun t => { t with load := some { l with asked := some x.2 } }

/-- A part of a block has landed. A load writes it into copy 0; a repair keeps it until the block's record has been checked. A block whose record
differs is fetched again, by a load up to 3 times, by a repair until the third fetch; then FAULTED ends it. -/
def landLoad (s : State) (rsid : Nat) (t : RepSet) (l : RepLoad) (data : Bytes) : State :=
  let sid := t.seg.getD 0 0xFFFF
  let b := loadBlock t l
  let a := blockAt s t sid b
  let n := l.got.length
  let part := slice data 0 (srcNext t b n).2
  let s1 := if l.repair || decide (blockBytes ≤ n) then s else store s a.1 (a.2 + n) part
  let l1 := { l with got := l.got ++ part, asked := none }
  let keep (s : State) (l : RepLoad) : State := s.updRset rsid fun t => { t with load := some l }
  if l1.got.length < blockBytes + (if needsRecord l then 64 else 0) then keep s1 l1
  else
    let d := l1.got.take blockBytes
    let rec_ := checkRecord t b l.gen d
    if needsRecord l && decide (gotRecord t b l1.got ≠ rec_) then
      (if (if l.repair then 2 else 3) ≤ l.tries then endLoad s1 rsid l stFaulted else keep s1 { l1 with got := [], tries := l.tries + 1 })
    else if l.repair then repairBlock s1 rsid t l b d rec_
    else
      let r := recordAt s1 t sid b
      let s2 := store s1 r.1 r.2 rec_
      let l2 := { l1 with pos := l.pos + blockBytes, got := [], tries := 0 }
      if l2.pos = t.dlen then finishLoad s2 rsid t l2 else keep s2 l2

/-- One step of a load from a source: an answer that has arrived is taken, the next request is sent. -/
def loadStep (s : State) (rsid : Nat) (t : RepSet) (l : RepLoad) : State :=
  match l.asked with
  | none =>
    (match askSource s rsid t l with
      | some s1 => s1
      | none => endLoad s rsid l stFaulted)
  | some p =>
    match takeAnswer s (ownerMem s t) p with
    | none => s
    | some (k, s1) => if k.ty = 2 then landLoad s1 rsid t l k.payload else endLoad s1 rsid l stFaulted

/-- A load whose data the host has written into copy 0. -/
def loadWindow (s : State) (rsid : Nat) (t : RepSet) (l : RepLoad) : State :=
  let sid := t.seg.getD 0 0xFFFF
  if l.repair then
    let bad := t.suspects.any fun x => !intact s t sid x.block
    if bad then endLoad s rsid l stFaulted
    else
      let s1 := t.suspects.foldl (fun s x => rewriteFrom s t x.block sid (((copiesOf t).map (·.2)).filter fun i => decide (i ≠ sid))) s
      releaseHeld (endLoad (s1.updRset rsid fun t => { t with suspects := [], lost := t.lost.filter fun b => !(t.suspects.any fun x => decide (x.block = b)) })
        rsid l stOk) rsid
  else
    let s1 := (List.range (phaseBlocks t)).foldl (fun s i =>
      let b := phaseStart t l.gen + i
      let r := recordAt s t sid b
      store s r.1 r.2 (checkRecord t b l.gen (blockData s t sid b))) s
    finishLoad s1 rsid t l

def doReplicaLoad (s : State) (mb : Nat) (m : Msg) : State :=
  let rsid := mf m 16 2
  let gen : BitVec 16 := BitVec.ofNat 16 (mf m 18 2)
  let src := mf m 20 1
  let rep := decide (mf m 22 1 = 1)
  let ok := match s.rset rsid with
    | none => false
    | some t =>
      let sid := t.seg.getD 0 0xFFFF
      decide (src ≤ 2) && decide (mf m 22 1 ≤ 1) && decide (mf m 24 4 < 2 ^ 21) &&
      (decide (src ≠ 0) || (winOn s (mf m 21 1) && decide (mf m 21 1 ∈ winsOf s sid))) &&
      (if rep then gen = t.gen else !t.ready || decide ((gen - t.gen).toNat ≠ 32768))
  checked s mb m 9 40 [(16, 2), (18, 2), (20, 1), (21, 1), (22, 1), (24, 4), (32, 8)] ok <|
    match s.rset rsid with
    | none => s
    | some t =>
      if t.load.isSome || (!rep && setMappers s t ≠ []) then refuse s mb stBusy
      else
        let l : RepLoad := { asker := askerOf mb m none, gen := gen, srcKind := src, win := mf m 21 1,
                             ep := BitVec.ofNat 21 (mf m 24 4), off := mf m 32 8, repair := rep, pos := 0, tries := 0, asked := none }
        let s1 := (begin_ s mb).updRset rsid fun t => { t with load := some l, ready := rep && t.ready }
        if rep && decide (t.suspects = []) then endLoad s1 rsid l stOk
        else if src = 0 then loadWindow s1 rsid t l
        else loadStep s1 rsid t l

/-- REPLICA_LOAD: begins a load, or takes one that the mailbox asked for a step on, after a TIMEOUT
too. -/
def execReplicaLoad (mb : Nat) (s : State) : Out :=
  let fresh := match (s.box mb).msg with
    | some m => m.ty = 0x29 && !m.begun
    | none => false
  if fresh then onMsg mb 0x29 true s doReplicaLoad
  else onUnit (decide (mb < boxCount)) <|
    match loadOf s mb with
    | some (rsid, t, l) => if s.hm.hung.isSome then s else loadStep s rsid t l
    | none => s

def doReplicaExport (s : State) (mb : Nat) (m : Msg) : State :=
  let rsid := mf m 16 2
  checked s mb m 9 24 [(16, 2), (18, 1), (20, 4)] ((s.rset rsid).isSome && decide (mf m 18 1 ≤ 1)) <|
    reply (s.updRset rsid fun t => { t with exported := decide (mf m 18 1 = 1)
                                            cap := if mf m 20 4 = 0 then 7200 else mf m 20 4 }) mb stOk 0 []

/-- REPLICA_EXPORT. -/
def execReplicaExport (mb : Nat) (s : State) : Out := onMsg mb 0x2A true s doReplicaExport

def doReplicaRelease (s : State) (mb : Nat) (m : Msg) : State :=
  let rsid := mf m 16 2
  checked s mb m 9 20 [(16, 2)] (s.rset rsid).isSome <|
    match s.rset rsid with
    | none => s
    | some t =>
      if setMappers s t ≠ [] || t.load.isSome || (copiesOf t).any (fun p => segBusy s p.2) then refuse s mb stBusy
      else reply (((copiesOf t).foldl (fun s p => freeSeg (closeWindows s p.2) p.2) s).setRset rsid none) mb stOk 0 []

/-- REPLICA_RELEASE. -/
def execReplicaRelease (mb : Nat) (s : State) : Out := onMsg mb 0x2B true s doReplicaRelease

end Sys2Proof.Machine
end

