-- ==== Sys2Proof/Machine/Image.lean ====
section
/-! DEFINITION. Voyage images (10 R252 R253 Table 10-14 Table 10-15): reading the header, the directory and the sections of an image in host memory, and the checks of its records (06 R137, 07 R173, 08 R197, 09 R219, 10 R244). -/

namespace Sys2Proof.Machine

open Sys2Proof

/-! ## Reading -/

/-- A little-endian field of the image, by its offset. -/
def hf (s : State) (addr off n : Nat) : Nat := leNat (hostRead s (addr + off) n)

/-- Whether `n` bytes of the image from `off` on are zero. -/
def hz (s : State) (addr off n : Nat) : Bool := (hostRead s (addr + off) n).all (· = 0)

/-- A directory entry: TYPE, whether its reserved bytes are zero, COUNT, OFFSET. -/
structure DirEnt where
  ty : Nat
  clean : Bool
  count : Nat
  off : Nat
  deriving DecidableEq, Repr

/-- The directory. -/
def directory (s : State) (addr : Nat) : List DirEnt :=
  (List.range (hf s addr 12 2)).map fun i =>
    let o := 64 + 16 * i
    { ty := hf s addr o 2, clean := hz s addr (o + 2) 2, count := hf s addr (o + 4) 4, off := hf s addr (o + 8) 8 }

/-- Record length of a section of records of one length. -/
def recLen : Nat → Nat
  | 3 => 8 | 4 => 32 | 5 => 8 | 6 => 32 | _ => 4

/-- A CORE record and whether its fields hold no value out of range and no reserved bit. -/
def readCore (s : State) (addr o : Nat) : CoreImg × Bool :=
  let x := hf s addr o 1
  let y := hf s addr (o + 1) 1
  let n := hf s addr (o + 4) 2
  let q (i : Nat) : Nat := hf s addr (o + 8 + 4 * i) 4
  ({ core := 72 * y + x, entry := BitVec.ofNat 16 (hf s addr (o + 2) 2)
     qbind := (List.range 8).map fun i => (bitOf (q i) 0, BitVec.ofNat 24 (q i / 256))
     steps := (List.range n).map fun k => BitVec.ofNat 256 (hf s addr (o + 64 + 32 * k) 32) },
   decide (x ≤ 71) && decide (y ≤ 71) && decide (hf s addr (o + 2) 2 < stepCount) && decide (1 ≤ n) && decide (n ≤ stepCount) &&
   hz s addr (o + 6) 2 && hz s addr (o + 40) 24 && (List.range 8).all fun i => decide (bits (q i) 1 7 = 0))

/-- The CORE records; none if one reaches beyond SIZE. -/
def readCores (s : State) (addr size : Nat) : Nat → Nat → Option (List (CoreImg × Bool))
  | 0, o => if o ≤ size then some [] else none
  | n + 1, o =>
    let e := o + 64 + 32 * hf s addr (o + 4) 2
    if size < o + 64 ∨ size < e then none
    else (readCores s addr size n e).map fun l => readCore s addr o :: l

/-- The memory engine of a QUAY record. -/
def quayMem (dtype a b : Nat) : Nat := if dtype = 0 then 6 * a + b else 72 + 2 * a + b

/-- A QUAY record and whether its own fields are in range. -/
def readQuay (s : State) (addr o : Nat) : QuayImg × Bool :=
  let d := hf s addr o 1
  let a := hf s addr (o + 1) 1
  let b := hf s addr (o + 2) 1
  ({ mem := quayMem d a b
     entries := (List.range (hf s addr (o + 8) 4)).map fun k => BitVec.ofNat 512 (hf s addr (o + 16 + 64 * k) 64) },
   (if d = 0 then decide (a ≤ 11) && decide (b ≤ 5) else decide (d = 1) && decide (a ≤ 3) && decide (b ≤ 1)) &&
   hz s addr (o + 3) 5 && hz s addr (o + 12) 4)

/-- The QUAY records; none if one reaches beyond SIZE. -/
def readQuays (s : State) (addr size : Nat) : Nat → Nat → Option (List (QuayImg × Bool))
  | 0, o => if o ≤ size then some [] else none
  | n + 1, o =>
    let e := o + 16 + 64 * hf s addr (o + 8) 4
    if size < o + 16 ∨ size < e then none
    else (readQuays s addr size n e).map fun l => readQuay s addr o :: l

/-- 09 Table 9-3. -/
def readMap (s : State) (addr o : Nat) : MapEnt :=
  let acc := hf s addr (o + 3) 1
  { sid := BitVec.ofNat 16 (hf s addr o 2), gen := BitVec.ofNat 8 (hf s addr (o + 2) 1), rd := bitOf acc 0, wr := bitOf acc 1,
    boot := BitVec.ofNat 16 (hf s addr (o + 4) 2), rsvd := decide (4 ≤ acc) || !hz s addr (o + 6) 2 }

/-- 07 Table 7-9. -/
def readTag (s : State) (addr o : Nat) : Binding :=
  let by_ (i : Nat) : Byte := BitVec.ofNat 8 (hf s addr (o + i) 1)
  { tag := BitVec.ofNat 16 (hf s addr o 2), kind := by_ 2, dtype := by_ 3, da := by_ 4, db := by_ 5
    t := BitVec.ofNat 16 (hf s addr (o + 6) 2), daddr := BitVec.ofNat 32 (hf s addr (o + 8) 4)
    ncon := BitVec.ofNat 16 (hf s addr (o + 12) 2), cx0 := by_ 16, cx1 := by_ 17, cy0 := by_ 18, cy1 := by_ 19
    qmask := BitVec.ofNat 72 (hf s addr (o + 20) 9), bmask := by_ 29
    rsvd := !hz s addr (o + 14) 2 || !hz s addr (o + 30) 2 }

/-- 10 Table 10-6. -/
def readWin (s : State) (addr o : Nat) : HostWin :=
  let acc := hf s addr (o + 16) 1
  { iova := BitVec.ofNat 64 (hf s addr o 8), len := BitVec.ofNat 64 (hf s addr (o + 8) 8), rd := bitOf acc 0, wr := bitOf acc 1,
    reqIde := bitOf acc 2, rsvd := decide (8 ≤ acc) || !hz s addr (o + 17) 15 }

/-- The first entry of a TYPE whose section lies in the image, with its offset. -/
def section_ (s : State) (addr size ty : Nat) : Option DirEnt :=
  match (directory s addr).find? fun d => d.ty = ty with
  | some d =>
    let fits := match ty with
      | 1 => (readCores s addr size d.count d.off).isSome
      | 2 => (readQuays s addr size d.count d.off).isSome
      | _ => decide (d.off + recLen ty * d.count ≤ size)
    if fits then some d else none
  | none => none

/-- The records of a section of one record length. -/
def records {α : Type} (s : State) (addr size ty : Nat) (rd : Nat → α) : List α :=
  match section_ s addr size ty with
  | some d => (List.range d.count).map fun i => rd (d.off + recLen ty * i)
  | none => []

def coreRecords (s : State) (addr size : Nat) : List (CoreImg × Bool) :=
  match section_ s addr size 1 with
  | some d => (readCores s addr size d.count d.off).getD []
  | none => []

def quayRecords (s : State) (addr size : Nat) : List (QuayImg × Bool) :=
  match section_ s addr size 2 with
  | some d => (readQuays s addr size d.count d.off).getD []
  | none => []

/-- The image that a host buffer holds. -/
def readImage (s : State) (addr size : Nat) : Image :=
  { dtab := BitVec.ofNat 32 (hf s addr 8 4), feat := BitVec.ofNat 16 (hf s addr 14 2)
    cores := (coreRecords s addr size).map (·.1)
    quays := (quayRecords s addr size).map (·.1)
    segmap := records s addr size 3 (readMap s addr)
    tags := records s addr size 4 (readTag s addr)
    sources := records s addr size 5 fun o => (BitVec.ofNat 32 (hf s addr o 4), BitVec.ofNat 32 (hf s addr (o + 4) 4))
    wins := records s addr size 6 (readWin s addr)
    reloc := records s addr size 7 fun o => (BitVec.ofNat 8 (hf s addr o 1), BitVec.ofNat 8 (hf s addr (o + 1) 1)) }

/-! ## Answers -/

/-- Status, DETAIL and reply body of a refusal. -/
abbrev Refused := Nat × Nat × Bytes

/-- A bad record: section TYPE and record index (10 Table 10-13). -/
def badRecord (ty i : Nat) : Refused := (stBadMessage, 3, zeros 4 ++ leBytes 2 ty ++ zeros 2 ++ leBytes 4 i)

/-- A fault of a section as a whole. -/
def badSection (ty : Nat) : Refused := badRecord ty 0xFFFFFFFF

/-- A malformed step: core and step index. -/
def badStepAt (core step : Nat) : Refused :=
  (stBadMessage, 2, zeros 4 ++ leBytes 1 (coreX core) ++ leBytes 1 (coreY core) ++ leBytes 2 step)

/-! ## Header and directory (10 R252 R253) -/

def headerBad (s : State) (addr size : Nat) : Option Refused :=
  if hf s addr 0 4 ≠ 0x00475856 ∨ hf s addr 4 2 ≠ 2 ∨ hf s addr 6 2 ≠ 1 then some (stBadMessage, 1, [])
  else if hf s addr 16 8 ≠ size ∨ !hz s addr 24 40 ∨ 4 ≤ hf s addr 14 2 ∨ size < 64 + 16 * hf s addr 12 2 then
    some (stBadMessage, 0, [])
  else none

/-- The first fault of the directory. -/
def dirBad (s : State) (addr size : Nat) : Option Refused :=
  let ds := directory s addr
  ((ds.zipIdx).find? fun p =>
    !p.1.clean || decide (p.1.ty = 0) || decide (7 < p.1.ty) || ((ds.take p.2).any fun d => decide (d.ty = p.1.ty)) ||
    (section_ s addr size p.1.ty).isNone || ((p.1.ty = 5 || p.1.ty = 6) && decide (16 < p.1.count))).map fun p => badSection p.1.ty

/-! ## Quay manifest entries (08 R197) -/

/-- A number spelt by a field is finite FP32. -/
def finiteF32 (x : Nat) : Bool := decide (bits x 23 8 ≠ 255)

/-- A finite FP32 that is at least 0 (or -0) and below 1. -/
def unitF32 (x : Nat) : Bool := decide (x < 0x3F800000) || decide (x = 0x80000000)

/-- A finite FP32 above 0. -/
def posF32 (x : Nat) : Bool := decide (0 < x) && decide (x < 0x7F800000)

/-- A multiple of 64 in a range. -/
def mult64 (x lo hi : Nat) : Bool := decide (x % 64 = 0) && decide (lo ≤ x) && decide (x ≤ hi)

/-- Bytes of an entry that a field of its operation uses (08 Table 8-10). -/
def qFields : Nat → List (Nat × Nat)
  | 1 => [(16, 8), (24, 4), (28, 4), (32, 8), (40, 1)]
  | 2 => [(16, 8), (24, 4)]
  | 3 => [(16, 8), (24, 4), (28, 4), (32, 8), (40, 3), (44, 4)]
  | 4 => [(16, 4), (20, 4), (24, 2)]
  | 5 => [(16, 6), (24, 4), (28, 4)]
  | 6 => [(16, 8), (24, 4), (28, 3), (32, 20)]
  | 7 | 10 => [(16, 8), (24, 8), (32, 4)]
  | 8 => [(16, 8), (24, 8)]
  | 9 => [(16, 8), (24, 4), (28, 1), (30, 2), (32, 8)]
  | _ => []

/-- Whether every reserved byte and bit of an entry is zero. -/
def qClean (w : BitVec 512) : Bool :=
  let op := qOp w
  let berth := op = 1 || op = 3
  decide (qField w 2 1 < 4) && decide (qField w 14 2 = 0) &&
  ((List.range 48).all fun i => ((qFields op).any fun f => decide (f.1 ≤ 16 + i) && decide (16 + i < f.1 + f.2)) ||
    decide (qField w (16 + i) 1 = 0)) &&
  (!berth || (decide (qField w 28 4 < 2 ^ 21) && decide (qField w 32 8 < 2 ^ 35) &&
    decide (qField w (if op = 1 then 40 else 42) 1 < 2)))

/-- Whether an operation may have a trigger (08 Table 8-9). -/
def qTrigOk (op trig : Nat) : Bool :=
  match op with
  | 0 => decide (trig ≤ 2)
  | 1 | 2 | 4 | 5 => decide (trig = 0)
  | 6 => decide (trig = 1)
  | _ => decide (trig = 0) || decide (trig = 2)

/-- Whether a kind of engine supports an operation. -/
def qOpOk (m : Nat) (w : BitVec 512) : Bool :=
  let op := qOp w
  decide (op ≤ 10) && (decide (m < 72) || (decide (op ≠ 4) && decide (op ≠ 5) && decide (op ≠ 6) &&
    (decide (op ≠ 3) || decide (qField w 40 1 = qField w 41 1))))

/-- Whether an entry's fields are in the ranges of 08 Table 8-10 and R201, `es` the quay manifest. -/
def qRange (img : Image) (m : Nat) (es : List (BitVec 512)) (w : BitVec 512) : Bool :=
  let q (o n : Nat) : Nat := qField w o n
  match qOp w with
  | 1 => mult64 (q 24 4) 64 4096
  | 2 => mult64 (q 24 4) 64 2048
  | 3 =>
    mult64 (q 24 4) 0 (16 * 2 ^ 20) && decide (q 40 1 ≤ 10) && decide (q 41 1 ≤ 10) &&
    (decide (q 40 1 = q 41 1) ||
      (decide (5 ≤ q 40 1) && decide (q 40 1 ≤ 8) && decide (q 41 1 ∈ [0, 3, 9]) && decide (q 24 4 % tileStride (q 40 1) 64 = 0)))
  | 4 => mult64 (q 16 4) 0 4096 && decide (1 ≤ q 24 2) && decide (q 24 2 ≤ 4096)
  | 5 =>
    let dim (x : Nat) : Bool := decide (x ∈ [32, 64, 128])
    let bound (t : Nat) : Bool := match findTag img (BitVec.ofNat 16 t) with
      | some b => b.kind = 0 && b.qmask.getLsbD m
      | none => false
    dim (q 18 1) && dim (q 19 1) && decide (1 ≤ q 20 1) && decide (q 20 1 ≤ 32) && decide (q 20 1 * (q 18 1 + 4) ≤ 4096) &&
    decide (q 21 1 ≤ 40) && bound (q 30 2) && ((List.range (q 19 1 / 32)).all fun i => bound (q 28 2 + i)) &&
    (match es[q 16 2]? with
      | some x => decide (qOp x = 4) && decide (q 18 1 + q 19 1 ≤ qField x 16 4)
      | none => false)
  | 6 =>
    decide (1 ≤ q 24 4) && decide (q 28 1 ∈ [9, 10]) && decide (q 29 1 ∈ [7, 8, 15]) && finiteF32 (q 32 4) && unitF32 (q 36 4) &&
    unitF32 (q 40 4) && posF32 (q 44 4) && finiteF32 (q 48 4)
  | 7 | 10 => mult64 (q 32 4) 0 (2 ^ 32)
  | 8 => mult64 (q 24 8) 0 (2 ^ 64)
  | 9 => mult64 (q 24 4) 0 (2 ^ 32) && decide (1 ≤ q 28 1) && decide (q 28 1 ≤ 3)
  | _ => true

/-- Whether a chain of CHAIN links from entry i ends. -/
def chainEnds (es : List (BitVec 512)) : Nat → Nat → Bool
  | 0, _ => false
  | n + 1, i =>
    match es[i]? with
    | none => false
    | some w => !qChain w || chainEnds es n (qField w 4 2)

/-- 08 R206: a segment index that is copy 0 of a replica set of two phases. -/
def twoPhase (s : State) (img : Image) (i : Nat) : Bool :=
  match img.segmap[i]? with
  | none => false
  | some e =>
    match s.rset (s.seg e.sid.toNat).rsid.toNat with
    | some t => decide (t.phases = 2) && decide (t.seg.head? = some e.sid.toNat)
    | none => false

/-- Whether engine m owns the weights of an OPT entry: copy 0 of the set of its SEGA lies in its memory (01 R20, 08 R205). -/
def ownsWeights (s : State) (img : Image) (m i : Nat) : Bool :=
  match img.segmap[i]? with
  | none => false
  | some e => memOf (s.seg e.sid.toNat).tierB (s.seg e.sid.toNat).mem = m

/-- Whether a binding targets a buffer of engine m. -/
def targets (b : Binding) (m buf : Nat) : Bool :=
  b.dtype = 1 && decide (6 * b.da.toNat + b.db.toNat = m) && decide (b.daddr.toNat = buf)

/-- Whether entry i of a quay manifest is well formed (08 R197). -/
def qEntryOk (s : State) (img : Image) (m : Nat) (es : List (BitVec 512)) (i : Nat) (w : BitVec 512) : Bool :=
  let seg (x : Nat) : Bool := decide (x = 0xFFFF) || decide (x < img.segmap.length)
  qOpOk m w && qTrigOk (qOp w) (qTrig w) && qClean w && seg (segA w) && seg (segB w) && seg (segC w) && seg (segD w) &&
  decide (qField w 4 2 < es.length) && chainEnds es (es.length + 1) i && qRange img m es w &&
  (decide (qTrig w ≠ 1) || ((img.tags.any fun b => targets b m (qField w 3 1)) &&
    (es.filter fun x => decide (qTrig x = 1) && decide (qField x 3 1 = qField w 3 1)).length = 1)) &&
  (decide (qOp w ≠ 6) || (ownsWeights s img m (segA w) && twoPhase s img (segA w) && twoPhase s img (segB w) && twoPhase s img (segC w) &&
    (decide (segD w = 0xFFFF) || twoPhase s img (segD w))))

def qManifestOk (s : State) (img : Image) (q : QuayImg) : Bool :=
  q.entries.zipIdx.all fun p => qEntryOk s img q.mem q.entries p.2 p.1

/-! ## Records -/

/-- Contributors that a binding names. -/
def contribCount (b : Binding) : Nat := (coreContribs b).length + (quayContribs b).length

/-- 07 R173, for binding i. -/
def tagOk (img : Image) (place : List Nat) (i : Nat) (b : Binding) : Bool :=
  !b.rsvd && decide (b.kind.toNat ≤ 1) && decide (b.dtype.toNat ≤ 1) && decide (-512 ≤ b.t.toInt) && decide (b.t.toInt ≤ 511) &&
  (if b.dtype = 0 then decide (b.da.toNat ≤ 71) && decide (72 * b.db.toNat + b.da.toNat ∈ place) && decide (b.daddr.toNat % 64 = 0)
    else decide (b.da.toNat ≤ 11) && decide (b.db.toNat ≤ 5) && decide (b.daddr.toNat < 128) &&
      img.quays.any fun q => q.entries.any fun w => decide (qTrig w = 1) && targets b q.mem (qField w 3 1)) &&
  (decide (b.cx0.toNat > b.cx1.toNat) || decide (b.cy0.toNat > b.cy1.toNat) ||
    (decide (b.cx1.toNat ≤ 71) && decide (b.cy1.toNat ≤ 71) && (coreContribs b).all fun xy => decide (72 * xy.2 + xy.1 ∈ place))) &&
  decide (0 < contribCount b) && decide (b.ncon.toNat = contribCount b) &&
  !((img.tags.take i).any fun c => c.tag = b.tag)

/-- 09 R219, but for the owner. -/
def mapOk (s : State) (e : MapEnt) : Bool :=
  let r := s.seg e.sid.toNat
  !e.rsvd && decide (e.sid.toNat < 0xFFFF) && decide (r.st ≠ 0) && !r.releasing && decide (r.gen = e.gen) &&
  decide (e.boot = s.bring.boot)

/-- The first bad record of a list. -/
def firstBad_ {α : Type} (ty : Nat) (l : List α) (ok : Nat → α → Bool) : Option Refused :=
  (l.zipIdx.find? fun p => !ok p.2 p.1).map fun p => badRecord ty p.2

/-- Bad records, by section in ascending TYPE. `place` are the positions of the partition. -/
def recordsBad (s : State) (addr size : Nat) (img : Image) (place : List Nat) : Option Refused :=
  let cs := coreRecords s addr size
  let qs := quayRecords s addr size
  (firstBad_ 1 cs fun i c => c.2 && decide (c.1.core ∈ place) && !((cs.take i).any fun d => decide (d.1.core = c.1.core))).or <|
  (firstBad_ 2 qs fun i q => q.2 && !((qs.take i).any fun d => decide (d.1.mem = q.1.mem)) && qManifestOk s img q.1).or <|
  (firstBad_ 3 img.segmap fun _ e => mapOk s e).or <|
  (firstBad_ 4 img.tags (tagOk img place)).or <|
  (firstBad_ 5 img.sources fun _ r => decide (r.1.toNat < 2 ^ 21) && decide (r.2.toNat < 2 ^ 21) && decide (r.1.toNat ≤ r.2.toNat)).or <|
  (firstBad_ 6 img.wins fun _ w => !w.rsvd && decide (w.iova.toNat % 4096 = 0) && decide (w.len.toNat % 4096 = 0) &&
    decide (w.len.toNat ≤ 16 * 2 ^ 30)).or <|
  firstBad_ 7 (records s addr size 7 fun o => o) fun _ o => decide (hf s addr o 1 < 24) && decide (hf s addr (o + 1) 1 < 24) &&
    hz s addr (o + 2) 2

/-! ## Manifests (02 R25 R30 R31, 04 R100) -/

/-- The first fault of a core's manifest: its CORE record is record i. -/
def manifestBad (img : Image) (i : Nat) (c : CoreImg) : Option Refused :=
  let ds := c.steps.map fun w => (decodeStep w).getD (onlyS .nop)
  let ext := hasXcall ds
  let qopen (q : Nat) : Bool := match c.qbind[q]? with | some b => b.1 | none => false
  if ext ∧ overlayBase < c.steps.length then some (badRecord 1 i)
  else
    match badStep img (coreX c.core) (coreY c.core) qopen [] 0 ext false c.steps with
    | some k => some (badStepAt c.core k)
    | none => if depthOk ds (128 * stepCount) [(c.entry.toNat, 0, [])] [] then none else some (badRecord 1 i)

/-- The first fault of the manifests. -/
def manifestsBad (img : Image) : Option Refused := (img.cores.zipIdx.filterMap fun p => manifestBad img p.2 p.1).head?

end Sys2Proof.Machine
end

