-- ==== Sys2Proof/Machine/MsgVoyage.lean ====
section
/-! DEFINITION. Partition and voyage messages (10 Table 10-13): PARTITION_CREATE, PARTITION_RELEASE, VOYAGE_LOAD, VOYAGE_LAUNCH, PREEMPT, RESUME, KILL, VOYAGE_STATS; and the timeout of a message (10 R250). -/

namespace Sys2Proof.Machine

open Sys2Proof

/-! ## Partitions (01 R15, 06 R146) -/

def doPartitionCreate (s : State) (mb : Nat) (m : Msg) : State :=
  let bs := mf m 16 4
  let rs := mf m 20 4
  checked s mb m 9 24 [(16, 4), (20, 4)]
    (decide (bs ≠ 0) && decide (bs < 2 ^ 24) && decide (rs < 2 ^ 24) && decide (bs &&& rs = 0)) <|
    let all := basinsIn (BitVec.ofNat 24 (bs ||| rs))
    if all.any fun b => (partOfBasin s b).isSome then refuse s mb stBusy
    else if all.any (isDark s) then refuse s mb stNoResource
    else
      let (s1, pid) := choose s 24 fun i => (s.part i).isNone
      match pid with
      | none => refuse s1 mb stNoResource
      | some i =>
        let cs := (coresOfBasins s (BitVec.ofNat 24 bs)).filter (coreActive s)
        let s2 := s1.setPart i (some { basins := BitVec.ofNat 24 bs, reserve := BitVec.ofNat 24 rs, scrubbing := false, releasing := false })
        reply s2 mb stOk 0 (leBytes 2 i ++ leBytes 2 cs.length ++ leBytes 2 (broadcastFc s cs))

/-- PARTITION_CREATE. -/
def execPartitionCreate (mb : Nat) (s : State) : Out := onMsg mb 0x30 true s doPartitionCreate

/-- A partition that messages may name. -/
def livePart (s : State) (pid : Nat) : Option Partition :=
  match s.part pid with
  | some p => if p.releasing then none else some p
  | none => none

/-- Voyages of a partition in one of some states. -/
def voyagesIn (s : State) (pid : Nat) (sts : List Nat) : List Nat :=
  (voyagesOf s pid).filter fun i => match s.voyage i with | some v => decide (v.st ∈ sts) | none => false

def doPartitionRelease (s : State) (mb : Nat) (m : Msg) : State :=
  let pid := mf m 16 1
  checked s mb m 9 20 [(16, 1)] (livePart s pid).isSome <|
    match livePart s pid with
    | none => s
    | some p =>
      if voyagesIn s pid [vLoaded, vRunning, vSaving, vPreempted, vHeld] ≠ [] then refuse s mb stBusy
      else reply (s.setPart pid (if p.scrubbing then some { p with releasing := true } else none)) mb stOk 0 []

/-- PARTITION_RELEASE: the basins stay held while a scrub still runs on them. -/
def execPartitionRelease (mb : Nat) (s : State) : Out := onMsg mb 0x31 true s doPartitionRelease

/-! ## VOYAGE_LOAD (10 R254) -/

/-- Training content: FEAT bit 0, an optimiser entry, or a gradient reduction. -/
def trains (img : Image) : Bool :=
  img.feat.getLsbD 0 || (img.quays.any fun q => q.entries.any fun w => qOp w = 6) || img.tags.any fun b => b.dtype = 1

/-- Step 2: the licences that an image needs. -/
def licenceBad (s : State) (img : Image) : Option Refused :=
  let tierB := img.feat.getLsbD 1 || img.segmap.any fun e =>
    let r := s.seg e.sid.toNat
    decide (r.st ≠ 0) && r.tierB && decide (r.st ≠ 3)
  if (trains img && !licensed s 3) || (tierB && !licensed s 1) then some (stLicence, 0, []) else none

/-- The positions of a partition that may hold work: those of unlicensed core rows hold none (14 Table
14-7), nor do those of failed cores (06 R148). -/
def placesOf (s : State) (p : Partition) : List Nat :=
  (coresOfBasins s p.basins).filter fun c => !(s.core c).misc.failed && (licensed s 0 || decide (coreY c % 6 < 4))

/-- What a voyage takes of an engine: entries, buffers, length-table slots (08 Table 8-6). -/
def quayNeeds (img : Image) (q : QuayImg) : Nat × Nat × Nat :=
  (q.entries.length,
   ((img.tags.filter fun b => b.dtype = 1 && decide (6 * b.da.toNat + b.db.toNat = q.mem)).foldl
     (fun l b => addOnce b.daddr.toNat l) ([] : List Nat)).length,
   ((q.entries.filter fun w => qOp w = 4).map fun w => qField w 24 2).foldl (· + ·) 0)

/-- What loaded voyages hold of engine m: contexts, entries, buffers, slots. -/
def quayHeld (s : State) (m : Nat) : Nat × Nat × Nat × Nat :=
  s.voyages.foldl (fun a p => match p.2 with
    | some v => (match v.img.quays.find? fun q => q.mem = m with
      | some q => let n := quayNeeds v.img q; (a.1 + 1, a.2.1 + n.1, a.2.2.1 + n.2.1, a.2.2.2 + n.2.2)
      | none => a)
    | none => a) (0, 0, 0, 0)

/-- Whether an engine has room for an image. -/
def quayFits (s : State) (img : Image) (q : QuayImg) : Bool :=
  let n := quayNeeds img q
  let h := quayHeld s q.mem
  let gxq := decide (q.mem < 72)
  decide (h.1 < 8) && decide (h.2.1 + n.1 ≤ if gxq then 16384 else 4096) &&
  decide (h.2.2.1 + n.2.1 ≤ if gxq then 128 else 0) && decide (h.2.2.2 + n.2.2 ≤ if gxq then 4096 else 0)

/-- Loaded voyages (10 R255). -/
def loadedCount (s : State) : Nat := s.voyages.length

/-- Step 4: the resources. -/
def resourceBad (s : State) (img : Image) : Option Refused :=
  if 4096 < img.tags.length ∨ 16384 < img.segmap.length ∨ 64 ≤ loadedCount s ∨ !(img.quays.all (quayFits s img)) ∨
      !treesFit (plantTrees s 0 img.tags) then
    some (stNoResource, 0, [])
  else none

/-- Step 5: a segment owned by another voyage. -/
def ownerBad (s : State) (img : Image) : Option Refused :=
  if img.segmap.any fun e => decide ((s.seg e.sid.toNat).owner ≠ noVoyage) then some (stBusy, 0, []) else none

/-- Whether a mapped replica set is not loaded yet. -/
def setsLoading (s : State) (img : Image) : Bool :=
  img.segmap.any fun e => match s.rset (s.seg e.sid.toNat).rsid.toNat with
    | some t => !t.ready || (match t.load with | some l => !l.repair | none => false)
    | none => false

/-- Step 6. -/
def setBad (s : State) (img : Image) : Option Refused := if setsLoading s img then some (stNotReady, 0, []) else none

/-- The first failure of the checks of an image. -/
def imageBad (s : State) (addr size : Nat) (p : Partition) : Option Refused :=
  let img := readImage s addr size
  (headerBad s addr size).or <|
  (licenceBad s img).or <|
  (dirBad s addr size).or <|
  (recordsBad s addr size img (placesOf s p)).or <|
  (manifestsBad img).or <|
  (resourceBad s img).or <|
  (ownerBad s img).or <|
  setBad s img

/-- A voyage as its load leaves it. -/
def newVoyage (pid : Nat) (img : Image) : Voyage :=
  { pid := pid, st := vLoaded, img := img, race := 0, retain := false, seed := 0, stmo := 0, segStart := 0, segHeld := false,
    launchTick := 0, endTick := 0, faults := 0, faultTicks := 0, holds := 0, holdTicks := 0, replays := 0, preempts := 0,
    ordinal := 0, ordReplays := 0, ordTimeouts := 0, preempt := none, savePhase := 0, save := none, heldRsid := none,
    retained := [], killer := [], due := [], coreFails := [], health := [], moved := [], ueRows := [],
    stopTick := 0, doneTick := none }

/-- EXCL segments take their owner (09 R219). -/
def takeOwner (s : State) (vid : Nat) (img : Image) : State :=
  img.segmap.foldl (fun s e => s.updSeg e.sid.toNat fun r =>
    if r.excl && decide (r.owner = noVoyage) then { r with owner := BitVec.ofNat 16 vid } else r) s

/-- The voyage exists: its contexts, trees and segments are its own. -/
def loadVoyage (s : State) (vid pid : Nat) (img : Image) : State :=
  let id := BitVec.ofNat 16 vid
  let s1 := s.setVoyage vid (some (newVoyage pid img))
  let s2 := img.quays.foldl (fun s q => s.updEngine q.mem fun e => { e with ctxs := e.ctxs ++ [newCtx id q.entries] }) s1
  takeOwner (plantTrees s2 id img.tags) vid img

def doVoyageLoad (s : State) (mb : Nat) (m : Msg) : State :=
  let pid := mf m 16 1
  let addr := mf m 24 8
  let size := mf m 32 8
  checked s mb m 9 40 [(16, 1), (24, 8), (32, 8)] (livePart s pid).isSome <|
    match livePart s pid with
    | none => s
    | some p =>
      let (s1, bad) := hostFails s
      if bad then reply s1 mb stFaulted 4 []
      else
        match imageBad s1 addr size p with
        | some (st, detail, body) => reply s1 mb st detail body
        | none =>
          let (s2, i) := choose s1 65534 fun i => (s1.voyage (i + 1)).isNone
          match i with
          | none => refuse s2 mb stNoResource
          | some i => reply (loadVoyage s2 (i + 1) pid (readImage s1 addr size)) mb stOk 0 (leBytes 2 (i + 1))

/-- VOYAGE_LOAD. -/
def execVoyageLoad (mb : Nat) (s : State) : Out := onMsg mb 0x32 true s doVoyageLoad

/-! ## VOYAGE_LAUNCH -/

/-- Whether a partition cannot take a voyage: another one occupies it, or a scrub runs. -/
def occupied (s : State) (pid vid : Nat) : Bool :=
  (voyagesIn s pid [vRunning, vSaving, vHeld]).any (· ≠ vid) || (match s.part pid with | some p => p.scrubbing | none => true)

/-- A re-placement or a hold is due for a voyage with a place in a dark basin, a replay for one with a place on a failed core. -/
def dueDark (s : State) (vid : Nat) (v : Voyage) : State :=
  let ps := (voyagePositions s v).map (placeOf v)
  if ps.any (darkAt s) then dueReplay s (BitVec.ofNat 16 vid) 7
  else if ps.any fun p => (s.core p).misc.failed then dueReplay s (BitVec.ofNat 16 vid) 1
  else s

/-- Cores and engines of a voyage take their launch state; a failed core takes none (06 R148). -/
def launchAll (s : State) (vid : Nat) (v : Voyage) : State :=
  let id := BitVec.ofNat 16 vid
  let s1 := ((voyagePositions s v).filter fun c => !(s.core (placeOf v c)).misc.failed).foldl (fun s c =>
    let p := placeOf v c
    (takePlace (foldCore s p) c p).updCore p fun k => launchCore k id v.seed (coreX c, coreY c) (coreRec v.img c)) s
  (enginesOf s1 id).foldl (fun s m => s.updEngine m fun e => launchCtx e id) s1

def doVoyageLaunch (s : State) (mb : Nat) (m : Msg) : State :=
  let vid := mf m 16 2
  checked s mb m 9 36 [(16, 2), (18, 2), (20, 4), (24, 8), (32, 4)] ((s.voyage vid).isSome && decide (mf m 20 4 ≤ 1)) <|
    match s.voyage vid with
    | none => s
    | some v =>
      let retain := decide (mf m 20 4 = 1)
      if retain && !licensed s 4 then refuse s mb stLicence
      else if v.st ≠ vLoaded || occupied s v.pid vid || s.thermal.emergency.isSome then refuse s mb stBusy
      else if setsLoading s v.img then refuse s mb stNotReady
      else if updateTooFar s vid v then refuse s mb stBadMessage
      else
        let now := reg s (fabBase + 0x1C)
        let v1 : Voyage := { v with
          st := vRunning, race := BitVec.ofNat 16 (mf m 18 2), retain := retain, seed := BitVec.ofNat 64 (mf m 24 8)
          stmo := if mf m 32 4 = 0 then 250000000 else mf m 32 4, segStart := s.tide.toNat, launchTick := s.tide }
        let s1 := launchAll (s.setVoyage vid (some v1)) vid v1
        let s2 := if v.img.dtab = now then s1 else event s1 0x09 (some vid) stOk v.img.dtab.toNat now.toNat
        reply (dueDark s2 vid v1) mb stOk 0 (leBytes 4 v.img.dtab.toNat ++ leBytes 4 now.toNat ++ leBytes 8 s.tide.toNat)

/-- VOYAGE_LAUNCH. -/
def execVoyageLaunch (mb : Nat) (s : State) : Out := onMsg mb 0x33 true s doVoyageLaunch

/-! ## PREEMPT (09 R228 R236, 10 Table 10-19) -/

/-- PREEMPT by the voyage's state. A SOFT request on a voyage in a HARD save is BUSY: Table 10-19 names the same mode and a higher one only (DESIGN
CHOICE, log entry 58). -/
def doPreempt (s : State) (mb : Nat) (m : Msg) : State :=
  let vid := mf m 16 2
  let hard := decide (mf m 18 1 = 1)
  checked s mb m 9 24 [(16, 2), (18, 1), (19, 1), (20, 4)]
    ((s.voyage vid).isSome && decide (mf m 18 1 ≤ 1) && decide (mf m 19 1 ≤ 1)) <|
    match s.voyage vid with
    | none => s
    | some v =>
      let q : PreemptReq := { asker := some (askerOf mb m (some vid)), hard := hard, esc := decide (mf m 19 1 = 1)
                              deadline := if mf m 20 4 = 0 then none else some (m.tick + mf m 20 4) }
      let take (s : State) (st : Nat) : State := (begin_ s mb).updVoyage vid fun v => { v with st := st, preempt := some q }
      if v.st = vRunning then
        (if hard then startHard (take s vSaving) vid else take s vSaving)
      else if v.st = vHeld then softSave (take s vHeld) vid
      else if v.st = vSaving then
        (match v.preempt with
          | some old =>
            if hard && !old.hard then startHard (take (finishOp s old.asker stCancelled 5 []) vSaving) vid
            else refuse s mb stBusy
          | none => refuse s mb stBusy)
      else refuse s mb stBusy

/-- PREEMPT: the save begins; its end is the reply. -/
def execPreempt (mb : Nat) (s : State) : Out := onMsg mb 0x34 true s fun s mb m => if m.begun then s else doPreempt s mb m

/-! ## RESUME (09 R230 R235) -/

/-- Home basins of the positions that a CORE record names. -/
def homeBasins (s : State) (v : Voyage) : List Nat := v.img.cores.foldl (fun l r => addOnce (basinOf s r.core) l) []

/-- A basin on which a partition may run work. -/
def usable (s : State) (p : Partition) (b : Nat) : Bool := (p.basins.getLsbD b || p.reserve.getLsbD b) && !isDark s b

/-- The basin on which the positions of basin b ran last. -/
def lastBasin (s : State) (v : Voyage) (b : Nat) : Nat :=
  match (coresOfBasin s b).head? with
  | some c => basinOf s (placeOf v c)
  | none => b

/-- The basin of a partition for the positions of basin b: where they ran, their own, or the one the
relocation map names. -/
def seatOf (s : State) (v : Voyage) (p : Partition) (b : Nat) : Option Nat :=
  if usable s p (lastBasin s v b) then some (lastBasin s v b)
  else if usable s p b then some b
  else match reserveFor v b with
    | some r => if usable s p r && decide ((coresOfBasin s b).length ≤ (coresOfBasin s r).length) then some r else none
    | none => none

/-- Seats for every home basin, each of its own. -/
def seats (s : State) (v : Voyage) (p : Partition) : List Nat → List Nat → Option (List (Nat × Nat))
  | [], _ => some []
  | b :: r, used =>
    match seatOf s v p b with
    | none => none
    | some x => if x ∈ used then none else (seats s v p r (x :: used)).map fun l => (b, x) :: l

/-- The re-placement that seats give. -/
def seated (s : State) (v : Voyage) (l : List (Nat × Nat)) : List (Nat × Nat) :=
  l.flatMap fun x =>
    if x.2 = lastBasin s v x.1 then v.moved.filter fun p => decide (basinOf s p.1 = x.1)
    else if x.2 = x.1 then []
    else spread s x.1 x.2

/-- A partition runs the seats that were in reserve. -/
def claimSeats (p : Partition) (l : List (Nat × Nat)) : Partition :=
  let m := l.foldl (fun (a : BitVec 24) x => a ||| BitVec.ofNat 24 (2 ^ x.2)) 0
  { p with basins := p.basins ||| m, reserve := p.reserve &&& ~~~m }

/-- The cores of a re-placement take the identity of their positions, and the routers around the positions' own basins lead there, as after
13 R337 (DEDUCED, log entry 64). -/
def placeSeats (s : State) (moved : List (Nat × Nat)) : State :=
  let s1 := moved.foldl (fun s x => takePlace s x.1 x.2) s
  ((moved.map fun x => basinOf s x.1).foldl (fun l b => addOnce b l) ([] : List Nat)).foldl
    (fun s b => programRules s b (moved.filter fun x => decide (basinOf s x.1 = b))) s1

/-- The voyage in its new partition: its seats, and a saved state for each position of the partition;
positions that the save does not hold run nothing. -/
def seatVoyage (s : State) (vid pid : Nat) (v : Voyage) (p : Partition) (g : SaveImg) (l : List (Nat × Nat)) : State :=
  let v1 := { v with pid := pid, moved := seated s v l }
  let s1 := placeSeats (s.setPart pid (some (claimSeats p l))) v1.moved
  let cores := (voyagePositions s1 v1).map fun c => match g.cores.find? fun x => x.1 = c with
    | some x => x
    | none => (c, launchCore (s1.core (placeOf v1 c)) (BitVec.ofNat 16 vid) v.seed (coreX c, coreY c) none)
  s1.setVoyage vid (some { v1 with save := some { g with cores := cores } })

def doResume (s : State) (mb : Nat) (m : Msg) : State :=
  let vid := mf m 16 2
  let pid := mf m 18 1
  checked s mb m 9 20 [(16, 2), (18, 1)] ((s.voyage vid).isSome && (livePart s pid).isSome) <|
    match s.voyage vid, livePart s pid with
    | some v, some p =>
      (match v.save with
        | none => refuse s mb stBusy
        | some g =>
          if v.st ≠ vPreempted || occupied s pid vid || s.thermal.emergency.isSome then refuse s mb stBusy
          else
            match seats s v p (homeBasins s v) [] with
            | none => refuse s mb stNoResource
            | some l =>
              let s1 := seatVoyage s vid pid v p g l
              if !treesFit (replant s1 vid) then refuse s mb stNoResource
              else
                let kind := match s1.voyage vid with | some v1 => b2n (atBoundary s1 v1 g) | none => 0
                let s2 := event (resumeVoyage s1 vid) 0x0D (some vid) stOk v.ordinal.toNat 0
                let s3 := match s2.voyage vid with | some v2 => dueDark s2 vid v2 | none => s2
                reply s3 mb stOk 0 [BitVec.ofNat 8 kind])
    | _, _ => s

/-- RESUME. -/
def execResume (mb : Nat) (s : State) : Out := onMsg mb 0x35 true s doResume

/-! ## KILL -/

/-- Mailboxes with a message of a lower rank about a voyage that has not been begun: a launch or a
pre-emption. -/
def lower (s : State) (vid : Nat) : List Nat :=
  (s.hm.boxes.filter fun p => match p.2.msg with
    | some m => !m.begun && decide (m.ty.toNat ∈ [0x33, 0x34]) && decide (mf m 16 2 = vid)
    | none => false).map (·.1)

/-- The lower messages are answered with CANCELLED. -/
def cancelLower (s : State) (vid : Nat) : State := (lower s vid).foldl (fun s b => reply s b stCancelled 5 []) s

def doKill (s : State) (mb : Nat) (m : Msg) : State :=
  let vid := mf m 16 2
  checked s mb m 9 20 [(16, 2)] (s.voyage vid).isSome <|
    match s.voyage vid with
    | none => s
    | some v =>
      let gone (s : State) : State := reply (forgetVoyage s vid) mb stOk 0 []
      if v.st = vLoaded || v.st = vPreempted then gone (event s 0x04 (some vid) stCancelled 0 0)
      else
        let s1 := if v.st = vEnded then s else endVoyage s vid stCancelled 0x04 0 0
        if (match s1.part v.pid with | some p => p.scrubbing | none => false) then
          (begin_ s1 mb).updVoyage vid fun v => { v with killer := v.killer ++ [askerOf mb m (some vid)] }
        else gone s1

/-- KILL: every KILL that comes while the scrub runs is answered at its end (DESIGN CHOICE, log entry 58); lower messages about the voyage that have not replied are superseded; the scrub's end is the
reply. -/
def execKill (mb : Nat) (s : State) : Out :=
  onMsg mb 0x36 false s fun s mb m =>
    let taken := decide (9 ≤ stage s) && wellFormed m 20 [(16, 2)] && (s.voyage (mf m 16 2)).isSome
    let s1 := if taken then cancelLower s (mf m 16 2) else s
    if m.begun || earlier s1 mb m then s else doKill s1 mb m

/-! ## VOYAGE_STATS -/

/-- Body of the VOYAGE_STATS reply. -/
def statsBody (v : Voyage) : Bytes :=
  leBytes 4 v.st ++ leBytes 4 v.faults.toNat ++ leBytes 8 v.faultTicks.toNat ++ leBytes 4 v.holds.toNat ++
  leBytes 2 v.replays.toNat ++ leBytes 2 v.preempts.toNat ++ leBytes 8 v.holdTicks.toNat ++ leBytes 8 v.launchTick.toNat ++
  leBytes 8 v.endTick.toNat ++ leBytes 4 v.ordinal.toNat

def doVoyageStats (s : State) (mb : Nat) (m : Msg) : State :=
  checked s mb m 9 20 [(16, 2)] (s.voyage (mf m 16 2)).isSome <|
    match s.voyage (mf m 16 2) with
    | some v => reply s mb stOk 0 (statsBody v)
    | none => s

/-- VOYAGE_STATS. -/
def execVoyageStats (mb : Nat) (s : State) : Out := onMsg mb 0x37 true s doVoyageStats

/-! ## Timeouts (10 R250) -/

/-- The start of the operation of a type that goes on after a TIMEOUT. -/
def startOp (ty : Nat) (s : State) (mb : Nat) (m : Msg) : State :=
  match ty with
  | 0x04 => doSetPanelId s mb m
  | 0x21 => doSegRelease s mb m
  | 0x22 => doSegMove s mb m
  | 0x29 => doReplicaLoad s mb m
  | 0x2B => doReplicaRelease s mb m
  | 0x34 => doPreempt s mb m
  | 0x36 => doKill s mb m
  | _ => s

/-- Whether the message that a mailbox holds is still m. -/
def stillThere (s : State) (mb : Nat) (m : Msg) : Bool :=
  match (s.box mb).msg with
  | some m' => decide (m'.seq = m.seq) && decide (m'.ty = m.ty) && decide (m'.tick = m.tick)
  | none => false

/-- MESSAGE_TIMEOUT: the reply carries TIMEOUT. The operation of a "Continues" type goes on, also when
it had still to begin; that of a "None" type has no effect. -/
def execMessageTimeout (mb : Nat) (s : State) : Out :=
  onUnit (decide (mb < boxCount)) <|
    match (s.box mb).msg with
    | none => s
    | some m =>
      match m.timeout with
      | none => s
      | some t =>
        if s.tide.toNat < m.tick + t || s.hm.hung.isSome then s
        else
          let goes := match msgType m.ty.toNat with | some (_, c) => c | none => false
          let s1 := if goes && !m.begun then startOp m.ty.toNat s mb m else s
          if stillThere s1 mb m then reply s1 mb stTimeout 0 [] else s1

end Sys2Proof.Machine
end

