-- ==== Sys2Proof/Machine/Links.lean ====
section
/-! DEFINITION. Scale-out ports (11 R267 to R281): frames, training, width, loss and return; and the open sites in service (11 R289). -/

namespace Sys2Proof.Machine

open Sys2Proof

/-! ## Port registers -/

/-- LNK_PORT_STATUS.STATE (11 Table 11-9). -/
def pDown : Nat := 0
def pDetect : Nat := 1
def pEq : Nat := 2
def pLanemap : Nat := 3
def pIdent : Nat := 4
def pActive : Nat := 5
def pWidthChange : Nat := 6
def pLowPower : Nat := 7
def pDisabled : Nat := 8
def pUnlicensed : Nat := 9

def portState (s : State) (p : Nat) : Nat := getField s (portOff p) 0 4
def setPortState (s : State) (p st : Nat) : State := putField s (portOff p) 0 4 st

/-- LNK_CAUSE bits of a port (11 Table 11-7). -/
def lnkUp : Nat := 0
def lnkDown : Nat := 1
def lnkWidthReduced : Nat := 2
def lnkReplayLimit : Nat := 3
def lnkTrainFail : Nat := 4
def lnkPeerChanged : Nat := 5
def lnkCorrHigh : Nat := 6

/-- Ticks of 100 ms and of 10 ms. -/
def retryTicks : Nat := 25000000
def resumeTicks : Nat := 2500000

/-! ## Width (11 R274) -/

/-- Lanes set in a map. -/
def laneCount (m : BitVec 16) : Nat := ((List.range 16).filter fun i => m.getLsbD i).length

/-- The trained width for a number of good lanes. -/
def widthFor (n : Nat) : Nat := if 16 ≤ n then 16 else if 12 ≤ n then 12 else if 8 ≤ n then 8 else 4

/-- The lowest-numbered good lanes. -/
def lanesUsed (good : BitVec 16) : BitVec 16 :=
  BitVec.ofNat 16 ((((List.range 16).filter fun i => good.getLsbD i).take (widthFor (laneCount good))).map (2 ^ ·)).sum

/-- LNK_LANE_MAP and the width of a port whose good lanes are known. -/
def setLanes (s : State) (p : Nat) (good : BitVec 16) : State :=
  let s1 := setReg s (portOff p + 0xC) (BitVec.ofNat 32 (good.toNat + 65536 * (lanesUsed good).toNat))
  putField s1 (portOff p) 4 2 (widthFor (laneCount good) / 4 - 1)

/-- LNK_LANE_MAP.GOOD. -/
def goodLanes (s : State) (p : Nat) : BitVec 16 := BitVec.ofNat 16 (getField s (portOff p + 0xC) 0 16)

/-! ## Frames (11 R268 R269 R271) -/

/-- A port's next slot: the first waiting packet, in the order of arrival, that is the first of its
channel and whose channel has a credit. The order among channels is open (log entry 1). -/
def slotFrom (t : Port) : Option Nat :=
  (t.outq.zipIdx.find? fun p =>
    decide (0 < t.credits.getD (portChannel p.1) 0) &&
    !((t.outq.take p.2).any fun k => decide (portChannel k = portChannel p.1))).map (·.2)

/-- A port with a slot sent: the slot, its packet, and the packet leaves the queue with its last one. -/
def sendSlot (t : Port) : Option (Port × FrameSlot × Packet) :=
  match slotFrom t with
  | none => none
  | some i =>
    match t.outq[i]? with
    | none => none
    | some k =>
      let ch := portChannel k
      let sent := t.slotsSent.getD ch 0
      let t1 := { t with credits := setAt t.credits ch (t.credits.getD ch 0 - 1) }
      if portSlots k ≤ sent + 1 then some ({ t1 with outq := dropAt t.outq i, slotsSent := setAt t.slotsSent ch 0 }, slotAt k sent, k)
      else some ({ t1 with slotsSent := setAt t.slotsSent ch (sent + 1) }, slotAt k sent, k)

/-- Up to `n` slots of a frame: the port, the slots, and the packet of each. -/
def sendSlots : Nat → Port → Port × List FrameSlot × List Packet
  | 0, t => (t, [], [])
  | n + 1, t =>
    match sendSlot t with
    | none => (t, [], [])
    | some (t1, x, k) =>
      let (t2, xs, ks) := sendSlots n t1
      (t2, x :: xs, k :: ks)

/-- A port after it has sent a new frame. The first FSEQ is the model's choice (log entry 1). -/
def newFrame (t : Port) : Port :=
  let (t1, slots, pkts) := sendSlots 4 t
  let f : PortFrame := { slots := slots, fseq := t.txSeq + 1, ackseq := t.rxSeq, ackValid := true, nak := !t.rxGood, credit := t.freed }
  { t1 with txSeq := t.txSeq + 1, replay := t.replay ++ [{ frame := f, pkts := pkts }], freed := [0, 0, 0, 0] }

/-- PORT_FRAME_SEND: a port sends the next frame of a replay, or a new one while its replay buffer of
512 frames has room. -/
def execPortFrameSend (p : Nat) (s : State) : Out :=
  onUnit (decide (p < portCount)) <|
    if !portUp s p then s
    else s.updPort p fun t =>
      if 0 < t.replaying then { t with replaying := t.replaying - 1 }
      else if 512 ≤ t.replay.length then t
      else newFrame t

/-- Frames that an ACKSEQ does not acknowledge. -/
def unacked (l : List SentFrame) (ack : Word) : List SentFrame := l.filter fun f => decide ((f.frame.fseq - ack - 1).toNat < 2 ^ 31)

/-! ## Loss (11 R275) -/

/-- A request packet in a held frame is answered toward its SRC with a NAK of UNREACHABLE; a TOKEN or
QCMD completes with UNREACHABLE; a response is dropped. A local source that is not a core keeps its
packet to send it again. -/
def answerHeld (s : State) (p : Nat) (k : Packet) : State :=
  let u := portUnit p
  let s0 := raiseFab s 6 { unit := u }
  if k.ty = 0 || k.ty = 1 then
    sendBack (keepRetry s0 k) u (mkPkt 10 k.src (homeId s u) (6 + 256 * (pidxOf k).toNat) k.xq false [])
  else if k.ty = 4 || k.ty = 5 then answer s0 u (homeId s u) k 6
  else s

/-- The packets of a port with slots in its held frames, and those that are partly sent. -/
def heldPackets (t : Port) : List Packet :=
  (t.replay.flatMap (·.pkts) ++ (t.outq.zipIdx.filter fun x => slotsOut t x.2 x.1).map (·.1)).eraseDups

/-- The held frames of a port that does not resume are answered, and its sequence starts anew. -/
def failHeld (s : State) (p : Nat) : State :=
  let t := s.port p
  let s1 := s.setPort p { t with
    txSeq := 0, rxSeq := 0, rxGood := true, replay := [], replays := 0, replaying := 0, credits := [512, 512, 512, 512]
    freed := [0, 0, 0, 0], inbox := [], lossAt := none, slotsSent := [0, 0, 0, 0]
    outq := (t.outq.zipIdx.filter fun x => !slotsOut t x.2 x.1).map (·.1) }
  (heldPackets t).foldl (fun s k => answerHeld s p k) s1

/-- A loss begins: the port counts as down at once, and goes to `st`. -/
def beginLoss (s : State) (p st : Nat) : State :=
  let s1 := (setPortState s p st).updPort p fun t => { t with lossAt := some s.tide.toNat, replaying := 0 }
  raiseLnk (moveFrom s1 p fun _ => true) p lnkDown

/-- Whether a port has a link to lose. -/
def hasLink (s : State) (p : Nat) : Bool := decide (portState s p ∈ [pActive, pWidthChange, pLowPower])

/-- LINK_LOSS: every lane lost its signal, a frame reached the replay limit, or the port's link group is
off; a port that has its power retrains. -/
def execLinkLoss (p : Nat) (why : LossReason) (s : State) : Out :=
  onUnit (decide (p < portCount)) <|
    if !hasLink s p then s
    else match why with
      | .signal => beginLoss s p pDetect
      | .groupOff => beginLoss s p pDown
      | .replayLimit => if (s.port p).replays < 8 then s else beginLoss (raiseLnk s p lnkReplayLimit) p pDetect

/-- LINK_LOSS_TIMEOUT: a lost port has not returned within 10 ms. -/
def execLinkLossTimeout (p : Nat) (s : State) : Out :=
  onUnit (decide (p < portCount)) <|
    match (s.port p).lossAt with
    | none => s
    | some t => if s.tide.toNat < t + resumeTicks then s else failHeld s p

/-! ## Received frames -/

/-- A slot that has come: the last one of a packet completes it, and frees the packet's slots. -/
def takeSlot (s : State) (p : Nat) (x : FrameSlot) : State :=
  if x.kind = 0 then s
  else
    let ch := x.vc.toNat
    let l := (if x.kind = 1 then [] else look [] (s.port p).inbox ch) ++ [x]
    if !x.last then s.updPort p fun t => { t with inbox := put [] t.inbox ch l }
    else
      let s1 := s.updPort p fun t =>
        { t with inbox := put [] t.inbox ch [], freed := setAt t.freed ch (min 65535 (t.freed.getD ch 0 + l.length)) }
      match packetOf l with
      | some (k, n) => ingest s1 p k n
      | none => s1

/-- A frame in order: acknowledged frames leave the buffer, credits and slots are taken. A NAK asks for
a replay, of which a frame may have 8. -/
def takeFrame (s : State) (p : Nat) (f : PortFrame) : State :=
  let t := s.port p
  let rest := if f.ackValid then unacked t.replay f.ackseq else t.replay
  let n := if rest.length = t.replay.length then t.replays else 0
  let s1 := s.setPort p { t with rxSeq := f.fseq, rxGood := true, replay := rest, replays := n, replaying := min t.replaying rest.length
                                 credits := (List.range 4).map fun i => min 512 (t.credits.getD i 0 + f.credit.getD i 0) }
  let s2 := f.slots.foldl (fun s x => takeSlot s p x) s1
  if !f.nak || rest = [] then s2
  else if n < 8 then
    (countField s2 (portOff p + 0x14) 16 16 1).updPort p fun t => { t with replays := n + 1, replaying := t.replay.length }
  else beginLoss (raiseLnk s2 p lnkReplayLimit) p pDetect

/-- PORT_FRAME_RECEIVE: a frame arrives, with its FCRC and the symbols that arrived wrong. One that fails, and every later one until the replay arrives,
is discarded; the next frame sent carries the NAK. -/
def execPortFrameReceive (p : Nat) (f : PortFrame) (fcrc : BitVec 32) (errors : List Nat) (s : State) : Out :=
  onUnit (decide (p < portCount)) <|
    if !portUp s p then s
    else
      let t := s.port p
      let good := frameIntact f fcrc errors
      let s1 := countField s (portOff p + 0x10) 0 32 (symbolsCorrected errors)
      if good && f.fseq = t.rxSeq + 1 then takeFrame s1 p f
      else
        let again := good && t.rxGood && decide ((t.rxSeq - f.fseq).toNat < 2 ^ 31)
        (countField s1 (portOff p + 0x14) 0 16 1).updPort p fun t => { t with rxGood := again }

/-! ## Training (11 R272 to R276) -/

/-- Whether a port may train: licensed and not disabled. -/
def mayTrain (s : State) (p : Nat) : Bool := decide (portState s p ≠ pDisabled) && decide (portState s p ≠ pUnlicensed)

/-- A port starts training. -/
def startTraining (s : State) (p : Nat) : State := (setPortState s p pDetect).updPort p fun t => { t with retryAt := none }

/-- PORT_TRAIN_START: a port whose link group is powered, or whose peer appears, starts training. -/
def execPortTrainStart (p : Nat) (s : State) : Out :=
  onUnit (decide (p < portCount)) <| if portState s p = pDown then startTraining s p else s

/-- A training that fails leaves the port DOWN for 100 ms. -/
def trainFails (s : State) (p : Nat) : State :=
  (setPortState s p pDown).updPort p fun t => { t with retryAt := some (s.tide.toNat + retryTicks) }

/-- LNK_PORT_PEER (11 Table 11-11). -/
def setPeer (s : State) (p : Nat) (i : PeerId) : State :=
  setReg s (portOff p + 8) (BitVec.ofNat 32 (i.panel.toNat + 256 * i.port.toNat + 16384 * b2n i.gateway + 65536))

/-- Whether two identities are of one peer. -/
def samePeer (a b : PeerId) : Bool := a.panel = b.panel && a.port = b.port && a.gateway = b.gateway

/-- A port enters ACTIVE: it resumes a session that was lost within 10 ms, or starts one; a peer that
is not the last one holds it. -/
def enterActive (s : State) (p : Nat) (i : PeerId) : State :=
  let t := s.port p
  let resume := match t.lossAt, t.prevPeer with
    | some l, some q => samePeer q i && q.session = i.session && decide (s.tide.toNat ≤ l + resumeTicks)
    | _, _ => false
  let s1 := if resume then s.updPort p fun t =>
      let rest := unacked t.replay i.lastFseq
      { t with replay := rest, replaying := rest.length, replays := 0, lossAt := none }
    else failHeld s p
  let changed := match t.prevPeer with
    | some q => !samePeer q i
    | none => false
  let s2 := (setPeer (setPortState s1 p pActive) p i).updPort p fun t => { t with prevPeer := some i }
  let s3 := raiseLnk (putField s2 (portOff p) 9 1 (b2n changed)) p lnkUp
  let s4 := if laneCount (goodLanes s3 p) < 16 then raiseLnk s3 p lnkWidthReduced else s3
  if changed then raiseLnk s4 p lnkPeerChanged else s4

/-- A port whose training ends in idle state I4 enters the low-power state, with transit disabled (11 R277 Table 11-6). -/
def restPort (s : State) (p : Nat) : State :=
  if s.hm.idle.state = 4 ∧ !transitOn s p ∧ portState s p = pActive then setPortState s p pLowPower else s

/-- PORT_TRAIN_STAGE_DONE: a training state has ended. -/
def execPortTrainStageDone (p : Nat) (o : TrainObs) (s : State) : Out :=
  onUnit (decide (p < portCount)) <|
    match portState s p with
    | 1 => if o.ok then setPortState s p pEq else trainFails s p
    | 2 =>
      if !o.ok then trainFails s p
      else
        let stored := o.stored && (s.port p).eq
        (putField (setPortState s p pLanemap) (portOff p) 8 1 (b2n stored)).updPort p fun t => { t with eq := true }
    | 3 =>
      if o.ok && decide (4 ≤ laneCount o.lanes) then setPortState (setLanes s p o.lanes) p pIdent
      else raiseLnk (trainFails s p) p lnkTrainFail
    | 4 => if o.ok then restPort (enterActive s p o.peer) p else trainFails s p
    | _ => s

/-- TRAIN_RETRY: the 100 ms after a failed training, or without a peer, are over. -/
def execTrainRetry (p : Nat) (s : State) : Out :=
  onUnit (decide (p < portCount)) <|
    match (s.port p).retryAt with
    | none => s
    | some t => if portState s p ≠ pDown || decide (s.tide.toNat < t) then s else startTraining s p

/-! ## Lanes in service (11 R274) -/

/-- LANE_BAD: a lane in service passes the correction threshold, or loses its signal alone. -/
def execLaneBad (p : Nat) (lane : BitVec 4) (byCorrections : Bool) (s : State) : Out :=
  onUnit (decide (p < portCount)) <|
    let good := goodLanes s p
    if portState s p ≠ pActive || !good.getLsbD lane.toNat then s
    else
      let left := good &&& ~~~(BitVec.ofNat 16 (2 ^ lane.toNat))
      let s1 := putField s (portOff p + 0xC) 0 16 left.toNat
      setPortState (if byCorrections then raiseLnk s1 p lnkCorrHigh else s1) p pWidthChange

/-- WIDTH_CHANGE_DONE: the port resumes from the receiver's ACKSEQ at the width that its good lanes
give. With fewer than 4 it is lost, and trains. -/
def execWidthChangeDone (p : Nat) (s : State) : Out :=
  onUnit (decide (p < portCount)) <|
    if portState s p ≠ pWidthChange then s
    else if laneCount (goodLanes s p) < 4 then beginLoss s p pDetect
    else
      let s1 := setPortState (setLanes s p (goodLanes s p)) p pActive
      raiseLnk (s1.updPort p fun t => { t with replaying := t.replay.length }) p lnkWidthReduced

/-! ## LNK_PORT_CTRL (11 Table 11-10) -/

/-- Writing RETRAIN. -/
def retrainPort (s : State) (p : Nat) : State :=
  if hasLink s p then beginLoss s p pDetect
  else if mayTrain s p then startTraining s p
  else s

/-- RETRAIN. -/
def execRetrain (p : Nat) (s : State) : Out := onUnit (decide (p < portCount)) (retrainPort s p)

/-- A port stops: its held frames are answered at once. -/
def stopPort (s : State) (p st : Nat) : State :=
  failHeld (if hasLink s p then beginLoss s p st else setPortState s p st) p

/-- Writing DISABLE. -/
def disablePort (s : State) (p : Nat) (on : Bool) : State :=
  let s1 := putField s (portOff p + 4) 1 1 (b2n on)
  if portState s p = pUnlicensed then s1
  else if on then (if portState s p = pDisabled then s1 else stopPort s1 p pDisabled)
  else if portState s p = pDisabled then startTraining s1 p
  else s1

/-- DISABLE. -/
def execDisable (p : Nat) (on : Bool) (s : State) : Out := onUnit (decide (p < portCount)) (disablePort s p on)

/-- Writing FORGET_EQ. -/
def forgetEq (s : State) (p : Nat) : State := s.updPort p fun t => { t with eq := false }

/-- FORGET_EQ. -/
def execForgetEq (p : Nat) (s : State) : Out := onUnit (decide (p < portCount)) (forgetEq s p)

/-- Writing ACCEPT_PEER. -/
def acceptPeer (s : State) (p : Nat) : State := putField s (portOff p) 9 1 0

/-- ACCEPT_PEER. -/
def execAcceptPeer (p : Nat) (s : State) : Out := onUnit (decide (p < portCount)) (acceptPeer s p)

/-- PORT_WAKE: either end wakes a port in the low-power state of I4. -/
def execPortWake (p : Nat) (s : State) : Out :=
  onUnit (decide (p < portCount)) <| if portState s p = pLowPower then setPortState s p pActive else s

/-- CABLE_PRESENCE: a slot's presence line changes. A cable brings a peer: a port that is DOWN trains. -/
def execCablePresence (p : Nat) (present : Bool) (s : State) : Out :=
  onUnit (decide (p < portCount)) <|
    let s1 := s.updPort p fun t => { t with cable := present }
    if present && decide (portState s p = pDown) then startTraining s1 p else s1

/-! ## Licence (11 R278 Table 11-6) -/

/-- The ports that a licence enables: one that it removes is handled as DISABLE; one that it adds is DOWN
and may train. -/
def portLicence (s : State) (p : Nat) : State :=
  let on := portLicensed s p
  let s1 := putField s (portOff p) 6 1 (b2n on)
  if on then (if portState s p = pUnlicensed then setPortState s1 p pDown else s1)
  else if portState s p = pUnlicensed then s1
  else stopPort s1 p pUnlicensed

/-! ## Open sites in service (11 R289) -/

def setSiteState (s : State) (i st : Nat) : State := putField s (siteOff i) 0 3 st

/-- Whether a partner's packet answers one that it was handed. -/
def askedFor (s : State) (i : Nat) (k : Packet) : Bool := decide ((k.dst, k.xq, pidxOf k) ∈ (s.site i).asked)

/-- Whether an adapter accepts a packet of its partner. -/
def partnerMay (s : State) (i : Nat) (k : Packet) : Bool :=
  let f := (s.site i).func
  let e := ettEntry s k.dst
  let berth := decide (e % 4 = 2) || (decide (e % 4 = 1) && (decide (localUnit e < 5184) || decide (5313 ≤ localUnit e)))
  k.cls = 2 && match k.ty.toNat with
    | 0 => f.getLsbD 0 && berth
    | 1 => f.getLsbD 1 && berth
    | 4 => f.getLsbD 3 && berth
    | 2 | 3 | 6 | 10 => askedFor s i k
    | _ => false

/-- An ACK from an adapter to its partner. -/
def adapterAck (s : State) (i : Nat) (k : Packet) (st : Nat) : State :=
  toPartner s i (mkPkt 3 k.src (homeId s (siteUnit i)) (st + 256 * (pidxOf k).toNat) k.xq false [])

/-- PARTNER_PACKET: an admitted partner sends a packet: forwarded with the adapter's SRC, or refused. -/
def execPartnerPacket (i : Nat) (pkt : Packet) (s : State) : Out :=
  onUnit (decide (i < siteCount)) <|
    if siteState s i ≠ 3 then s
    else
      let u := siteUnit i
      let k := { pkt with src := homeId s u, dunit := 5 }
      if !partnerMay s i k then raiseSite (adapterAck s i k 2) i 5
      else
        let s1 := s.setSite i { s.site i with asked := without (k.dst, k.xq, pidxOf k) (s.site i).asked }
        let e := ettEntry s1 k.dst
        match e % 4 with
        | 1 => inject s1 u (localUnit e) (ettEpoch s1) k
        | 2 =>
          (match egress s1 e k.src k.dst k.xq with
            | some o => inject s1 u (portUnit o) (ettEpoch s1) { k with vcx := bitOf e 4 }
            | none => if wantsAnswer k then adapterAck (raiseFab s1 6 { unit := u }) i k 6 else s1)
        | _ => if wantsAnswer k then adapterAck (raiseFab s1 6 { unit := u }) i k 6 else s1

/-- PARTNER_LINK_DOWN: a partner's mainband goes down in service. -/
def execPartnerLinkDown (i : Nat) (s : State) : Out :=
  onUnit (decide (i < siteCount)) <| if siteState s i ≠ 3 then s else raiseSite (setSiteState s i 5) i 2

/-- MAINBAND_RETRAINED. -/
def execMainbandRetrained (i : Nat) (s : State) : Out :=
  onUnit (decide (i < siteCount)) <| if siteState s i ≠ 5 then s else raiseSite (setSiteState s i 3) i 4

/-- LANE_REPAIR. -/
def execLaneRepair (i : Nat) (s : State) : Out :=
  onUnit (decide (i < siteCount)) <| if siteState s i ≠ 3 then s else raiseSite s i 3

end Sys2Proof.Machine
end

