-- ==== Sys2Proof/Machine/Lost.lean ====
section
/-! DEFINITION. Loss of a stack or an LPDDR6 pair (13 R335), of a link die or a whole group (R336), and die-to-die links in service (11 R282 R285). -/

namespace Sys2Proof.Machine

open Sys2Proof

/-! ## A lost memory -/

/-- The next intact copy after copy i of a set, on a memory that serves. -/
def nextCopy (s : State) (t : RepSet) (sid : Nat) : Option Nat :=
  ((copiesOf t).map (·.2)).find? fun i =>
    let r := s.seg i
    decide (i ≠ sid) && r.st = 1 && !r.readOnly && !unreachable s (memUnit (memOf r.tierB r.mem))

/-- The record of a lost copy moves onto the place of an intact one: no data is copied, and the record
is read-only from then on. -/
def aliasCopy (s : State) (sid src : Nat) : State :=
  let r := s.seg sid
  let q := s.seg src
  startMove s sid { waiting := [], tierB := q.tierB, mem := q.mem, base := q.base, toState := 1, prio := r.prio, home := r.home,
                    asker := none, copied := true }

/-- Voyages that map a segment or own it. -/
def holdersOf (s : State) (sid : Nat) : List Nat :=
  let o := (s.seg sid).owner.toNat
  if (s.voyage o).isSome then addOnce o (mappers s sid) else mappers s sid

/-- A segment whose only data is lost: PENDING in another memory of its group, or of its tier, with its
voyages ended. -/
def loseSegment (s : State) (sid : Nat) : State :=
  let r := s.seg sid
  let m := memOf r.tierB r.mem
  let ok (k : Nat) : Bool := decide (k ≠ m) && !unreachable s (memUnit k)
  let grp := if r.tierB then [] else (stacksOf m).filter ok
  let all := (if r.tierB then (List.range 8).map (72 + ·) else List.range 72).filter ok
  let (s1, p0) := placeAmong s grp r.len
  let (s2, place) := match p0 with
    | some x => (s1, some x)
    | none => placeAmong s1 all r.len
  let s3 := dropTranslations s2 sid
  let s4 := match place with
    | some (k, b) => s3.updSeg sid fun r => { r with st := 4, mem := if r.tierB then k - 72 else k, base := b, move := none }
    | none => s3.updSeg sid fun r => { r with st := 4, move := none }
  let s5 := (holdersOf s4 sid).foldl (fun s v => voyageFaultBy s v 0xFF) s4
  raiseFw (logFw s5 0x07 3 { unit := memUnit m, data := BitVec.ofNat 256 sid }) fwDataLost { unit := memUnit m, data := BitVec.ofNat 256 sid }

/-- What happens to a segment of a lost memory. -/
def lostSegment (s : State) (sid : Nat) : State :=
  let r := s.seg sid
  match (match s.rset r.rsid.toNat with | some t => nextCopy s t sid | none => none) with
  | some src => aliasCopy s sid src
  | none => loseSegment s sid

/-- Moves into a lost memory find another place, or end where they began. -/
def retarget (s : State) (m : Nat) (sid : Nat) : State :=
  match (s.seg sid).move with
  | none => s
  | some v =>
    if memOf v.tierB v.mem ≠ m ∨ v.copied then s
    else
      let all := (if v.tierB then (List.range 8).map (72 + ·) else List.range 72).filter fun k => decide (k ≠ m) && !unreachable s (memUnit k)
      let (s1, place) := placeAmong s all (s.seg sid).len
      match place with
      | some (k, b) => s1.updSeg sid fun r => { r with move := some { v with mem := if v.tierB then k - 72 else k, base := b } }
      | none => finishOp (wakeUnits (s1.updSeg sid fun r => { r with st := 1, move := none }) sid) v.asker stNoResource 0 []

/-! ## Quay manifests of a lost engine -/

/-- The engine that takes over a voyage's manifest on engine m: that of an intact copy of a segment which the
voyage maps there. -/
def heirOf (s : State) (v : Voyage) (m : Nat) : Option Nat :=
  (v.img.segmap.filterMap fun e =>
    let sid := e.sid.toNat
    if memOf (s.seg sid).tierB (s.seg sid).mem ≠ m then none
    else match s.rset (s.seg sid).rsid.toNat with
      | some t => (nextCopy s t sid).map fun i => memOf (s.seg i).tierB (s.seg i).mem
      | none => none).head?

/-- A binding with engine m's place taken by engine n. -/
def moveBinding (m n : Nat) (b : Binding) : Binding :=
  let b1 := if b.dtype = 1 && decide (6 * b.da.toNat + b.db.toNat = m) then
    { b with da := BitVec.ofNat 8 (n / 6), db := BitVec.ofNat 8 (n % 6) } else b
  if m < 72 ∧ b1.qmask.getLsbD m then { b1 with qmask := (b1.qmask &&& ~~~(BitVec.ofNat 72 (2 ^ m))) ||| BitVec.ofNat 72 (2 ^ n) }
  else if 72 ≤ m ∧ b1.bmask.getLsbD (m - 72) then
    { b1 with bmask := (b1.bmask &&& ~~~(BitVec.ofNat 8 (2 ^ (m - 72)))) ||| BitVec.ofNat 8 (2 ^ (n - 72)) }
  else b1

/-- A voyage's context, manifest and bindings move from engine m to engine n. -/
def moveManifest (s : State) (vid m n : Nat) : State :=
  let id := BitVec.ofNat 16 vid
  let old := s.engine m
  let s1 := s.updEngine m fun e =>
    { e with ctxs := e.ctxs.filter (·.vid ≠ id), queue := e.queue.filter (·.vid ≠ id), running := e.running.filter (·.vid ≠ id)
             moors := e.moors.filter (·.vid ≠ id) }
  let s2 := s1.updEngine n fun e =>
    { e with ctxs := e.ctxs ++ old.ctxs.filter (·.vid = id), moors := e.moors ++ old.moors.filter (·.vid = id) }
  replant (s2.updVoyage vid fun v => { v with img := { v.img with
    quays := v.img.quays.map fun q => if q.mem = m then { q with mem := n } else q
    tags := v.img.tags.map (moveBinding m n) } }) vid

/-- Whether engine n can take a voyage's manifest from engine m. -/
def canInherit (s : State) (vid m n : Nat) (v : Voyage) : Bool :=
  decide ((m < 72) = (n < 72)) && (ctxOf (s.engine n) (BitVec.ofNat 16 vid)).isNone &&
  (v.img.quays.filter fun q => q.mem = m).all (fun q => quayFits s v.img { q with mem := n }) && treesFit (moveManifest s vid m n)

/-- A voyage with a manifest on a lost engine: the manifest moves and the voyage replays, or it is held. -/
def orphan (heirs : List (Nat × Option Nat)) (m : Nat) (s : State) (vid : Nat) : State :=
  match s.voyage vid with
  | none => s
  | some v =>
    if v.st = vEnded || (ctxOf (s.engine m) (BitVec.ofNat 16 vid)).isNone then s
    else
      let heir := match heirs.find? fun h => h.1 = vid with
        | some h => (match h.2 with | some n => if canInherit s vid m n v then some n else none | none => none)
        | none => none
      match heir with
      | some n => dueReplay (moveManifest s vid m n) (BitVec.ofNat 16 vid) 8
      | none =>
        if v.st = vRunning || v.st = vSaving then
          raiseFw (logFw (holdVoyage s vid stCapacityLost (engineBasin m) 0) 0x05 3 { vid := BitVec.ofNat 16 vid }) fwCapacityLost
            { vid := BitVec.ofNat 16 vid }
        else s

/-- A memory is lost: its engine is fenced, its segments and manifests are handled as 13 R335 says. -/
def loseMemory (s : State) (m : Nat) : State :=
  if (s.engine m).lost then s
  else
    let vids := s.voyages.map (·.1)
    let heirs := vids.map fun v => (v, match s.voyage v with | some y => heirOf s y m | none => none)
    let s1 := raiseFw (logFw (s.updEngine m fun e => { e with lost := true, memIn := [], cmds := [] }) 0x06 3 { unit := memUnit m })
      fwStackLost { unit := memUnit m }
    let s2 := ((s1.segs.map (·.1)).foldl (fun s i => retarget s m i) s1)
    let s3 := ((segsIn s2 m).map (·.1)).foldl lostSegment s2
    vids.foldl (orphan heirs m) s3

/-- STACK_LOST. -/
def execStackLost (m : Nat) (s : State) : Out := onUnit (decide (m < memCount)) (loseMemory s m)

/-! ## Groups (13 R336) -/

/-- A memory-interface group loses its power domain. -/
def loseMif (s : State) (g : Nat) : State :=
  ((List.range memCount).filter fun m => mifOf m = g).foldl loseMemory (setDomain s (56 + g) false)

/-- The ports of a link group. -/
def portsOfGroup (k : Nat) : List Nat := (List.range portCount).filter fun p => p / 2 % 8 = k

/-- A port of a lost link die or group. -/
def losePort (s : State) (p : Nat) : State := if hasLink s p then beginLoss s p pDown else s

/-- A link group loses its power domain. -/
def loseLinkGroup (s : State) (k : Nat) : State := (portsOfGroup k).foldl losePort (setDomain s (48 + k) false)

/-! ## Die-to-die links (11 R282 R284 R285) -/

/-- Width code of a link with `bad` wire groups or lanes beyond its spares: 0 full, 1 half, 2 quarter, 3
less. -/
def widthCode (serial : Bool) (bad : Nat) : Nat :=
  if serial then (if bad ≤ 4 then 0 else if bad ≤ 40 then 1 else if bad ≤ 58 then 2 else 3)
  else if bad ≤ 6 then 0 else if bad ≤ 74 then 1 else if bad ≤ 108 then 2 else 3

/-- The unit at the far end of a link below quarter width is handled as failed: of a mesh link the die at its east or south end, since the spec does not
say from which end the far one is meant; of an attachment the unit attached (DESIGN CHOICE, log entry 50). -/
def loseFarEnd (s : State) (link : Nat) : State :=
  if link < 6 * coreCount then
    let r := link / 6
    let n := if link % 6 = 3 then r + 1 else r + 72
    failDie s (coreY n / 6) (coreX n / 6)
  else
    let u := link - 6 * coreCount
    if u < 5264 then loseMemory s (u - 5184)
    else if u < 5312 then losePort (losePort s (u - 5264 - (u - 5264) % 2)) (u - 5264 - (u - 5264) % 2 + 1)
    else if 5313 ≤ u ∧ siteState s (u - 5313) = 3 then raiseSite (setSiteState s (u - 5313) 5) (u - 5313) 2
    else s

/-- A link has tested its wires and found more bad ones. -/
def linkTested (s : State) (link bad : Nat) : State :=
  let total := look 0 s.fabric.linkBad link + bad
  let old := look 0 s.fabric.linkWidth link
  let now := max old (widthCode (linkSerial s link) total)
  let s1 := { s with fabric := { s.fabric with
    linkBad := put 0 s.fabric.linkBad link total, linkWidth := put 0 s.fabric.linkWidth link now
    linkRetries := put 0 s.fabric.linkRetries link 0 } }
  let unit := if link < 6 * coreCount then link / 6 else link - 6 * coreCount
  if old < now then
    let s2 := republish (raiseFab s1 8 { unit := unit })
    if now = 3 then loseFarEnd s2 link else s2
  else if bad ≠ 0 then logFw s1 0x0C 1 { unit := unit }
  else s1

/-- D2D_RETRY: a flit whose CRC failed is sent again; after 4 failed retries the link tests its wires. -/
def execD2dRetry (link : Nat) (good : Bool) (badWires : Nat) (s : State) : Out :=
  onUnit (linkOk link) <|
    let n := look 0 s.fabric.linkRetries link + 1
    let set (k : Nat) : State := { s with fabric := { s.fabric with linkRetries := put 0 s.fabric.linkRetries link k } }
    if good then set 0 else if n < 4 then set n else linkTested s link badWires

end Sys2Proof.Machine
end

