-- ==== Sys2Proof/Machine/Power.lean ====
section
/-! DEFINITION. Input and bus conversion, phases, droop, basin supplies, clock references, operating points (12 R291 to R308), and the start of an emergency (R317). -/

namespace Sys2Proof.Machine

open Sys2Proof

/-- An EMERGENCY event (10 Table 10-18, 12 Table 12-7). -/
def emergencyEvent (s : State) (cause : Nat) : State := event s 0x0C none stOk cause 0

/-! ## Registers of the PWR block -/

def opReqOff : Nat := pwrBase + 0x10
def opStatusOff : Nat := pwrBase + 0x14
def opTickOff : Nat := pwrBase + 0x18
def pwrInputOff : Nat := pwrBase + 0x20
def panelPowerOff : Nat := pwrBase + 0x24
def pwrCapOff : Nat := pwrBase + 0x28

/-- CUR, NEXT, PENDING, STORM, LIMIT and EMERGENCY of PWR_OP_STATUS. -/
def opNext (s : State) : Nat := getField s opStatusOff 3 3
def opPending (s : State) : Bool := getField s opStatusOff 6 1 = 1
def stormOn (s : State) : Bool := getField s opStatusOff 7 1 = 1
def opLimit (s : State) : Nat := getField s opStatusOff 8 3

/-- Input in mV, panel power in W, cap in W. -/
def inputMv (s : State) : Nat := getField s pwrInputOff 0 16
def panelPower (s : State) : Nat := (reg s panelPowerOff).toNat
def capW (s : State) : Nat := 10 * getField s pwrCapOff 0 16

/-! ## Scheduled changes (12 R305 R307) -/

/-- A change to point `op` is scheduled, at least 2,048 ticks ahead; the tick is the harbour master's choice
(log entry 1). -/
def scheduleOp (s : State) (op : Nat) : State :=
  let (s1, f) := drawFree s
  let s2 := setReg64 s1 opTickOff (BitVec.ofNat 64 (s.tide.toNat + 2048 + f.toNat % 2 ^ 32))
  let s3 := putField (putField s2 opStatusOff 3 3 op) opStatusOff 6 1 1
  { s3 with power := { s3.power with pendingOp := some op } }

/-- The storm point is armed with a lead of 64 ticks: a later change is cancelled, one within the lead
completes first. -/
def armStorm (s : State) : State :=
  if s.power.stormTick.isSome || stormOn s then s
  else
    let t := s.tide.toNat
    let arm (s : State) (k : Nat) : State := { s with power := { s.power with stormTick := some k } }
    match s.power.holding with
    | some h => arm s (h + 16 + 64)
    | none =>
      match s.power.pendingOp with
      | none => arm s (t + 64)
      | some _ =>
        let due := (reg64 s opTickOff).toNat
        if t + 64 < due then
          let s1 := putField (putField s opStatusOff 3 3 (opNow s)) opStatusOff 6 1 0
          arm { s1 with power := { s1.power with pendingOp := none } } (t + 64)
        else arm s (due + 16 + 64)

/-- OP_CHANGE_HOLD: at T_op every basin holds its clocks. -/
def execOpChangeHold (s : State) : Out :=
  .next <|
    match s.power.pendingOp, s.power.holding with
    | some _, none =>
      if s.tide.toNat < (reg64 s opTickOff).toNat then s else { s with power := { s.power with holding := some s.tide.toNat } }
    | _, _ => s

/-- STORM_ENTRY: at the armed tick every basin holds its clocks for the storm path. -/
def execStormEntry (s : State) : Out :=
  .next <|
    match s.power.stormTick with
    | none => s
    | some t =>
      if s.tide.toNat < t || s.power.holding.isSome || s.power.pendingOp.isSome then s
      else
        let s1 := putField (putField (setReg64 s opTickOff (BitVec.ofNat 64 t)) opStatusOff 3 3 7) opStatusOff 6 1 1
        { s1 with power := { s1.power with pendingOp := some 7, holding := some s.tide.toNat } }

/-- OP_CHANGED: the relock hold of 16 ticks ends and the basins run at the new point. The storm point is
applied when it was the armed one. -/
def execOpChanged (s : State) : Out :=
  .next <|
    match s.power.holding, s.power.pendingOp with
    | some h, some op =>
      if s.tide.toNat < h + 16 then s
      else
        let storm := op = 7 && (match s.power.stormTick with | some t => decide (t ≤ h) | none => false)
        let s1 := putField (putField s opStatusOff 0 3 op) opStatusOff 6 1 0
        let s2 := { s1 with power := { s1.power with pendingOp := none, holding := none } }
        let s3 := if storm then
            { putField s2 opStatusOff 7 1 1 with
              power := { s2.power with stormTick := none }, thermal := { s2.thermal with stormAt := some s.tide.toNat } }
          else s2
        raisePwr s3 7
    | _, _ => s

/-- PWR_OP_REQ_WRITE: the driver's ceiling is stored; the next evaluation applies it. -/
def execPwrOpReqWrite (v : BitVec 32) (s : State) : Out := .next (putField s opReqOff 0 3 v.toNat)

/-! ## The emergency (12 R317) -/

/-- Every running voyage is given a soft pre-emption with a deadline of 500 us that escalates. -/
def emergencySave (s : State) : State :=
  (s.voyages.map (·.1)).foldl (fun s i => s.updVoyage i fun v =>
    if v.st = vRunning then
      { v with st := vSaving
               preempt := some { asker := none, hard := false, esc := true, deadline := some (s.tide.toNat + 125000) } }
    else v) s

/-- An emergency starts; a second cause within one is only recorded. -/
def startEmergency (s : State) (cause : Nat) : State :=
  match s.thermal.emergency with
  | some c => if c = cause then s else emergencyEvent s cause
  | none =>
    let s1 := putField (armStorm { s with thermal := { s.thermal with emergency := some cause } }) opStatusOff 11 1 1
    let s2 := setReg s1 (thmBase + 0x20) 900
    emergencySave (emergencyEvent (raiseThm s2 10) cause)

/-! ## Input (12 R291) -/

/-- The band of Table 12-1: 0 normal, 1 the current limit, 2 below 38.0 V, 3 below 36.0 V, 4 above 48.0 V,
5 above 52.0 V. -/
def inputBand (mv : Nat) : Nat :=
  if mv < 36000 then 3 else if mv < 38000 then 2 else if mv < 40000 then 1
  else if mv ≤ 48000 then 0 else if mv ≤ 52000 then 4 else 5

/-- The lighthouse closes its logs (13 R349): the newest 4,096 records of severity 3 and 4 are kept. -/
def closeLogs (s : State) : State :=
  let l := s.log.recs.filter fun r => decide (3 ≤ r.sev.toNat)
  { s with log := { s.log with saved := l.drop (l.length - 4096) } }

/-- The switched domains lose the input: basins with their Tier S, ports and groups; the memories enter self-refresh. -/
def powerDown (s : State) : State :=
  let s1 := (List.range memCount).foldl (fun s m => s.updEngine m fun e => { e with selfRefresh := true }) (closeLogs s)
  let s2 := ((List.range basinCount).filter fun b => !isDark s b).foldl darken s1
  let s3 := (List.range 8).foldl loseLinkGroup s2
  { setReg64 s3 (pwrBase + 0x30) 0 with power := { s3.power with off := true } }

/-- INPUT_VOLTAGE_CHANGE: the input enters a band of Table 12-1. -/
def execInputVoltageChange (mv : Nat) (s : State) : Out :=
  .next <|
    let b := inputBand mv
    let s1 := putField s pwrInputOff 0 16 (min 65535 mv)
    if b = s.power.inputMode then s1
    else
      let s2 := { s1 with power := { s1.power with inputMode := b } }
      match b with
      | 0 => s2
      | 1 => raisePwr s2 5
      | 2 => startEmergency (raisePwr s2 5) 5
      | 3 => powerDown (raisePwr s2 5)
      | 4 => raisePwr s2 6
      | _ => powerDown (raisePwr s2 6)

/-! ## Bus converters and the cap (12 R292 R293 R316) -/

/-- The module power limit in W. -/
def moduleLimit (s : State) : Nat :=
  min 36000 (4 * ((List.range 4).map fun q => 900 * (12 - look 0 s.power.convFailed q)).foldl min 10800)

/-- Inlet temperature, THM_COOLANT.INLET. -/
def inletTemp (s : State) : Int := (BitVec.ofNat 16 (getField s (thmBase + 0x10) 0 16)).toInt

/-- THM_RTH.RTH. -/
def rthNow (s : State) : Nat := getField s (thmBase + 0x28) 0 24

/-- The power cap in W. Fractions are dropped. -/
def capFor (s : State) : Nat :=
  let top := min (moduleLimit s) (900 * inputMv s / 1000)
  let d := (9500 - inletTemp s).toNat
  if rthNow s = 0 then top else min top (d * 10000 / rthNow s)

/-- PWR_CAP. -/
def setCap (s : State) : State := putField (putField s pwrCapOff 0 16 (capFor s / 10)) pwrCapOff 16 1 (1 - getField s (thmBase + 0x28) 24 1)

/-- CAP_RECOMPUTE. -/
def execCapRecompute (s : State) : Out := .next (setCap s)

/-- CONV_FAIL: a converter of a quadrant fails; the limit and the cap follow. -/
def execConvFail (q : Nat) (s : State) : Out :=
  onUnit (decide (q < 4)) <|
    setCap (raisePwr { s with power := { s.power with
      convFailed := put 0 s.power.convFailed q (min 12 (look 0 s.power.convFailed q + 1)) } } 3)

/-! ## Phases and droop (12 R295 to R298 R308) -/

/-- The compute die in place j, from the west, of basin b: its row and logical column. -/
def dieInBasin (s : State) (b j : Nat) : Option (Nat × Nat) :=
  let w := westDies s (b / 2)
  let ld := if b % 2 = 0 then j else w + j
  if (if b % 2 = 0 then j < w else ld < 12) then some (b / 2, ld) else none

/-- PHASE_FAIL: a phase of the logic rail of die j of basin b fails. -/
def execPhaseFail (b j : Nat) (s : State) : Out :=
  onUnit (decide (b < basinCount) && (dieInBasin s b j).isSome) <|
    let s1 := raisePwr (countField s (pwrBase + 0x80 + 4 * b) 0 8 1) 0
    let n := look 0 s.power.phaseDie (7 * b + j) + 1
    let s2 := { s1 with power := { s1.power with phaseDie := put 0 s1.power.phaseDie (7 * b + j) n } }
    let s3 := if getField s2 (pwrBase + 0x80 + 4 * b) 0 8 = 2 && decide (b ∉ s.power.limited) then
        emergencyEvent (raisePwr { s2 with power := { s2.power with limited := s2.power.limited ++ [b] } } 1) 4
      else s2
    match dieInBasin s b j with
    | some (row, ld) => if n = 3 then failDie (raisePwr s3 2) row ld else s3
    | none => s3

/-- DROOP: `stretched` periods of the basin are due to stretch where the breakwater does not absorb it. Once 10 s of
activity have passed the margin is learned: 10 to 30 mV (log entry 1). -/
def execDroop (b : Nat) (absorbed : Bool) (stretched : Nat) (s : State) : Out :=
  onUnit (decide (b < basinCount)) <|
    let (s1, f) := drawFree s
    let s2 := if f.getLsbD 0 then { s1 with power := { s1.power with margin := put 0 s1.power.margin b (10 + f.toNat / 2 % 21) } } else s1
    if absorbed then s2
    else { s2 with power := { s2.power with stretchDue := upd 0 s2.power.stretchDue b (· + stretched) } }

/-- One operating point slower is due. -/
def dueSlower (s : State) (n : Nat) : State := { s with power := { s.power with slower := min 7 (s.power.slower + n) } }

/-- STRETCH_SUSTAINED. -/
def execStretchSustained (b : Nat) (s : State) : Out :=
  onUnit (decide (b < basinCount)) (dueSlower (raiseClk s 5) 1)

/-! ## Basin supplies (12 R299 R303) -/

/-- BASIN_SHORT: a basin's e-fuse opens. -/
def execBasinShort (b : Nat) (s : State) : Out :=
  onUnit (decide (b < basinCount)) <|
    if b ∈ s.power.efuseOpen then s
    else
      let s1 := raisePwr { s with power := { s.power with efuseOpen := s.power.efuseOpen ++ [b] } } 4
      basinDark (emergencyEvent s1 3) b

/-- PLL_UNLOCK: a basin's PLL loses lock. -/
def execPllUnlock (b : Nat) (s : State) : Out :=
  onUnit (decide (b < basinCount)) <|
    basinDark (emergencyEvent (raiseClk (putField s (clkBase + 8) (4 + b) 1 1) 4) 7) b

/-! ## Clock references (12 R301 R302) -/

def clkStatusOff : Nat := clkBase + 8

/-- A_VALID or B_VALID of CLK_STATUS. -/
def refValid (s : State) (isB : Bool) : Bool := getField s clkStatusOff (2 + b2n isB) 1 = 1

/-- REF_LOST: the master PLL switches to the other reference if that one is valid. -/
def execRefLost (isB : Bool) (s : State) : Out :=
  .next <|
    let s1 := raiseClk (putField s clkStatusOff (2 + b2n isB) 1 0) (b2n isB)
    if getField s clkStatusOff 0 2 = b2n isB && refValid s (!isB) then putField s1 clkStatusOff 0 2 (b2n (!isB)) else s1

/-- REF_RESTORED: the reference is the standby, or the source after a holdover. -/
def execRefRestored (isB : Bool) (s : State) : Out :=
  .next <|
    let s1 := raiseClk (putField s clkStatusOff (2 + b2n isB) 1 1) 3
    if getField s clkStatusOff 0 2 = 2 then putField s1 clkStatusOff 0 2 (b2n isB) else s1

/-- HOLDOVER: neither reference is valid. -/
def execHoldover (s : State) : Out :=
  .next <|
    if refValid s false || refValid s true || decide (getField s clkStatusOff 0 2 = 2) then s
    else emergencyEvent (raiseClk (putField s clkStatusOff 0 2 2) 2) 6

/-! ## Voltages (12 R294 R298 R304) -/

/-- VDD_LOGIC of an operating point before the margin, in mV (12 Table 12-4). -/
def pointMv (op : Nat) : Nat := [850, 810, 770, 730, 690, 660, 620, 600].getD op 600

/-- The droop margin of a basin in mV: 30 until one is learned (12 R320). -/
def marginMv (s : State) (b : Nat) : Nat := match look 0 s.power.margin b with | 0 => 30 | m => m

/-- Whether switched domain d is powered. -/
def domainOn (s : State) (d : Nat) : Bool := (reg64 s (pwrBase + 0x30)).getLsbD d

/-- The setpoint of VDD_LOGIC of basin b in mV, 0 while it is off. -/
def logicMv (s : State) (b : Nat) : Nat := if domainOn s b then pointMv (opNow s) + marginMv s b else 0

/-- VDD_ARRAY of basin b in mV: at 500 it retains Tier S in I2, 0 while it is off. -/
def arrayMv (s : State) (b : Nat) : Nat := if !domainOn s (24 + b) then 0 else if s.hm.idle.state = 2 then 500 else 700

/-! ## The evaluation of every ms (12 R295 R306) -/

/-- PWR_PANEL_POWER, the input current and the powers of the domains in mW, as the regulators' reports sum up. -/
def measurePower (s : State) (w : Nat) (mw : List Nat) : State :=
  let s1 := setReg s panelPowerOff (BitVec.ofNat 32 w)
  let s2 := putField s1 pwrInputOff 16 16 (if inputMv s = 0 then 0 else min 65535 (10000 * w / inputMv s))
  (List.range 64).foldl (fun s d => setReg s (pwrBase + 0x100 + 4 * d) (BitVec.ofNat 32 (mw.getD d 0))) s2

/-- A point of the driver's ceiling and the limit that the rules allow. -/
def opTarget (s : State) : Nat := max (getField s opReqOff 0 3) (opLimit s)

/-- A target other than the running point is scheduled. -/
def toTarget (s : State) : State := if opTarget s = opNow s then s else scheduleOp s (opTarget s)

/-- OP_EVALUATE: the lighthouse weighs ceiling, cap and thermal rules. `ov` are the basins over 95 % of a
limit of R296, `mw` the powers of the domains. It waits for bring-up, for a pending change and for the end of a storm. -/
def execOpEvaluate (w : Nat) (ov mw : List Nat) (s : State) : Out :=
  .next <|
    let s1 := measurePower s w mw
    let n := s.power.slower + b2n (decide (capW s < w)) + b2n (s.power.limited.any (· ∈ ov))
    let low := decide (10 * w ≤ 9 * capW s)
    let since := if low then some (s.power.belowSince.getD s.tide.toNat) else none
    let s2 := { s1 with power := { s1.power with belowSince := since } }
    if stage s < 9 || opPending s || s.power.stormTick.isSome || stormOn s then s2
    else if 0 < n then
      let lim := max (opNow s) (opLimit s)
      let s3 := putField { s2 with power := { s2.power with slower := 0, belowSince := none } } opStatusOff 8 3 (min 7 (lim + n))
      if lim = 7 && decide (capW s < w) then raisePwr s3 8 else toTarget s3
    else
      let quiet := match since with
        | some t => decide (t + 25000000 ≤ s.tide.toNat) && s.thermal.hotSince.isNone
        | none => false
      if quiet && decide (0 < opLimit s) then
        toTarget (putField { s2 with power := { s2.power with belowSince := some s.tide.toNat } } opStatusOff 8 3 (opLimit s - 1))
      else toTarget s2

end Sys2Proof.Machine
end

