-- ==== Sys2Proof/Machine/Thermal.lean ====
section
/-! DEFINITION. Temperature sensors and junction limits (12 R309 to R311), coolant, thermal resistance (R312 to R315), and the coolant emergency's later steps (R317 R318). -/

namespace Sys2Proof.Machine

open Sys2Proof

/-! ## Hot spots (12 R309)

Numbers of the model's own: 6 (13 row + column) + core row for the 936 of the compute sites, then two for each GX-Q die,
two for each GX-L die, one for each GX-B die, two for the GX-H die, one for the lighthouse. -/

def spotCount : Nat := 1139

/-- A hot spot of a spared site, which is not read. -/
def spotSpared (s : State) (i : Nat) : Bool := decide (i < 936) && decide (i / 6 % 13 = spareSite s (i / 78))

/-- A hot spot of an active GX-C die. -/
def spotCompute (s : State) (i : Nat) : Bool := decide (i < 936) && !spotSpared s i

/-- The unit of a hot spot's die. -/
def spotUnit (s : State) (i : Nat) : Nat :=
  if i < 936 then 72 * (6 * (i / 78) + i % 6) + 6 * ldOf s (i / 78) (i / 6 % 13)
  else if i < 1080 then memUnit ((i - 936) / 2)
  else if i < 1128 then portUnit (2 * ((i - 1080) / 2))
  else if i < 1136 then memUnit (72 + (i - 1128))
  else if i < 1138 then harbourUnit
  else panelUnit

/-- Hot spots that share an edge with hot spot i on its die. -/
def spotNeighbours (i : Nat) : List Nat :=
  if i < 936 then (if i % 6 = 0 then [] else [i - 1]) ++ (if i % 6 = 5 then [] else [i + 1])
  else if i < 1128 then [if i % 2 = 0 then i + 1 else i - 1]
  else if i = 1136 then [1137]
  else if i = 1137 then [1136]
  else []

def sensor (s : State) (k : Nat) : Sensor := look {} s.thermal.sensors k

def updSensor (s : State) (k : Nat) (g : Sensor → Sensor) : State :=
  { s with thermal := { s.thermal with sensors := put {} s.thermal.sensors k (g (sensor s k)) } }

/-- A signed value of 16 bits from a free value. -/
def drawInt16 (s : State) : State × Int := let (t, f) := drawFree s; (t, (f.setWidth 16).toInt)

/-- The neighbour estimate of 12 R310 from the readings of 1 ms ago. Which hot spots of adjacent dies are
nearest to a single one is not stated (log entry 1). -/
def estimate (s : State) (i : Nat) : State × Int :=
  match spotNeighbours i with
  | [] => drawInt16 s
  | l => (s, (l.map fun j => look 0 s.thermal.prev j).foldl (· + ·) 0 / (l.length : Int) + 200)

/-- SENSOR_SAMPLE: a sensor of a hot spot is sampled. -/
def execSensorSample (spot : Nat) (ring : Bool) (temp : Int) (s : State) : Out :=
  onUnit (decide (spot < spotCount)) <|
    if spotSpared s spot then s
    else
      let k := 2 * spot + b2n ring
      let o := sensor s (2 * spot + b2n (!ring))
      updSensor s k fun t =>
        let t1 := { t with sum := t.sum + temp, n := t.n + 1 }
        if t.last = temp then t1 else { t1 with last := temp, changed := s.tide.toNat, partner := o.last }

/-- The average of the last 1 ms. -/
def average (t : Sensor) : Sensor := if t.n = 0 then t else { t with avg := t.sum / (t.n : Int), sum := 0, n := 0 }

/-- A code unchanged for 100 ms while the partner has moved by 1 degree or more. -/
def stuck (s : State) (k : Nat) : Bool :=
  let t := sensor s k
  let o := sensor s (if k % 2 = 0 then k + 1 else k - 1)
  decide (t.changed + 25000000 ≤ s.tide.toNat) && decide (100 ≤ (o.last - t.partner).natAbs)

/-- A sensor is marked bad, which the lighthouse logs. -/
def markBad (s : State) (k : Nat) : State :=
  let info : LogInfo := { unit := spotUnit s (k / 2), data := BitVec.ofNat 256 k }
  raiseThm (logFw (updSensor s k fun t => { t with bad := true }) 0x0E 1 info) 1 info

/-- Two readings at most 15 degrees apart. -/
def pairReading (s : State) (i : Nat) (a b : Int) : State × Int :=
  if (a - b).natAbs ≤ 400 then (s, (a + b) / 2) else (raiseThm s 0 { unit := spotUnit s i }, max a b)

/-- The good sensor k of a pair beside the estimate. -/
def goodReading (s : State) (k : Nat) (est : Int) : State × Int :=
  if 1500 < ((sensor s k).avg - est).natAbs then (markBad s k, est) else pairReading s (k / 2) (sensor s k).avg est

/-- The suspect of a hot spot's two sensors: the stuck one, else the one farther from the estimate; the spec
does not say which of two equally far (log entry 1). -/
def suspectSensor (s : State) (i : Nat) (est : Int) : State × Nat :=
  let d := ((sensor s (2 * i)).avg - est).natAbs
  let r := ((sensor s (2 * i + 1)).avg - est).natAbs
  if stuck s (2 * i) && !stuck s (2 * i + 1) then (s, 2 * i)
  else if stuck s (2 * i + 1) && !stuck s (2 * i) then (s, 2 * i + 1)
  else if d = r then let (t, f) := drawFree s; (t, 2 * i + b2n (f.getLsbD 0))
  else (s, if r < d then 2 * i else 2 * i + 1)

/-- The controlling reading of a hot spot (12 R310). -/
def spotReading (s : State) (i : Nat) : State × Int :=
  let (s0, est) := estimate s i
  let a := sensor s0 (2 * i)
  let b := sensor s0 (2 * i + 1)
  match a.bad, b.bad with
  | true, true => (s0, est)
  | false, true => goodReading s0 (2 * i) est
  | true, false => goodReading s0 (2 * i + 1) est
  | false, false =>
    if 1500 < (a.avg - b.avg).natAbs || stuck s0 (2 * i) || stuck s0 (2 * i + 1) then
      let (s1, k) := suspectSensor s0 i est
      goodReading (markBad s1 k) (if k % 2 = 0 then k + 1 else k - 1) est
    else pairReading s0 i a.avg b.avg

/-- Hot spots with a sensor that has been sampled. -/
def spotsRead (s : State) : List Nat :=
  (s.thermal.sensors.foldl (fun l p => addOnce (p.1 / 2) l) []).filter fun i => !spotSpared s i

/-- The readings of this 1 ms. -/
def readSpots (s : State) : State :=
  let s1 := { s with thermal := { s.thermal with
    sensors := s.thermal.sensors.map fun p => (p.1, average p.2), prev := s.thermal.ctrl } }
  (spotsRead s1).foldl (fun s i =>
    let (t, x) := spotReading s i
    { t with thermal := { t.thermal with ctrl := put 0 t.thermal.ctrl i x } }) s1

/-! ## Junction limits (12 R311) -/

def thmDemandOff : Nat := thmBase + 0x20

/-- The hottest controlling reading, if there is one. -/
def hottest (s : State) : Option Int :=
  match s.thermal.ctrl.map (·.2) with
  | [] => none
  | x :: l => some (l.foldl max x)

/-- Whether some controlling reading is at or above x. -/
def anyAbove (s : State) (x : Int) : Bool := s.thermal.ctrl.any fun p => decide (x ≤ p.2)

/-- A stack above 95 degrees, which counts as a junction above 100. -/
def stackHot (s : State) : Bool := s.engines.any fun p => decide (p.1 < 72) && decide (9500 < p.2.temp)

/-- THM_TJ. -/
def noteTj (s : State) : State :=
  let l := (s.thermal.ctrl.filter fun p => spotCompute s p.1).map (·.2)
  let mean : Int := if l = [] then 0 else l.foldl (· + ·) 0 / (l.length : Int)
  setReg s (thmBase + 0x30) (BitVec.ofInt 16 mean ++ BitVec.ofInt 16 ((hottest s).getD 0))

/-- A reading at or above 110 degrees trips the domain of the hot spot's die. -/
def trip (s : State) (i : Nat) : State :=
  let u := spotUnit s i
  let s1 := raiseThm s 3 { unit := u }
  if i < 936 then (if isDark s (basinOf s u) then s1 else basinDark (emergencyEvent s1 2) (basinOf s u))
  else if i < 1080 ∨ (1128 ≤ i ∧ i < 1136) then loseMif s1 (mifOf (u - coreCount))
  else if i < 1128 then loseLinkGroup s1 ((u - 5264) / 2 % 8)
  else s1

/-- Steps slower for a junction at the limit: one, and one more for every 2,048 ticks at or above 98. -/
def hotSteps (s : State) : State :=
  let high := anyAbove s 10000 || stackHot s
  let s1 := if high then setReg (raiseThm s 2) thmDemandOff 900 else s
  let t := s.tide.toNat
  match s.thermal.hotSince with
  | none =>
    if high then dueSlower { s1 with thermal := { s1.thermal with hotSince := some t } } 1 else s1
  | some h =>
    if high || anyAbove s 9800 then
      let k := (t - h) / 2048
      dueSlower { s1 with thermal := { s1.thermal with hotSince := some (h + 2048 * k) } } k
    else { s1 with thermal := { s1.thermal with hotSince := none } }

/-- Hot spots whose reading rose by more than 2 degrees in the 1 ms. A hot spot with a bad sensor takes no part. -/
def rising (s : State) : List Nat :=
  ((s.thermal.ctrl.filter fun p =>
    (s.thermal.prev.any fun q => q.1 = p.1) && decide (200 < p.2 - look 0 s.thermal.prev p.1) &&
    !(sensor s (2 * p.1)).bad && !(sensor s (2 * p.1 + 1)).bad)).map (·.1)

/-- The junction rules on the readings of this 1 ms. -/
def junctionRules (s : State) : State :=
  let s1 := hotSteps (noteTj s)
  let s2 := if anyAbove s 9500 then setReg s1 thmDemandOff 900 else s1
  let s3 := ((s.thermal.ctrl.filter fun p => decide (11000 ≤ p.2)).map (·.1)).foldl trip s2
  let s4 := if anyAbove s 10500 && s3.thermal.emergency.isNone then startEmergency s3 9 else s3
  if 3 ≤ (rising s).length then startEmergency (raiseThm s4 4) 1 else s4

/-- THERMAL_READING: every 1 ms the readings are formed, compared and judged. -/
def execThermalReading (s : State) : Out := .next (junctionRules (readSpots s))

/-! ## Coolant (12 R312 R313) -/

/-- A PT1000 sensor that works. -/
def ptGood (x : Int) : Bool := decide (-2000 ≤ x) && decide (x ≤ 12000)

/-- The temperature of a pair and whether it disagrees; none where both have failed. -/
def ptPair (a b : Int) : Option Int × Bool :=
  match ptGood a, ptGood b with
  | true, true => (some (max a b), decide (100 < (a - b).natAbs))
  | true, false => (some a, false)
  | false, true => (some b, false)
  | false, false => (none, false)

/-- THM_DEMAND in 0.1 %: 10 % and 80 % of the demand that holds the target difference at the panel power, to the
nearest step. -/
def demandFor (s : State) : Nat :=
  let den := 41716 * getField s (thmBase + 0x24) 0 8
  if s.thermal.emergency.isSome || anyAbove s 9500 || stackHot s || decide (den = 0) then 900
  else
    let need := 6000 * panelPower s
    min 900 (100 + (2 * 16 * (need - 70 * den) + den) / (2 * den))

/-- COOLANT_READ: every 10 ms. With both outlet sensors failed the outlet is not stated (log entry 1). -/
def execCoolantRead (o : CoolantObs) (s : State) : Out :=
  .next <|
    let (inl, d1) := ptPair o.inA o.inB
    let (outl, d2) := ptPair o.outA o.outB
    let (s1, f) := drawInt16 s
    let inlet := inl.getD 4000
    let flow := min 65535 (600 * o.pulses / max 1 (getField s (thmBase + 0x1C) 0 16))
    let s2 := setReg s1 (thmBase + 0x10) (BitVec.ofInt 16 (outl.getD f) ++ BitVec.ofInt 16 inlet)
    let s3 := setReg s2 (thmBase + 0x18) (BitVec.ofNat 32 flow)
    let s4 := if d1 || d2 || inl.isNone then raiseThm s3 8 else s3
    let s5 := if inlet < 1800 ∨ 4000 < inlet then raiseThm s4 7 else s4
    let s6 := if flow < 700 then raiseThm s5 6 else s5
    let s7 := { s6 with
      thermal := { s6.thermal with flowSince := if flow < 700 then none else some (s.thermal.flowSince.getD s.tide.toNat) }
      bring := { s6.bring with flowProven := s6.bring.flowProven || decide (700 ≤ flow) } }
    setReg s7 thmDemandOff (BitVec.ofNat 32 (demandFor s7))

/-! ## Thermal resistance (12 R314 R315) -/

/-- THM_RTH. -/
def thmRthOff : Nat := thmBase + 0x28

/-- The quotient of this second in 10^-6 K/W. -/
def rthQuotient (s : State) : Nat :=
  let mean : Int := (BitVec.ofNat 16 (getField s (thmBase + 0x30) 16 16)).toInt
  ((mean - inletTemp s) * 10000 / (panelPower s : Int)).toNat

/-- RTH_UPDATE: every second. The filter's law is not stated beyond its time constant: the value lies
between the last one and the quotient (log entry 1). -/
def execRthUpdate (s : State) : Out :=
  .next <|
    if panelPower s < 7200 then s
    else
      let (s1, f) := drawFree s
      let old := if s.thermal.loadSecs = 0 then 2500 else s.thermal.rthQ
      let q := rthQuotient s
      let lo := min old q
      let v := lo + f.toNat % (max old q - lo + 1)
      let n := s.thermal.loadSecs + 1
      let s2 := { s1 with thermal := { s1.thermal with rthQ := v, loadSecs := n } }
      if n < 10 then s2
      else
        let s3 := putField (putField s2 thmRthOff 0 24 (min (2 ^ 24 - 1) v)) thmRthOff 24 1 1
        if n = 10 then raiseThm s3 9 else s3

/-! ## The coolant emergency (12 R317 R318) -/

/-- FLOW_ABSENT: no pulse of the flowmeter for 50 ms. -/
def execFlowAbsent (s : State) : Out :=
  .next (startEmergency (raiseThm { s with thermal := { s.thermal with flowSince := none } } 5) 1)

/-- Basin b's array domain is powered off and its cores are cut off; its routers forward. -/
def basinCut (s : State) (b : Nat) : State :=
  let s1 := (coresOfBasin s b).foldl (fun s c => s.updCore c fun k =>
    let d := darkCore k
    { d with misc := { d.misc with switchOff := true } }) s
  setDomain s1 (24 + b) false

/-- Voyages whose save is not complete. -/
def unsaved (s : State) : List Nat :=
  (s.voyages.filter fun p => match p.2 with
    | some v => decide (v.st = vRunning) || decide (v.st = vSaving) || decide (v.st = vHeld)
    | none => false).map (·.1)

/-- EMERGENCY_COMPUTE_OFF. -/
def execEmergencyComputeOff (s : State) : Out :=
  .next <|
    match s.thermal.emergency, s.thermal.stormAt with
    | some _, some t =>
      if s.tide.toNat < t + 250000 || !anyAbove s 10500 || s.thermal.computeOff then s
      else
        let s1 := (unsaved s).foldl (fun s v => voyageFaultBy s v 0xFF) (emergencyEvent s 8)
        let lit := (List.range basinCount).filter fun b => !isDark s b
        let s2 := lit.foldl (if transitAny s then basinCut else darken) s1
        { s2 with thermal := { s2.thermal with computeOff := true, offBasins := lit } }
    | _, _ => s

/-- A basin's compute domains are powered on again, Tier S zero. -/
def basinOn (s : State) (b : Nat) : State :=
  let s1 := { s with power := { s.power with dark := without b s.power.dark } }
  let s2 := (coresOfBasin s b).foldl (fun s c => s.updCore c fun k =>
    { k with tierS := [], misc := { k.misc with switchOff := false } }) s1
  setDomain (setDomain s2 b true) (24 + b) true

/-- EMERGENCY_CLEAR: flow has been 70 L/min or more for 1 s and every junction reads below 70 degrees. It waits for
a storm entry under way and, after an input below 38.0 V, for the input. -/
def execEmergencyClear (s : State) : Out :=
  .next <|
    let flows := match s.thermal.flowSince with
      | some t => decide (t + 250000000 ≤ s.tide.toNat)
      | none => false
    if s.thermal.emergency.isNone || !flows || anyAbove s 7000 || s.power.stormTick.isSome || s.power.holding.isSome ||
        s.power.inputMode = 2 || s.power.inputMode = 3 then s
    else
      let s1 := s.thermal.offBasins.foldl basinOn s
      let s2 := { s1 with thermal := { s1.thermal with emergency := none, stormAt := none, computeOff := false, offBasins := [] } }
      let s3 := putField (putField s2 opStatusOff 7 1 0) opStatusOff 11 1 0
      emergencyEvent (raiseThm s3 11) 0x10

end Sys2Proof.Machine
end

