-- ==== Sys2Proof/Machine/HostRegs.lean ====
section
/-! DEFINITION. The host's accesses to BAR0 and BAR2 (00 R6, 10 R239 to R243), events consumed (R258), MSI-X (R263), idle states (10 R260, 12 R319), and the fold of the health counters (02 R51). -/

namespace Sys2Proof.Machine

open Sys2Proof

/-! ## Events consumed (10 R258) -/

/-- A host write of HM_EVT_RD. -/
def writeEvtRd (s : State) (v : Word) : State :=
  if (reg s evtWrOff - v).toNat ≤ 1024 then
    let s1 := setReg s evtRdOff v
    evtDrain s1.hm.backlog.length s1
  else raise s 1 0 3

/-- EVT_RD_WRITE. -/
def execEvtRdWrite (v : BitVec 32) (s : State) : Out := .next (writeEvtRd s v)

/-! ## MSI-X and INT_N (10 R263) -/

def coalOff : Nat := irqBase + 0x18
def armed (s : State) : Bool := getField s coalOff 16 1 = 1
def setArmed (s : State) (on : Bool) : State := putField s coalOff 16 1 (b2n on)
/-- The vector's mask bit and its bit in the PBA (log entry 6). -/
def vecCtrlOff : Nat := msixBase + 0xC
def pbaOff : Nat := msixBase + 0x800
def vecMasked (s : State) : Bool := getField s vecCtrlOff 0 1 = 1

/-- INT_N, low while the condition holds; released once the input is lost (15 R390). -/
def intN (s : State) : Bool := !irqCond s || s.power.off

/-- MOD_READY, released while HM_STAGE.STATE is READY (15 Table 15-4 R390). -/
def modReady (s : State) : Bool := decide (getField s (hmBase + 4) 4 2 = 1) && !s.power.off

/-- The duty of FLOW_DEMAND in tenths of a percent, undriven until S0 (15 R389). -/
def flowDemand (s : State) : Option Nat := if s.bring.powered && !s.power.off then some (reg s thmDemandOff).toNat else none

/-- The 3.3 V supply of a port's slot, off while the port is UNLICENSED (15 R381). -/
def slotSupply (s : State) (p : Nat) : Bool := decide (portState s p ≠ pUnlicensed)

/-- The message falls due: it is sent, or pends while the vector is masked. -/
def sendMsix (s : State) : State :=
  let s1 := setArmed s false
  if vecMasked s then setReg s1 pbaOff 1 else { s1 with hm := { s1.hm with msixSent := s1.hm.msixSent + 1 } }

/-- MSIX_SEND: the condition has held for DELAY ticks while ARMED is 1. -/
def execMsixSend (s : State) : Out :=
  .next <|
    if armed s && irqCond s && decide (s.hm.condSince.getD s.tide.toNat + getField s coalOff 0 16 ≤ s.tide.toNat) then sendMsix s
    else s

/-- A write of 1 to IRQ_REARM. -/
def rearm (s : State) : State := if irqCond s then sendMsix (setArmed s true) else setArmed s true

/-- IRQ_REARM. -/
def execIrqRearm (v : BitVec 64) (s : State) : Out := .next (if v.getLsbD 0 then rearm s else s)

/-- The vector is unmasked: a pending message is sent. -/
def unmask (s : State) : State :=
  let s1 := putField s vecCtrlOff 0 1 0
  if reg s pbaOff = 0 then s1
  else { setReg s1 pbaOff 0 with hm := { s1.hm with msixSent := s1.hm.msixSent + 1 } }

/-- MSIX_UNMASK. -/
def execMsixUnmask (s : State) : Out := .next (unmask s)

/-! ## Writes of BAR0 (00 R6, 10 R239) -/

/-- Bits and counts of a register word by events of the running cycle. -/
def eventsAt (s : State) (off : Nat) : Word := (look (0, 0) s.events off).2

/-- A write under the field types; a W1C bit that an event of the running cycle sets stays set. -/
def writeTyped (s : State) (off : Nat) (v : Word) : State :=
  let d := regDef off
  setReg s off ((reg s off &&& ~~~d.rw &&& ~~~(d.w1c &&& v &&& ~~~(eventsAt s off))) ||| (v &&& d.rw))

/-- The port whose LNK_PORT_CTRL lies at an offset. -/
def portCtrlAt (off : Nat) : Option Nat := (List.range portCount).find? fun p => decide (portOff p + 4 = off)

/-- A write of LNK_PORT_CTRL (11 Table 11-10): FORGET_EQ, ACCEPT_PEER, DISABLE, RETRAIN. -/
def writePortCtrl (s : State) (p : Nat) (v : Word) : State :=
  let s1 := if v.getLsbD 2 then forgetEq s p else s
  let s2 := if v.getLsbD 3 then acceptPeer s1 p else s1
  let s3 := if v.getLsbD 1 = decide (getField s2 (portOff p + 4) 1 1 = 1) then s2 else disablePort s2 p (v.getLsbD 1)
  if v.getLsbD 0 then retrainPort s3 p else s3

/-- VALID of HM_CORE_FIRST returns to 0 once every cause bit is clear (13 R348). -/
def settleFirst (s : State) (off : Nat) : State :=
  let o := off - hmBase
  if hmBase ≤ off ∧ 0x10000 ≤ o ∧ o < 0x10000 + 0x1000 * 24 ∧ o % 0x10 = 0 ∧ reg s off = 0 then putField s (off + 8) 19 1 0
  else s

/-- A field of n bits that takes only values from lo to hi. -/
def writeClamped (s : State) (off n lo hi : Nat) (v : Word) : State :=
  setReg s off (BitVec.ofNat 32 (max lo (min hi (v.toNat % 2 ^ n))))

/-- A write of one word of BAR0 outside the mailboxes. -/
def writeWord (s : State) (off : Nat) (v : Word) : State :=
  if off = evtRdOff then writeEvtRd s v
  else if off = irqBase + 0x10 then (if v.getLsbD 0 then rearm s else s)
  else if off = thmBase + 0x1C then writeClamped s off 16 10 10000 v
  else if off = thmBase + 0x24 then writeClamped s off 8 30 150 v
  else if off = vecCtrlOff then (if v.getLsbD 0 then writeTyped s off v else unmask s)
  else match portCtrlAt off with
    | some p => writePortCtrl s p v
    | none => settleFirst (writeTyped s off v) off

def barSize : Nat := 2 ^ 24

/-- REGISTER_WRITE: bytes of a mailbox's request slot take any write; elsewhere only an aligned write of 4 or 8
bytes takes effect. -/
def execRegisterWrite (off width : Nat) (v : BitVec 64) (s : State) : Out :=
  if barSize < off + width then .refused .noSuchUnit
  else if off < 0x2000 * boxCount then
    if off % 0x2000 < 0x1000 then execMailboxSubmit (off / 0x2000) (off % 0x2000) (leBytes width v.toNat) s else .next s
  else if off % width ≠ 0 then .next s
  else if width = 4 then .next (writeWord s off (v.setWidth 32))
  else if width = 8 then .next (writeWord (writeWord s off (v.setWidth 32)) (off + 4) ((v >>> 32).setWidth 32))
  else .next s

/-! ## Reads of BAR0 -/

/-- The bytes of a mailbox. -/
def readBox (s : State) (off : Nat) : Word :=
  let b := s.box (off / 0x2000)
  let o := off % 0x2000
  BitVec.ofNat 32 (leNat (if o < 0x1000 then lookRange 0 b.req o 4 else lookRange 0 b.rep (o - 0x1000) 4))

/-- Whether a word is one of a core leaf with no active core (10 R265, 14 R360). -/
def emptyLeaf (s : State) (off : Nat) : Bool :=
  let o := off - hmBase - 0x10000
  decide (hmBase + 0x10000 ≤ off) && decide (o < 0x1000 * 24) && decide (o % 0x1000 < 0x10 * 252) &&
  match coreOfLeaf s (o / 0x1000) (o % 0x1000 / 0x10) with
  | some c => !coreActive s c
  | none => true

/-- The value of a word of BAR0. -/
def readWord (s : State) (off : Nat) : Word :=
  if off < 0x2000 * boxCount then readBox s off
  else if off = hmBase + 8 then s.tide.setWidth 32
  else if off = hmBase + 0xC then (s.tide >>> 32).setWidth 32
  else if off = irqBase then (irqSummary s).setWidth 32
  else if off = irqBase + 4 then (irqSummary s >>> 32).setWidth 32
  else if irqBase + 0x1000 ≤ off ∧ off < irqBase + 0x2000 ∧ off % 0x40 < 0x20 then
    grpCause s ((off - irqBase - 0x1000) / 0x40) (off % 0x40 / 4)
  else if emptyLeaf s off then 0
  else if eventsAt s off = 0 then reg s off
  else (reg s off &&& ~~~(regDef off).rc) ||| ((look (0, 0) s.events off).1 &&& (regDef off).rc)

/-- A read of an RC field clears it, but for the events of the running cycle, which are kept for the next read. -/
def clearRead (s : State) (off : Nat) : State :=
  let rc := (regDef off).rc
  let ev := eventsAt s off
  setReg (if ev = 0 then s else { s with events := upd (0, 0) s.events off fun e => (e.1 &&& ~~~rc, e.2) }) off
    ((reg s off &&& ~~~rc) ||| (ev &&& rc))

/-- What a read returned. -/
def answerRead (s : State) (b : Bytes) : State := { s with readData := b }

/-- A read of 4 bytes of HM_TIDE (10 R241). -/
def readTide (s : State) (high : Bool) : State :=
  let h : Word := (s.tide >>> 32).setWidth 32
  if high then answerRead { s with hm := { s.hm with tideLatch := none } } (leBytes 4 (s.hm.tideLatch.getD h).toNat)
  else answerRead { s with hm := { s.hm with tideLatch := some h } } (leBytes 4 (s.tide.setWidth 32).toNat)

/-- HM_TIDE_READ. -/
def execHmTideRead (high : Bool) (s : State) : Out := .next (readTide s high)

/-- RC_READ: an aligned read of 4 or 8 bytes returns the register; any other returns zero. -/
def execRcRead (off width : Nat) (s : State) : Out :=
  if barSize < off + width then .refused .noSuchUnit
  else if width = 4 ∧ off % 4 = 0 then
    .next (if off = hmBase + 8 then readTide s false else if off = hmBase + 0xC then readTide s true
      else clearRead (answerRead s (leBytes 4 (readWord s off).toNat)) off)
  else if width = 8 ∧ off % 8 = 0 then
    .next (clearRead (clearRead
      (answerRead s (leBytes 4 (readWord s off).toNat ++ leBytes 4 (readWord s (off + 4)).toNat)) off) (off + 4))
  else .next (answerRead s (zeros width))

/-! ## Idle states (10 R260, 12 R319 Table 12-8, 06 R144) -/

def setIdle (s : State) (i : Nat) : State :=
  putField { s with hm := { s.hm with idle := { s.hm.idle with state := i } } } (hmBase + 0x10) 0 3 i

/-- Work that keeps the device in A0: a voyage RUNNING or SAVING, a message, a segment or replica operation. -/
def busyNow (s : State) : Bool :=
  (s.voyages.any fun p => match p.2 with
    | some v => decide (v.st = vRunning) || decide (v.st = vSaving)
    | none => false) ||
  (s.hm.boxes.any fun p => decide (p.2.st ≠ 0)) ||
  (s.segs.any fun p => p.2.move.isSome || p.2.resolving || (p.2.releasing && decide (p.2.st ≠ 0))) ||
  (s.sets.any fun p => match p.2 with
    | some t => t.load.isSome || t.suspects.any fun x => x.deadline.isSome
    | none => false)

/-- The tick since which the device is idle is kept with the clock. -/
def noteIdle (s : State) : State :=
  if busyNow s then notIdle s else s

/-- The state that an entry chooses: I2 at the deepest while a core holds a voyage or staging slots are
still being parked. -/
def idleChoice (s : State) : Nat :=
  let parking := s.voyages.any fun p => match p.2 with
    | some v => decide (v.st = vPreempted) && (match v.save with | some g => g.hard && !g.parked | none => false)
    | none => false
  if parking || s.cores.any fun p => decide (p.2.misc.vid ≠ noVoyage) then min 2 (deepest s) else deepest s

/-- Every core is cut off by its power switch, or connected again. -/
def cutCores (s : State) (cut : Bool) : State :=
  (List.range coreCount).foldl (fun s c => s.updCore c fun k => { k with misc := { k.misc with switchOff := cut } }) s

/-- The domains of the basins that are not dark in idle state i. -/
def idleDomains (s : State) (i : Nat) (transit : Bool) : State :=
  ((List.range basinCount).filter fun b => !isDark s b).foldl (fun s b =>
    setDomain (setDomain s b (decide (i < 2) || transit)) (24 + b) (decide (i < 3))) s

/-- Ports between ACTIVE and the low-power state of I4. -/
def portsIdle (s : State) (low : Bool) : State :=
  (List.range portCount).foldl (fun s p =>
    if low && !transitOn s p && decide (portState s p = pActive) then setPortState s p pLowPower
    else if !low && decide (portState s p = pLowPower) then setPortState s p pActive
    else s) s

/-- Memories in self-refresh; those of a dark basin stay so. -/
def memsIdle (s : State) (on : Bool) : State :=
  ((List.range memCount).filter fun m => !isDark s (engineBasin m)).foldl
    (fun s m => s.updEngine m fun e => { e with selfRefresh := on }) s

/-- The link's power state in I2 to I4: L0, ASPM L1 or L0p at x2, which of them the spec leaves open (10 R261, log entry 1). -/
def linkRests (s : State) : State :=
  let (s1, f) := drawFree s
  { s1 with hm := { s1.hm with pcie := { s1.hm.pcie with linkPower := f.toNat % 3 } } }

/-- The link runs at full power. -/
def linkWakes (s : State) : State := { s with hm := { s.hm with pcie := { s.hm.pcie with linkPower := 0 } } }

/-- What idle state i does. -/
def enterIdle (s0 : State) (i : Nat) : State :=
  let s := if 2 ≤ i then linkRests s0 else s0
  let t := transitAny s
  let s1 := setIdle s i
  let s2 := if 2 ≤ i ∧ !s.thermal.computeOff then (let u := idleDomains s1 i t; if t then cutCores u true else u) else s1
  if i = 4 then memsIdle (portsIdle s2 true) true else s2

/-- The device leaves its idle state. -/
def wake (s : State) : State :=
  let i := s.hm.idle.state
  if i = 0 then s
  else
    let s1 := setIdle (notIdle (linkWakes s)) 0
    let s2 := if 2 ≤ i ∧ !s.thermal.computeOff then cutCores (idleDomains s1 0 true) false else s1
    if i = 4 then memsIdle (portsIdle s2 false) false else s2

/-- IDLE_ENTRY: after 100 us of idleness, in service, the deepest permitted state is entered. -/
def execIdleEntry (s : State) : Out :=
  .next <|
    if stage s < 9 || decide (s.hm.idle.state ≠ 0) || busyNow s || decide (s.tide.toNat < s.hm.idle.idleSince + 25000) ||
        idleChoice s = 0 then s
    else enterIdle s (idleChoice s)

/-- IDLE_WAKE: a submission, a BAR2 access or a local port packet wakes the device. -/
def execIdleWake (s : State) : Out := .next (wake s)

/-! ## LTR (10 R261) -/

/-- The latency tolerance that the device reports in ns: 20 us while a voyage with host windows runs, else 1 ms. -/
def ltrNow (s : State) : Nat :=
  if s.voyages.any fun p => match p.2 with
    | some v => decide (v.st = vRunning) && !v.img.wins.isEmpty
    | none => false
  then 20000 else 1000000

/-- The LTR is reported as it changes. -/
def noteLtr (s : State) : State := { s with hm := { s.hm with pcie := { s.hm.pcie with ltrNs := ltrNow s } } }

/-! ## BAR2 (10 R242 R243 Table 10-5) -/

/-- The rows of Table 10-5. -/
inductive WinRow where
  | data (m a : Nat)
  | unmapped
  | disabled
  | notResident
  | waits
  | suspect
  deriving DecidableEq, Repr

/-- The row of a byte of BAR2. -/
def winRow (s : State) (addr : Nat) (write : Bool) : WinRow :=
  let covers (w : Nat) : Bool := decide (winField s w 0 8 ≤ addr) && decide (addr < winField s w 0 8 + winField s w 8 8)
  match (List.range 256).find? fun w => winOn s w && covers w with
  | none => .unmapped
  | some w =>
    let sid := winSid s w
    let r := s.seg sid
    if w ∈ s.hm.winDisabled ∨ r.st = 0 ∨ r.gen.toNat ≠ winGen s w then .disabled
    else if !bitOf (winField s w 27 1) (b2n write) || (write && r.readOnly) then .unmapped
    else if r.st ≠ 1 ∧ r.st ≠ 4 then .notResident
    else
      let m := memOf r.tierB r.mem
      let a := r.base + winField s w 16 8 + (addr - winField s w 0 8)
      match copyAt s m a with
      | none => .data m a
      | some (_, t, _, off) =>
        match t.suspects.find? fun x => decide (x.block = blockOfOff t off) with
        | some x => if x.deadline.isSome then .waits else .suspect
        | none => .data m a

/-- The cause of a row, raised once for an access. -/
def rowCause : WinRow → Option Nat
  | .unmapped => some 2
  | .disabled => some 0
  | .notResident => some 1
  | .suspect => some 6
  | _ => none

/-- The causes of an access's rows. -/
def raiseRows (s : State) (rows : List WinRow) : State :=
  (rows.foldl (fun l r => match rowCause r with | some c => addOnce c l | none => l) []).foldl (fun s c => raisePcie s c) s

/-- Runs of bytes that a read takes from consecutive addresses: memory, address, bytes. -/
def readRuns : List WinRow → List (Nat × Nat × Nat)
  | [] => []
  | .data m a :: r =>
    match readRuns r with
    | (m', a', n) :: t => if m' = m ∧ a' = a + 1 then (m, a, n + 1) :: t else (m, a, 1) :: (m', a', n) :: t
    | [] => [(m, a, 1)]
  | _ :: r => readRuns r

/-- Bytes of a read. A byte of a block that no copy repairs is free (log entry 1). -/
def readRows : State → List WinRow → State × Bytes
  | s, [] => (s, [])
  | s, .data m a :: r =>
    let (s1, b) := if ueIn s m a 1 || lostIn s m a 1 then (let (t, f) := drawFree s; (t, f.setWidth 8)) else (s, memByte s m a)
    let (s2, l) := readRows s1 r
    (s2, b :: l)
  | s, _ :: r =>
    let (s2, l) := readRows s r
    (s2, 0 :: l)

/-- Runs of bytes that a write stores at consecutive addresses: memory, address, bytes. -/
def writeRuns : List (WinRow × Byte) → List (Nat × Nat × Bytes)
  | [] => []
  | (.data m a, b) :: r =>
    match writeRuns r with
    | (m', a', l) :: t => if m' = m ∧ a' = a + 1 then (m, a, b :: l) :: t else (m, a, [b]) :: (m', a', l) :: t
    | [] => [(m, a, [b])]
  | _ :: r => writeRuns r

/-- BAR2_ACCESS: each byte under the window that covers it. An access to a block whose procedure runs
waits. -/
def execBar2Access (off len : Nat) (write : Bool) (data : Bytes) (s : State) : Out :=
  let n := if write then data.length else len
  onUnit (decide (off + n ≤ 2 ^ 37)) <|
    let s0 := wake (notIdle s)
    let rows := (List.range n).map fun i => winRow s (off + i) write
    if .waits ∈ rows then s0
    else if write then (writeRuns (rows.zip data)).foldl (fun s w => memStore s w.1 w.2.1 w.2.2) (raiseRows s0 rows)
    else
      let (s1, b) := readRows (readAll (raiseRows s0 rows) (readRuns rows)).1 rows
      answerRead s1 b

/-! ## The health fold (02 R51) -/

/-- HEALTH_FOLD: every 10 ms the counters of the cores are folded into the totals. -/
def execHealthFold (s : State) : Out :=
  let s1 := (s.cores.map (·.1)).foldl foldCore s
  .next { s1 with hm := { s1.hm with healthTick := s1.tide } }

end Sys2Proof.Machine
end

