-- ==== Sys2Proof/Machine/Clock.lean ====
section
/-! DEFINITION. The clock step (00, 05 R122, 12 R305; log entry 2): what the machine does in a period of CLK_CORE whatever is commanded. The Tier S ports of every core (06 R126 to R131), the periods that stretch, the time. -/

namespace Sys2Proof.Machine

open Sys2Proof

/-! ## The CR accesses that are due (06 R129 R131) -/

/-- The accesses that read n bytes from address a, a word each. -/
def readJob (a n : Nat) : CrJob :=
  { io := { rd := true, left := if n = 0 then [] else (wordsOf [(a, a + n - 1)]).map fun w => { off := 0, word := 64 * w } } }

/-- The accesses that write bytes from address a on, a word each. -/
def writeJob (a : Nat) (b : Bytes) : CrJob :=
  { io := { rd := false
            left := if b = [] then [] else (wordsOf [(a, a + b.length - 1)]).map fun w =>
              { off := 0, word := 64 * w, bytes := (located a b).filter fun p => p.1 / 64 = w } } }

/-- The berth port turns to the oldest slot. -/
def berthTurn (k : Core) : Core :=
  match k.cr.berth, k.berths.slots with
  | none, l :: _ =>
    { k with cr := { k.cr with berth := some (if l.pkt.ty = 1 then readJob l.addr (pktBytes l.pkt) else writeJob l.addr l.pkt.payload) } }
  | some _, [] => { k with cr := { k.cr with berth := none } }
  | _, _ => k

/-- A result of the core's voyage that has left the router whole and waits at the core. -/
def resultFor (s : State) (c : Nat) : Option (MergedOut × Binding) :=
  let vid := (s.core c).misc.vid
  ((s.router (homeRouter s c)).outs.filterMap fun m =>
    if m.out = 0 ∧ 50 ≤ m.sent ∧ m.vid = vid then (bindingOf s vid m.tag).map fun b => (m, b) else none).head?

/-- The reduction port turns to a result, and leaves one that is no longer there. -/
def redTurn (s : State) (c : Nat) (k : Core) : Core :=
  match resultFor s c with
  | none => { k with cr := { k.cr with red := none } }
  | some (m, b) =>
    if (k.cr.red.map (·.1)) = some m.tag then k
    else { k with cr := { k.cr with red := some (m.tag, writeJob b.daddr.toNat (landing b m.img).1) } }

/-- The injection that queue q waits to read its payload for. -/
def injectJob (s : State) (c q : Nat) : Option (CrUse × CrJob) :=
  match craneTurn s c q with
  | .send _ e => if carries e then some (.inject (BitVec.ofNat 3 q) e.issued e.next, readJob (srcOf e).1 (srcOf e).2) else none
  | _ => none

/-- The landing that a response waits for. -/
def landJob (s : State) (k : Core) (p : Packet) : Option (CrUse × CrJob) :=
  match rspFor k p with
  | some (_, e, i) =>
    if canLand s k p && landsData k p then some (landUse p, writeJob (dAddr e.desc + pktOff e i) (slice p.payload 0 (pktLen e i))) else none
  | none => none

/-- The read of a contribution's source. -/
def rsendJob (s : State) (k : Core) (j : Nat) : Option (CrUse × CrJob) :=
  match k.sync.rsends[j]? with
  | some r => if mayContribute k s.cc j && !quiesced s k.misc.vid && !k.misc.fenced then
      some (.rsend r.issued, readJob r.addr (rsendBytes r.kind)) else none
  | none => none

/-- What the crane has Tier S accesses for: landings, then contributions, then injections from its next queue on, one at a
time (DESIGN CHOICE, log entry 56). -/
def craneWork (s : State) (c : Nat) : List (CrUse × CrJob) :=
  let k := s.core c
  k.crane.rsp.filterMap (landJob s k) ++
    (List.range k.sync.rsends.length).filterMap (rsendJob s k) ++
    (if craneRuns s c then (List.range 8).filterMap fun i => injectJob s c ((k.crane.rr.toNat + i) % 8) else [])

/-- The crane keeps its work while it is still to be done, and turns to the next. -/
def craneJob (s : State) (c : Nat) (k : Core) : Core :=
  let l := craneWork s c
  match k.cr.crane with
  | some (u, _) => if l.any fun x => x.1 = u then k else { k with cr := { k.cr with crane := l.head? } }
  | none => { k with cr := { k.cr with crane := l.head? } }

/-! ## A cc of a core -/

/-- The ports of core c in the cc that ends: the CR accesses that are due, all accesses, the descriptors read
(04 R90). A step that meets its first bank conflict raises BANK_CONFLICT (06 R128). -/
def coreCc (s : State) (c : Nat) : State :=
  let k := s.core c
  let (k1, clashes) := portsCc s.cc (craneJob s c (redTurn s c (berthTurn k)))
  clashes.foldl (fun s x => raiseCore s c cBankConflict (some x.2)) (s.setCore c (retakeAll s.cc k1))

/-- Every core whose clock runs. -/
def coresCc (s : State) : State :=
  ((s.cores.map (·.1)).filter fun c => decide (c < coreCount) && !darkAt s c).foldl coreCc s

/-! ## Stretched periods (05 R122) -/

/-- Whether a basin stretches the period that ends: one is due, and it has stretched none of the last seven. -/
def stretches (s : State) (b : Nat) : Bool :=
  decide (0 < look 0 s.power.stretchDue b) && (decide (look 0 s.power.stretchAt b = 0) || decide (look 0 s.power.stretchAt b + 7 ≤ s.cc))

/-- A basin has stretched the period: it is counted. -/
def stretched (s : State) (b : Nat) : State :=
  let s1 := countField s (clkBase + 0x100 + 4 * b) 0 32 1
  { s1 with power := { s1.power with stretchDue := upd 0 s1.power.stretchDue b (· - 1)
                                     stretchAt := put 0 s1.power.stretchAt b (s.cc + 1) } }

/-- The basins that stretch the period do, and by how many tenths of a period it is longer: a quarter to a whole one, a free
value (log entries 1 and 2). -/
def stretchCc (s : State) : State × Nat :=
  match (List.range basinCount).filter (stretches s) with
  | [] => (s, 0)
  | bs =>
    let (s1, f) := drawFree (bs.foldl stretched s)
    (s1, 3 + f.toNat % 8)

/-! ## The clock step -/

/-- The tick since which the interrupt condition holds is kept (10 R263). -/
def noteCond (s : State) : State :=
  { s with hm := { s.hm with condSince := if irqCond s then some (s.hm.condSince.getD s.tide.toNat) else none } }

/-- The tick in which each voyage is complete is kept (10 R257). -/
def noteDone (s : State) : State :=
  (s.voyages.map (·.1)).foldl (fun s v => s.updVoyage v fun w =>
    { w with doneTick := if complete s v then some (w.doneTick.getD s.tide.toNat) else none }) s

/-- What the period that ends has done. -/
def endCc (s : State) : State := if s.power.holding.isSome then s else coresCc s

/-- The clock step: a period of CLK_CORE ends and time passes. -/
def clockStep (s : State) : State :=
  let s1 := noteDone (noteCond (endCc s))
  let (s2, extra) := if s.power.holding.isSome then (s1, 0) else stretchCc s1
  passCc extra s2

/-- One clock step of the device. -/
def tick (s : State) : State := noteLtr (noteIdle (clockStep s))

end Sys2Proof.Machine
end

