-- ==== Sys2Proof/Machine/Security.lean ====
section
/-! DEFINITION. The cryptographic module (14 R363 to R374): ROM keys, images, licences, operators, self-tests, IDE keys, zeroisation and measurements. -/

namespace Sys2Proof.Machine

open Sys2Proof

/-! ## State of the module (14 R369 Table 14-16) -/

def secStatusOff : Nat := secBase + 8
def moduleState (s : State) : Nat := getField s secStatusOff 0 2
def setModule (s : State) (x : Nat) : State := putField s secStatusOff 0 2 x
def mSelftest : Nat := 0
def mOperational : Nat := 1
def mError : Nat := 2
def mZeroised : Nat := 3

/-- HM_STAGE.STATE and CODE. -/
def stageState (s : State) : Nat := getField s (hmBase + 4) 4 2
def stageCode (s : State) : Nat := getField s (hmBase + 4) 8 8
/-- Bring-up has stopped on a Fatal finding: recovery mode. -/
def recovery (s : State) : Bool := decide (stageState s = 2)

/-- Whether a service other than show status and self-test is served: not while a test runs, in the error
state, or in recovery mode. -/
def served (s : State) : Bool := (moduleState s = 1 || moduleState s = 3) && !recovery s

/-- A draw of the DRBG. -/
def drawDrbg (s : State) : State × Bytes :=
  ({ s with sec := { s.sec with draws := s.sec.draws + 1 } }, Config.drbg s.sec.reseeds s.sec.draws)

/-! ## The IDE stream (14 R372) -/

/-- The engine zeroises its keys and the stream leaves the Secure state. -/
def ideStop (s : State) : State :=
  if s.sec.ideSet.isNone && s.sec.ideKeys.isEmpty then s
  else raiseSec (putField { s with sec := { s.sec with ideKeys := [], ideSet := none } } secStatusOff 2 1 0) 9

/-- The PCIe link trains (10 Table 10-1): up to 8 lanes and 128 GT/s, without Flit Mode up to 32 GT/s, which raises NONFLIT. -/
def trainPcie (s : State) (t : PcieTrain) : State :=
  let s1 := { s with hm := { s.hm with pcie := { s.hm.pcie with
    width := min 8 t.width, rate := min (if t.flit then 128 else 32) t.rate, flit := t.flit } } }
  if t.flit then s1 else raisePcie s1 4

/-- PCIE_LINK_DOWN: the link goes down in service and retrains. -/
def execPcieLinkDown (link : PcieTrain) (s : State) : Out := .next (trainPcie (ideStop s) link)

/-- PERST_N: while it is asserted the PCIe endpoint, its MSI-X table among it, and the IDE stream are reset; when it
is released the link trains. -/
def execPerstN (asserted : Bool) (link : PcieTrain) (s : State) : Out :=
  .next <|
    if asserted then
      let s1 := ideStop s
      { s1 with regs := s1.regs.filter fun p => decide (p.1 < msixBase) || decide (msixBase + 0x1000 ≤ p.1)
                hm := { s1.hm with pcie := {} }
                bring := { s1.bring with pcieUp := false } }
    else trainPcie { s with bring := { s.bring with pcieUp := true } } link

/-! ## Self-tests (14 R369) -/

/-- The module enters its error state. -/
def moduleError (s : State) (cause : Nat) : State := raiseSec (ideStop (setModule s mError)) cause

/-- SELFTEST_PERIODIC: the known-answer tests of every 24 h. -/
def execSelftestPeriodic (pass : Bool) (s : State) : Out :=
  .next <|
    let s1 := { s with sec := { s.sec with lastKat := s.tide.toNat } }
    if pass then s1 else moduleError s1 0

/-- SELFTEST_ON_DEMAND: one that passes returns the module to operation. -/
def execSelftestOnDemand (pass : Bool) (s : State) : Out :=
  .next <|
    let s1 := { s with sec := { s.sec with lastKat := s.tide.toNat } }
    if pass then setModule s1 (if s.sec.identity then mOperational else mZeroised) else moduleError s1 0

/-- ENTROPY_FAIL. -/
def execEntropyFail (s : State) : Out := .next (moduleError s 1)

/-- DRBG_RESEED: after 2^20 requests. -/
def execDrbgReseed (s : State) : Out :=
  .next (if 2 ^ 20 ≤ s.sec.draws then { s with sec := { s.sec with reseeds := s.sec.reseeds + 1, draws := 0 } } else s)

/-! ## Operators (14 R368) -/

/-- Ticks of 60 s. -/
def minute : Nat := 15000000000

/-- Identity key `i` of a role: Crypto Officer keys come from manufacture until they are replaced. -/
def operatorKey (s : State) (officer : Bool) (i : Nat) : Bytes :=
  if officer then (match look [] s.sec.officerKeys i with | [] => Config.officerKey i | k => k) else look [] s.sec.userKeys i

/-- A nonce that GET_NONCE gave within 60 s and that has not been used. -/
def nonceLive (s : State) (n : Bytes) : Bool := s.sec.nonces.any fun p => p.1 = n && decide (s.tide.toNat ≤ p.2 + minute)

/-- Whether a request is authenticated in a role. -/
def authOk (s : State) (a : AuthReq) (officer : Bool) : Bool :=
  a.role = officer && nonceLive s a.nonce && a.key ≠ [] && ((List.range 4).any fun i => operatorKey s officer i = a.key) &&
  Config.sigVerify a.key (a.body ++ a.nonce) a.sig

def useNonce (s : State) (n : Bytes) : State := { s with sec := { s.sec with nonces := s.sec.nonces.filter fun p => p.1 ≠ n } }

/-- A failed authentication; eight within 60 s suspend authentication for 60 s. -/
def authFailed (s : State) : State :=
  let l := (s.sec.authFails.filter fun t => decide (s.tide.toNat < t + minute)) ++ [s.tide.toNat]
  let s1 := raiseSec s 6
  if 8 ≤ l.length then { s1 with sec := { s1.sec with authFails := [], suspendedUntil := some (s.tide.toNat + minute) } }
  else { s1 with sec := { s1.sec with authFails := l } }

/-- An authenticated service. -/
def withAuth (s : State) (a : AuthReq) (officer : Bool) (f : State → State) : State :=
  if !served s || s.sec.suspendedUntil.isSome then s
  else if authOk s a officer then f (useNonce s a.nonce)
  else authFailed (useNonce s a.nonce)

/-- AUTH_FAIL: a request whose authentication fails in the role it names. -/
def execAuthFail (a : AuthReq) (s : State) : Out := .next (withAuth s a a.role fun _ => s)

/-- AUTH_SUSPEND_END. -/
def execAuthSuspendEnd (s : State) : Out :=
  .next <|
    match s.sec.suspendedUntil with
    | some t => if t ≤ s.tide.toNat then { s with sec := { s.sec with suspendedUntil := none } } else s
    | none => s

/-! ## Fuses, keys, images (14 R363 R364 R366) -/

/-- The ROM key of a purpose in use: 0 firmware, 1 licence, 2 partner admission. -/
def liveKey (s : State) (purpose : Nat) : Bytes := Config.romKey purpose (if purpose ∈ s.sec.revoked then 1 else 0)

/-- KEYID names the key in use and the signature over bytes 0 to 63 verifies under it. -/
def signedBy (s : State) (purpose : Nat) (keyId : Bytes) (b : Bytes) : Bool :=
  keyId = slice (Config.sha256 (liveKey s purpose)) 0 16 && Config.sigVerify (liveKey s purpose) (slice b 0 64) (slice b 64 7856)

/-- The SVN fuse of a component, 0 lighthouse and 1 harbour. -/
def svnOf (s : State) (comp : Nat) : Nat := max (Config.svnFuse comp) (if comp = 0 then s.sec.svnLh else s.sec.svnHm)

/-- SEC_SVN shows the fuses. -/
def noteFuses (s : State) : State :=
  setReg s (secBase + 0x14) (BitVec.ofNat 32 (svnOf s 0 % 256 + 256 * (svnOf s 1 % 256) + 2 ^ 16 * b2n (decide (0 ∈ s.sec.revoked)) +
    2 ^ 17 * b2n (decide (1 ∈ s.sec.revoked)) + 2 ^ 18 * b2n (decide (2 ∈ s.sec.revoked))))

/-- The image in a slot. -/
def slotImage (s : State) (comp slot : Nat) : Bytes := if (fwSlot s comp slot).image = [] then Config.shippedImage comp else (fwSlot s comp slot).image

/-- The header of an image names the class and its signature, digest and length hold. -/
def headerOk (s : State) (cls : Nat) (b : Bytes) : Bool :=
  decide (7920 ≤ b.length) && decide (fieldAt b 0 4 = 0x57465853) && decide (fieldAt b 4 2 = cls) &&
  decide (fieldAt b 12 4 = b.length - 7920) && slice b 16 32 = Config.sha256 (b.drop 7920) && signedBy s 0 (slice b 48 16) b

/-- An image's SVN is lower than the fuse of its component. -/
def rolledBack (s : State) (cls : Nat) (b : Bytes) : Bool := decide (cls ≤ 2) && decide (fieldAt b 6 2 < svnOf s (cls - 1))

/-- COMMIT_SVN: the fuse rises to the SVN of the active image, which has brought the panel to S9. -/
def execCommitSvn (a : AuthReq) (harbour : Bool) (s : State) : Out :=
  .next <| withAuth s a true fun s =>
    let comp := b2n harbour
    if stage s < 9 then s
    else
      let v := fieldAt (slotImage s comp (activeSlot s comp)) 6 2
      let sec := if harbour then { s.sec with svnHm := max (svnOf s 1) v } else { s.sec with svnLh := max (svnOf s 0) v }
      raiseSec (noteFuses { s with sec := sec }) 11

/-- KEY_REVOKE: key 0 of a purpose is revoked. -/
def execKeyRevoke (a : AuthReq) (purpose : BitVec 2) (s : State) : Out :=
  .next <| withAuth s a true fun s =>
    if purpose.toNat < 3 then noteFuses { s with sec := { s.sec with revoked := addOnce purpose.toNat s.sec.revoked } } else s

/-- KEY_MANAGEMENT: a Crypto Officer installs an operator identity key. -/
def execKeyManagement (a : AuthReq) (user : Bool) (slot : BitVec 2) (key : Bytes) (s : State) : Out :=
  .next <| withAuth s a true fun s =>
    if user then { s with sec := { s.sec with userKeys := put [] s.sec.userKeys slot.toNat key } }
    else { s with sec := { s.sec with officerKeys := put [] s.sec.officerKeys slot.toNat key } }

/-! ## Dump key and zeroisation (14 R373 R374) -/

/-- RECIPIENT_SET: the owner's key is installed and a new dump key generated. -/
def execRecipientSet (a : AuthReq) (s : State) : Out :=
  .next <| withAuth s a true fun s =>
    let (s1, _) := drawDrbg s
    { s1 with sec := { s1.sec with recipient := a.body, dumpKey := s1.sec.dumpKey + 1, dumpHeld := true } }

/-- DUMP_KEY_EXPORT: the dump key encapsulated to the recipient; one that no one may hold is not exported. -/
def execDumpKeyExport (a : AuthReq) (s : State) : Out :=
  .next <| withAuth s a true fun s =>
    if s.sec.dumpHeld then
      let (s1, r) := drawDrbg s
      let key := if s.sec.recipient = [] then Config.serviceKey else s.sec.recipient
      { s1 with sec := { s1.sec with answer := Config.kemCipher key r } }
    else s

/-- Every SSP is overwritten and the module enters its ZEROISED state. -/
def zeroiseAll (s : State) : State :=
  let s1 := ideStop s
  let s2 := (List.range 2).foldl (fun s b => s.setBus b { s.bus b with session := none }) s1
  raiseSec (setModule { s2 with sec := { s2.sec with
    identity := false, nonces := [], draws := 0, reseeds := s2.sec.reseeds + 1, dumpKey := s2.sec.dumpKey + 1, dumpHeld := false } }
    mZeroised) 7

/-- ZEROIZE_N: held low for 100 ms. During S0 zeroisation runs when the module leaves its self-tests (15 Table 15-8). -/
def execZeroizeN (s : State) : Out :=
  .next (if stage s = 0 ∧ stageState s = 0 then { s with sec := { s.sec with zeroiseDue := true } } else zeroiseAll s)

/-- ZEROISE. -/
def execZeroise (a : AuthReq) (s : State) : Out := .next (withAuth s a true zeroiseAll)

/-! ## Licences (14 R359 to R362) -/

/-- What the licence says apart from its issue. -/
def licenceSound (s : State) (l : Bytes) : Bool :=
  decide (l.length = 7920) && decide (fieldAt l 0 4 = 0x43494C53) && decide (fieldAt l 4 2 = 1) && decide (fieldAt l 6 2 = 0) &&
  decide (fieldAt l 48 16 = 0) && decide (fieldAt l 8 16 = s.bring.fuses.serial.toNat) && decide (fieldAt l 28 4 < 32) &&
  signedBy s 1 (slice l 32 16) l

/-- FEATURES of the stored licence; none if none is stored. -/
def storedFeatures (s : State) : Nat := if s.sec.licence = [] then 0 else fieldAt s.sec.licence 28 4
def storedIssue (s : State) : Nat := if s.sec.licence = [] then 0 else fieldAt s.sec.licence 24 4

/-- SEC_LICENCE and the ports that it enables. -/
def setFeatures (s : State) (x : Nat) : State :=
  (List.range portCount).foldl portLicence (setReg s (secBase + 0xC) (BitVec.ofNat 32 x))

/-- A feature whose removal waits for the next S8. -/
def featureInUse (s : State) (i : Nat) : Bool :=
  match i with
  | 0 => true
  | 1 => s.segs.any fun p => decide (p.2.st ≠ 0) && p.2.tierB
  | 3 => s.voyages.any fun p => match p.2 with | some v => trains v.img | none => false
  | 4 => s.voyages.any fun p => match p.2 with | some v => decide (v.retained ≠ []) | none => false
  | _ => false

/-- Features in force after an acceptance. -/
def mergedFeatures (s : State) (new : Nat) : Nat :=
  ((List.range 5).map fun i =>
    let had := licensed s i
    let on := if i = 0 then had else bitOf new i || (had && featureInUse s i)
    if on then 2 ^ i else 0).foldl (· + ·) 0

/-- A licence is offered: accepted and in effect, or rejected. -/
def offerLicence (s : State) (l : Bytes) : State :=
  if licenceSound s l && decide (storedIssue s < fieldAt l 24 4) then
    let f := mergedFeatures s (fieldAt l 28 4)
    let s1 := setReg { s with sec := { s.sec with licence := l } } (secBase + 0x10) (BitVec.ofNat 32 (fieldAt l 24 4))
    raiseSec (setFeatures s1 f) 4
  else raiseSec s 5

/-- The stored licence is applied at S8. -/
def applyLicence (s : State) (ok : Bool) : State :=
  let on := ok && decide (s.sec.licence ≠ []) && licenceSound s s.sec.licence
  setFeatures (setReg s (secBase + 0x10) (BitVec.ofNat 32 (storedIssue s))) (if on then storedFeatures s else 0)

/-! ## Measurements (14 R370 Table 14-12) -/

/-- Content of block 10: module state, debug feature, retained sets present, IDE state. -/
def securityState (s : State) : Bytes :=
  Config.layout 4 [(moduleState s : Int), (b2n (licensed s 4) : Int), (b2n (featureInUse s 4) : Int), (b2n (ideSecure s) : Int)]

/-- A block measured at a stage is stored. -/
def measure (s : State) (i : Nat) (content : Bytes) : State :=
  { s with sec := { s.sec with measurements := put [] s.sec.measurements i (Config.sha256 content) } }

/-- Measurement block i: those of S1, S3 and a restart as stored, the others of the present state. -/
def measurement (s : State) (i : Nat) : Bytes :=
  match i with
  | 1 => Config.sha256 Config.rom
  | 6 => Config.sha256 s.bring.topology
  | 7 => Config.sha256 (slice s.sec.licence 8 24)
  | 8 => Config.sha256 (((List.range siteCount).filter fun j => siteState s j = 3).flatMap fun j => (s.site j).descriptor)
  | 9 => Config.sha256 (Config.layout 3 [((reg s (secBase + 0x14)).toNat : Int)])
  | 10 => Config.sha256 (securityState s)
  | _ => look [] s.sec.measurements i

/-- The ten blocks. -/
def allMeasurements (s : State) : Bytes := (List.range 10).flatMap fun i => measurement s (i + 1)

end Sys2Proof.Machine
end

