-- ==== Sys2Proof/Machine/Straps.lean ====
section
/-! DEFINITION. What the dies report in S3 and what it means: strap words (01 R10, 11 R286), die fuse records with their row repairs (06 R134, 14 R356), and the lane maps that they and the panel fuse map give the die-to-die links in S4 (11 R284). -/

namespace Sys2Proof.Machine

open Sys2Proof

/-! ## Strap words (01 Table 1-2) -/

/-- Rows and columns of a site type; none of type 0. -/
def strapRange : Nat → Nat × Nat
  | 1 => (12, 13)
  | 2 => (12, 6)
  | 3 => (4, 2)
  | 4 => (3, 8)
  | 5 => (1, 1)
  | 6 => (1, 1)
  | 7 => (4, 2)
  | _ => (0, 0)

def strapType (w : Nat) : Nat := bits w 9 3
def strapRow (w : Nat) : Nat := bits w 5 4
def strapCol (w : Nat) : Nat := bits w 0 5

/-- A strap word with a valid type and a row and column in its range. -/
def strapOk (w : Nat) : Bool :=
  decide (strapRow w < (strapRange (strapType w)).1) && decide (strapCol w < (strapRange (strapType w)).2)

/-- The word in which a die's three samples agree. -/
def agreed (o : DieObs) : Option Nat :=
  match o.samples with
  | [a, b, c] => if a = b ∧ b = c then some a.toNat else none
  | _ => none

/-- How many dies report word w: those observed, and the one at the site of that word if S3 saw nothing of note there. -/
def reporters (l : List DieObs) (w : Nat) : Nat :=
  (l.filter fun o => agreed o = some w).length + b2n (l.all fun o => o.site.toNat ≠ w)

/-- Whether a word is one that the panel fuse map expects, of a single die. -/
def expected (s : State) (l : List DieObs) (w : Nat) : Bool :=
  strapOk w && decide (BitVec.ofNat 16 w ∉ s.bring.fuses.bad) && decide (reporters l w ≤ 1)

/-! ## Die fuse records (14 Table 14-4) -/

/-- A row repair: core site, bank, row, spare row. -/
structure RowRepair where
  site : Nat
  bank : Nat
  row : Nat
  spare : Nat
  deriving DecidableEq, Repr

/-- The valid REPAIR entries of a GX-C record. -/
def rowRepairs (b : Bytes) : List RowRepair :=
  (List.range (42 * 64)).filterMap fun i =>
    let x := fieldAt b (2328 + 4 * i) 4
    if bitOf x 31 then some { site := i / 64, bank := bits x 10 5, row := bits x 0 10, spare := bits x 15 2 } else none

/-- At most 4 entries name one bank of one core. -/
def repairsFit (l : List RowRepair) : Bool :=
  l.all fun r => decide ((l.filter fun q => q.site = r.site ∧ q.bank = r.bank).length ≤ 4)

/-- A record stands: its CRC-32C, which is its last 4 bytes, and its repairs. A die of which no record has been read has one without faults
(DESIGN CHOICE, log entry 61). -/
def recordOk (ty : Nat) (b : Bytes) : Bool :=
  let n := b.length - 4
  decide (b = []) ||
  ((if ty = 1 then decide (b.length = 13084) else if ty = 2 then decide (2332 ≤ b.length) else decide (b.length = 2332)) &&
    decide (fieldAt b n 4 = (checkOf 1 0 0 (b.take n)).toNat) && (decide (ty ≠ 1) || repairsFit (rowRepairs b)))

/-- The finding of S3 about a die: samples that disagree, a coordinate that is not expected, a record that fails. -/
def dieCode (s : State) (l : List DieObs) (o : DieObs) : Option Nat :=
  match agreed o with
  | none => some 0x31
  | some w => if !expected s l w then some 0x32 else if !recordOk (strapType w) o.record then some 0x33 else none

/-- The sites whose dies fail because another die reports their coordinate. -/
def doubled (l : List DieObs) : List (BitVec 12) :=
  l.foldl (fun t o => match agreed o with
    | some w => if 1 < reporters l w ∧ (l.all fun p => p.site.toNat ≠ w) then addOnce (BitVec.ofNat 12 w) t else t
    | none => t) []

/-- A finding about the die at a site (14 Table 14-2). -/
def siteFinding (code : Nat) (site : BitVec 12) : StageFinding :=
  { code := BitVec.ofNat 8 code, loc := BitVec.ofNat 16 (0x8000 + site.toNat) }

/-- What S3 finds in what the dies report. -/
def dieFindings (s : State) (l : List DieObs) : List StageFinding :=
  (l.filterMap fun o => (dieCode s l o).map fun c => siteFinding c o.site) ++ (doubled l).map (siteFinding 0x32)

/-- A repair's place in BringSt.repairs. -/
def repairKey (w : Nat) (r : RowRepair) : Nat := 768 * (32 * (42 * (13 * strapRow w + strapCol w) + r.site) + r.bank) + r.row

/-- A die's record is kept; of a compute die it names the spared core sites. -/
def readRecord (s : State) (w : Nat) (b : Bytes) : State :=
  let base := 6 * (13 * strapRow w + strapCol w)
  let m := s.bring.fuses.spareCore
  { s with bring := { s.bring with
    dies := put [] s.bring.dies w b
    fuses := { s.bring.fuses with
      spareCore := if strapType w = 1 ∧ b ≠ [] then (List.range 6).foldl (fun m c => put 6 m (base + c) (fieldAt b (12 + c) 1)) m else m } } }

/-- The records of the dies that S3 does not fail. -/
def readRecords (s : State) (l : List DieObs) : State :=
  (l.filter fun o => (dieCode s l o).isNone).foldl (fun s o => match agreed o with | some w => readRecord s w o.record | none => s) s

/-- The row repairs of every record are applied: a repaired row keeps its address, bank and timing (06 R134). -/
def applyRepairs (s : State) : State :=
  { s with bring := { s.bring with repairs :=
    (s.bring.dies.filter fun d => strapType d.1 = 1).foldl (fun m d =>
      (rowRepairs d.2).foldl (fun m r => put 0 m (repairKey d.1 r) (r.spare + 1)) m) [] } }

/-! ## Lane maps (11 R284) -/

/-- Transmit and receive groups of the parallel port, or lanes of a serial one, in the layout of a LANES record: 0 parallel, 1 serial
fabric, 2 serial attachment. -/
def lanesOf (port : Nat) (b : Bytes) (off : Nat) : Nat × Nat :=
  let n := if port = 0 then 146 else 76
  let x := fieldAt b off (if port = 0 then 40 else 24)
  (bits x 0 n, bits x n n)

/-- The end of a link: its die's strap word, the edge (0 north, 1 east, 2 south, 3 west) and the position on it. -/
structure LinkEnd where
  word : Nat
  edge : Nat
  pos : Nat
  deriving DecidableEq, Repr

/-- Bad groups or lanes of an end by its die's record and the substrate faults of the panel fuse map. -/
def endLanes (s : State) (port : Nat) (e : LinkEnd) : Nat × Nat :=
  let own := lanesOf port (look [] s.bring.dies e.word)
    (24 + 96 * (6 * e.edge + e.pos) + (if port = 0 then 0 else if port = 1 then 40 else 64))
  (s.bring.fuses.subs.filter fun f => fieldAt f 0 2 = e.word ∧ fieldAt f 2 1 = e.edge ∧ fieldAt f 3 1 = e.pos ∧ fieldAt f 4 1 = port).foldl
    (fun x f => let y := lanesOf port f 8; (x.1 ||| y.1, x.2 ||| y.2)) own

/-- Bits set among the first n. -/
def bitCount (x n : Nat) : Nat := ((List.range n).filter fun i => bitOf x i).length

/-- Bad groups or lanes of a link in its worse direction. -/
def badLanes (s : State) (port : Nat) (a b : LinkEnd) : Nat :=
  let x := endLanes s port a
  let y := endLanes s port b
  max (bitCount (x.1 ||| y.2) 146) (bitCount (y.1 ||| x.2) 146)

/-- The two ends of a link and its port. -/
def linkEnds (s : State) (link : Nat) : Nat × LinkEnd × LinkEnd :=
  if link < 6 * coreCount then
    let r := link / 6
    let east := decide (link % 6 = 3)
    let n := if east then r + 1 else r + 72
    let pos := if east then coreY r % 6 else coreX r % 6
    (b2n (linkSerial s link), ⟨strapOf s r, if east then 1 else 2, pos⟩, ⟨strapOf s n, if east then 3 else 0, pos⟩)
  else
    let u := link - 6 * coreCount
    let a := attachOf s u 0
    let edge := if a.1.vert then (if coreX a.2 % 6 = 5 then 1 else 3) else (if coreY a.2 % 6 = 0 then 0 else 2)
    let pos := if a.1.vert then coreY a.2 % 6 else coreX a.2 % 6
    (if a.1.skip then 2 else 0, ⟨strapOf s a.2, edge, pos⟩, ⟨strapOf s u, (edge + 2) % 4, pos⟩)

/-- The die-to-die links. -/
def allLinks : List Nat :=
  ((List.range coreCount).flatMap fun r => [6 * r + 3, 6 * r + 5]).filter linkOk ++ (List.range 137).map fun i => 6 * coreCount + coreCount + i

/-- The die at the far end of a link (log entry 50): its strap word. -/
def farWord (s : State) (link : Nat) : Nat :=
  if link < 6 * coreCount then (linkEnds s link).2.2.word else strapOf s (link - 6 * coreCount)

/-- The links whose far end gives another strap word than that of the expected neighbour (11 R286). -/
def crossedLinks (s : State) (words : List (Nat × BitVec 12)) : List Nat :=
  (words.filter fun w => linkOk w.1 && decide (w.2.toNat ≠ farWord s w.1)).map (·.1)

/-- S4 gives a link the widest width that its lane map permits: bad groups or lanes by the records, the fuse map and the tests. -/
def setLink (wires : List (Nat × Nat)) (s : State) (link : Nat) : State :=
  let e := linkEnds s link
  let bad := badLanes s e.1 e.2.1 e.2.2 + ((wires.filter fun w => w.1 = link).map (·.2)).sum
  { s with fabric := { s.fabric with
    linkBad := put 0 s.fabric.linkBad link bad
    linkWidth := put 0 s.fabric.linkWidth link (widthCode (linkSerial s link) bad) } }

/-- Lane maps and widths of every link; those to an unexpected neighbour stay untrained. The equalisation values of the serial links are
stored (11 R273). -/
def setLinks (s : State) (wires : List (Nat × Nat)) (words : List (Nat × BitVec 12)) : State :=
  let s1 := (crossedLinks s words).foldl (fun s l => { s with fabric := { s.fabric with linkWidth := put 0 s.fabric.linkWidth l 4 } })
    (allLinks.foldl (setLink wires) s)
  { s1 with bring := { s1.bring with
    linkEq := (allLinks.filter fun l => linkSerial s1 l && !untrained s1 l).foldl (fun t l => addOnce l t) s.bring.linkEq } }

/-- The die from which an untrained link starts. -/
def nearWord (s : State) (link : Nat) : Nat := (linkEnds s link).2.1.word

/-- The links to an unexpected neighbour: a substrate fault, at the die from which the link starts (log entry 50). -/
def crossedFindings (s : State) (words : List (Nat × BitVec 12)) : List StageFinding :=
  (crossedLinks s words).map fun l => siteFinding 0x42 (BitVec.ofNat 12 (nearWord s l))

/-- The links that do not reach quarter width: the die at the far end has failed. -/
def weakLinks (s : State) : List StageFinding :=
  (allLinks.filter fun l => look 0 s.fabric.linkWidth l = 3).map fun l => siteFinding 0x41 (BitVec.ofNat 12 (farWord s l))

end Sys2Proof.Machine
end

