-- ==== Sys2Proof/Machine/Bringup.lean ====
section
/-! DEFINITION. Full device reset and power-up (13 R343 R344 Table 13-5, 14 R352 R354), the bring-up stages (14 Table 14-1 Table 14-3), admission of open sites (11 R288), lockstep pairs and the harbour master's restart (13 R345 R346). -/

namespace Sys2Proof.Machine

open Sys2Proof

/-! ## What a reset keeps (13 Table 13-5) -/

/-- The active slot of a component from the next full device reset. -/
def nextSlot (s : State) (comp : Nat) : Nat :=
  if BitVec.ofNat 16 (comp + 1) ∈ s.sec.staged then 1 - activeSlot s comp else activeSlot s comp

/-- Registers in a range of BAR0. -/
def regsIn (s : State) (lo n : Nat) : SMap Word := s.regs.filter fun p => decide (lo ≤ p.1) && decide (p.1 < lo + n)

/-- Stored equalisation and presence lines of the ports. -/
def keptPorts (s : State) : SMap Port :=
  s.ports.foldl (fun m p => put {} m p.1 { eq := p.2.eq, cable := p.2.cable }) []

/-- The module's non-volatile part. A transfer under way is abandoned; the DRBG is instantiated anew. -/
def keptSec (s : State) : SecSt :=
  { s.sec with nonces := [], draws := 0, reseeds := s.sec.reseeds + 1, authFails := [], suspendedUntil := none, ideKeys := []
               ideSet := none, staged := [], update := none, restartImage := none, stagedLicence := none, measurements := []
               answer := [], lastKat := 0, zeroiseDue := false }

/-- The machine at the start of S0: what neither a power-up nor a full device reset touches is kept. -/
def atS0 (s : State) (regs : SMap Word) (log : LogSt) (up : Bool) : State :=
  let s1 : State :=
    { pending := s.pending, free := s.free, readData := s.readData, host := s.host, regs := regs, log := log
      ports := keptPorts s, sec := keptSec s
      mgmt := s.mgmt.foldl (fun m p => put {} m p.1 { eid := p.2.eid }) []
      power := { inputMode := s.power.inputMode }
      hm := { msixSent := s.hm.msixSent, pcie := if up then { s.hm.pcie with linkPower := 0 } else {} }
      bring := { boot := s.bring.boot + 1, powered := true, configServed := up && s.bring.configServed, pcieUp := up && s.bring.pcieUp
                 fuses := s.bring.fuses, failedCores := s.bring.failedCores, failedDies := s.bring.failedDies, marks := s.bring.failedDies
                 dies := s.bring.dies, linkEq := s.bring.linkEq } }
  putField (putField s1 secStatusOff 3 1 (nextSlot s 1)) secStatusOff 4 1 (nextSlot s 0)

/-- HM_LH_COUNT. -/
def lhCountOff : Nat := hmBase + 0x50

/-- A full device reset: a dump of reason 0x04, a log record whose data the spec does not give (log entry
1), and S0. -/
def fullReset (s : State) : State :=
  let (s1, f) := drawFree (writeDump s 4 none)
  let s2 := logFw s1 0x0B 4 { data := f.setWidth 256 }
  let ide := s2.sec.ideSet.isSome || !s2.sec.ideKeys.isEmpty
  let s3 := atS0 s2 (regsIn s2 (hmBase + 0x48) 12 ++ regsIn s2 msixBase 0x1000) s2.log true
  let s4 := countField (raiseLh s3 2) lhCountOff 16 16 1
  if ide then raiseSec s4 9 else s4

/-- FULL_DEVICE_RESET. -/
def execFullDeviceReset (s : State) : Out := .next (fullReset s)

/-- MASTER_PLL_UNLOCK: the master PLL loses lock. -/
def execMasterPllUnlock (s : State) : Out := .next (fullReset s)

/-- PART_RESET_FAIL: a compute-part reset has failed. -/
def execPartResetFail (pid : Nat) (s : State) : Out :=
  onUnit (decide (pid < 24)) (if (s.part pid).isSome then fullReset (raiseFw s fwPartResetFail) else s)

/-- POWER_UP: input power appears. The retained memory is empty; the records that the lighthouse saved stay. -/
def execPowerUp (s : State) : Out :=
  .next (if s.bring.powered && !s.power.off then s else atS0 s [] { saved := s.log.saved } false)

/-- The identity in configuration space: the Vendor ID, which is free, the Device ID, and the class code (10 Table 10-1; their order, and the codes
of the two sizes, are PCI Express's: PRESUMED, log entry 62). -/
def answerIdentity (s : State) : State :=
  let (s1, f) := drawFree s
  answerRead s1 (leBytes 2 f.toNat ++ leBytes 2 0x5184 ++ leBytes 3 0x120000)

/-- What a configuration request does once they are served. A payload size above 512 B and a read request size above 4 KiB are not
taken. -/
def configure (s : State) (req : CfgReq) : State :=
  let set (g : PcieSt → PcieSt) : State := { s with hm := { s.hm with pcie := g s.hm.pcie } }
  match req with
  | .identity => answerIdentity s
  | .payload c => if c.toNat ≤ 2 then set fun p => { p with payload := c.toNat } else s
  | .readRequest c => if c.toNat ≤ 5 then set fun p => { p with readRequest := c.toNat } else s
  | .power d => set fun p => { p with d3hot := d }
  | .other => s

/-- CONFIGURATION_REQUEST: Configuration Request Retry Status until S1 ends, served from then on. -/
def execConfigurationRequest (req : CfgReq) (s : State) : Out :=
  .next <|
    if s.bring.configServed || decide (2 ≤ stage s) then configure { s with bring := { s.bring with configServed := true } } req
    else s

/-! ## Findings (14 R355 Table 14-3) -/

/-- Findings of the Fatal kind, and of the Degraded kind. -/
def fatalCodes : List Nat := [0x01, 0x02, 0x03, 0x12, 0x21, 0x34, 0x62, 0x63]
def degradedCodes : List Nat :=
  [0x11, 0x22, 0x23, 0x24, 0x31, 0x32, 0x33, 0x35, 0x41, 0x42, 0x43, 0x51, 0x52, 0x53, 0x61, 0x71, 0x72, 0x73, 0x74, 0x81, 0x82]

/-- A finding of a stage: the high digit of its code is the stage. -/
def findingOf (st : Nat) (f : StageFinding) : Bool :=
  decide (f.code.toNat / 16 = st) && decide (f.code.toNat ∈ fatalCodes ++ degradedCodes)

def stageOff : Nat := hmBase + 4

/-- LOC as a valid strap word: type, row, column. -/
def locDie (loc : BitVec 16) : Option (Nat × Nat × Nat) :=
  let w := loc.toNat % 4096
  if loc.getLsbD 15 ∧ strapOk w then some (strapType w, strapRow w, strapCol w) else none

/-- What S2 to S5 have found that the expected topology does not have (14 R358): a failed die that a mark names is expected. -/
def differing (s : State) : List (BitVec 8 × BitVec 16) :=
  s.bring.reports.filter fun f =>
    decide (f.1.toNat ∈ [0x23, 0x24, 0x31, 0x32, 0x33, 0x35, 0x41, 0x42, 0x51, 0x52, 0x53]) &&
    !(match locDie f.2 with
      | some (1, r, c) => decide ((r, ldOf s r c) ∈ s.bring.marks)
      | _ => false)

/-- A finding's number in a log record: code and location, 4 bytes. -/
def itemNat (c : BitVec 8) (loc : BitVec 16) : Nat := c.toNat + 65536 * loc.toNat

/-- A finding in the log; up to seven of the items that differ follow in its record, further ones in records of the same form (DESIGN
CHOICE, log entry 57). -/
def logItems (s : State) (code sev : Nat) (f : StageFinding) (items : List (BitVec 8 × BitVec 16)) : State :=
  (List.range (max 1 ((items.length + 6) / 7))).foldl (fun s i =>
    let part := ((items.drop (7 * i)).take 7).foldr (fun x n => itemNat x.1 x.2 + 2 ^ 32 * n) 0
    logFw s code sev { data := BitVec.ofNat 256 (itemNat f.code f.loc + 2 ^ 32 * part) }) s

/-- A finding in HM_STAGE, in the report and in the log. The record's code is not given (log entry 1). -/
def noteFinding (s : State) (f : StageFinding) : State :=
  let fatal := decide (f.code.toNat ∈ fatalCodes)
  let (s1, x) := drawFree s
  let items := if f.code = 0x61 then differing s else []
  let s2 := logItems { s1 with bring := { s1.bring with reports := s1.bring.reports ++ [(f.code, f.loc)] } } (x.toNat % 256)
    (if fatal then 3 else 2) f items
  let s3 := if fatal then putField s2 stageOff 4 2 2 else putField s2 stageOff 6 1 1
  if fatal || !recovery s then putField (putField s3 stageOff 8 8 f.code.toNat) stageOff 16 16 f.loc.toNat else s3

/-- The first unit of the die that LOC names, by its local index; for a compute die the core at its corner. -/
def locUnit (s : State) (loc : BitVec 16) : Nat :=
  match locDie loc with
  | none => if loc.getLsbD 15 then panelUnit else bits loc.toNat 0 13
  | some (1, r, c) => 72 * (6 * r) + 6 * ldOf s r c
  | some (2, r, c) => memUnit (6 * r + c)
  | some (3, r, c) => memUnit (72 + 2 * r + c)
  | some (4, r, c) => portUnit (2 * (8 * r + c))
  | some (7, r, c) => siteUnit (2 * r + c)
  | some (5, _, _) => harbourUnit
  | some _ => panelUnit

/-- A die that fails in bring-up takes no part in it. A spared compute site that fails can serve no more. -/
def bringDie (s : State) (loc : BitVec 16) : State :=
  let u := locUnit s loc
  match locDie loc with
  | some (1, r, c) =>
    if c = spareSite s r then { s with bring := { s.bring with usedSite := addOnce r s.bring.usedSite } }
    else failDie s r (ldOf s r c)
  | _ =>
    let s1 := if u < coreCount then s else
      { s with bring := { s.bring with deadDies := addOnce (if loc.getLsbD 15 then loc.toNat % 4096 else strapOf s u) s.bring.deadDies } }
    if u < coreCount then failDie s (coreY u / 6) (coreX u / 6)
    else if u < 5264 then loseMemory s1 (u - 5184)
    else if u < 5312 then losePort (losePort s1 (u - 5264 - (u - 5264) % 2)) (u - 5264 - (u - 5264) % 2 + 1)
    else if 5313 ≤ u ∧ u < 5321 ∧ siteState s (u - 5313) = 3 then raiseSite (setSiteState s1 (u - 5313) 5) (u - 5313) 2
    else s1

/-- The basin that LOC names. -/
def locBasin (s : State) (loc : BitVec 16) : Option Nat :=
  match locDie loc with
  | some (1, r, c) => some (2 * r + b2n (decide (6 < c)))
  | _ => if locUnit s loc < coreCount then some (basinOf s (locUnit s loc)) else none

/-- The group that LOC names fails to power. -/
def groupFails (s : State) (loc : BitVec 16) : State :=
  let u := locUnit s loc
  if coreCount ≤ u ∧ u < 5264 then loseMif s (mifOf (u - 5184))
  else if 5264 ≤ u ∧ u < 5312 then loseLinkGroup s ((u - 5264) / 2 % 8)
  else s

/-- Whether S1 rejects a slot for its SVN (14 R366). -/
def svnLow (s : State) : Bool :=
  [0, 1].any fun comp => [0, 1].any fun slot =>
    let b := (fwSlot s comp slot).image
    decide (b ≠ []) && headerOk s (comp + 1) b && rolledBack s (comp + 1) b

/-- What a finding leads to. The quadrant of a failed converter is not reported (log entry 1). -/
def applyFinding (s : State) (f : StageFinding) : State :=
  match f.code.toNat with
  | 0x01 => setModule s mError
  | 0x02 => moduleError s 0
  | 0x03 => moduleError s 1
  | 0x11 | 0x12 => if svnLow s then raiseSec (raiseSec s 2) 3 else raiseSec s 2
  | 0x22 =>
    let (s1, x) := drawFree s
    let q := x.toNat % 4
    setCap (raisePwr { s1 with power := { s1.power with
      convFailed := put 0 s1.power.convFailed q (min 12 (look 0 s1.power.convFailed q + 1)) } } 3)
  | 0x23 | 0x35 => match locBasin s f.loc with | some b => basinDark s b | none => s
  | 0x24 => groupFails s f.loc
  | 0x41 | 0x73 => bringDie s f.loc
  | 0x51 | 0x52 | 0x53 | 0x74 => if coreCount ≤ locUnit s f.loc ∧ locUnit s f.loc < 5264 then loseMemory s (locUnit s f.loc - 5184) else s
  | 0x71 | 0x72 => if locUnit s f.loc < coreCount then changeCore (failCore s (locUnit s f.loc)) none 0 (locUnit s f.loc) else s
  | _ => s

/-- Failed compute sites of a row among the findings of S3, in column order. -/
def rowFails (fs : List StageFinding) (row : Nat) : List Nat :=
  (List.range 13).filter fun c => fs.any fun f =>
    decide (f.code.toNat ∈ [0x31, 0x32, 0x33]) && decide (locDie f.loc = some (1, row, c))

/-- The first failed site of a row becomes its spared site; the basins of further ones are dark. -/
def spareRow (fs : List StageFinding) (s : State) (row : Nat) : State :=
  match rowFails fs row with
  | [] => s
  | c :: more =>
    let s1 := { s with bring := { s.bring with spareSite := put 6 s.bring.spareSite row c, usedSite := addOnce row s.bring.usedSite } }
    more.foldl (fun s c => basinDark s (2 * row + b2n (decide (6 < c)))) s1

/-- Dies of other types that fail in S3. -/
def otherFails (s : State) (f : StageFinding) : State :=
  match locDie f.loc with
  | some (1, _, _) => s
  | _ => if f.code.toNat ∈ [0x31, 0x32, 0x33] then bringDie s f.loc else s

/-! ## Open sites (11 R288) -/

/-- The admission descriptor's layout (11 Table 11-14). -/
def descriptorOk (d : Bytes) : Bool :=
  decide (d.length = 7920) && decide (fieldAt d 0 4 = 0x54444D41) && decide (fieldAt d 4 2 = 1) && decide (fieldAt d 6 2 = 0) &&
  decide (fieldAt d 20 4 < 16) && decide (fieldAt d 24 8 = 0) && decide (fieldAt d 48 16 = 0) &&
  decide (1 ≤ fieldAt d 16 1) && decide (fieldAt d 16 1 ≤ 4) && decide (fieldAt d 17 1 ≤ 5)

/-- The FAILCODE of the first step that fails, 0 if the site is admitted. -/
def failCode (s : State) (o : SiteObs) : Nat :=
  let d := o.descriptor
  if BitVec.ofNat 16 (strapOf s (siteUnit o.site)) ∈ s.bring.fuses.bad then 8
  else if !o.sideband || decide (strapOf s (siteUnit o.site) ∈ s.bring.deadDies) then 1
  else if !o.block then 3
  else if !descriptorOk d then 4
  else if !signedBy s 2 (slice d 32 16) d then 5
  else if fieldAt d 8 2 ≠ o.vendor.toNat ∨ fieldAt d 10 2 ≠ o.part.toNat then 6
  else if o.modules < fieldAt d 16 1 ∨ o.rate < fieldAt d 17 1 then 2
  else if 150 < fieldAt d 18 2 then 6
  else if !o.mainband then 7
  else 0

/-- The admission of an open site at S4. -/
def admitSite (s : State) (o : SiteObs) : State :=
  if siteCount ≤ o.site then s
  else
    let fc := failCode s o
    let off := siteOff o.site
    let s1 := if o.sideband && decide (fc ≠ 8) then putField (putField s off 3 2 (o.modules - 1)) off 5 3 o.rate else s
    let s2 := putField s1 off 8 8 fc
    if fc = 0 then
      raiseSite ((setSiteState s2 o.site 3).setSite o.site { func := BitVec.ofNat 32 (fieldAt o.descriptor 20 4), descriptor := o.descriptor })
        o.site 0
    else
      noteFinding (raiseSite (setSiteState s2 o.site (if fc = 1 then 0 else 4)) o.site 1)
        { code := 0x43, loc := BitVec.ofNat 16 (siteUnit o.site) }

/-! ## The work of a stage (14 Table 14-1) -/

/-- A slot that S1 accepts. -/
def slotValid (s : State) (comp slot : Nat) : Bool :=
  let x := fwSlot s comp slot
  !x.invalid && (decide (x.image = []) || (headerOk s (comp + 1) x.image && !rolledBack s (comp + 1) x.image))

/-- A component whose active slot S1 rejects runs the other one. -/
def fallBack (s : State) (comp : Nat) : State :=
  let a := activeSlot s comp
  if !slotValid s comp a && slotValid s comp (1 - a) then putField s secStatusOff (if comp = 0 then 4 else 3) 1 (1 - a) else s

/-- S1: firmware is verified and started; the alternate harbour image becomes the restart image. -/
def workS1 (s : State) (rejected : Bool) : State :=
  let s1 := if rejected then fallBack (fallBack s 0) 1 else s
  let h := activeSlot s1 1
  let s2 := measure (measure (measure s1 2 (slotImage s1 0 (activeSlot s1 0))) 3 (slotImage s1 1 h)) 4 (slotImage s1 1 (1 - h))
  { s2 with sec := { s2.sec with restartImage := if rejected then none else some (fwSlot s2 1 (1 - h)).image }
            bring := { s2.bring with pcieUp := true } }

/-- S2: every domain is powered; the ports that the stored licence enables begin to train. -/
def workS2 (s : State) : State :=
  (List.range portCount).foldl (fun s p =>
    if bitOf (storedFeatures s) 2 || decide (p % 2 = 0) then startTraining (putField s (portOff p) 6 1 1) p
    else setPortState s p pUnlicensed) (setReg64 s (pwrBase + 0x30) (BitVec.ofNat 64 (2 ^ 64 - 1)))

/-- S3: the records of the dies, their row repairs, and the sites that the fuses spare. -/
def workS3 (s0 : State) (dies : List DieObs) : State :=
  let s := applyRepairs (readRecords s0 dies)
  measure { s with bring := { s.bring with spareSite := s.bring.fuses.spareSite, spareCore := s.bring.fuses.spareCore
                                           usedSite := [], usedCore := [] } } 5 (fuseFile s.bring.fuses)

/-- S6: the ETT home block and the distance table. -/
def workS6 (s : State) : State :=
  let h := homeBlock [] (panelId s)
  republish (setBank (setBank s 0 h) 1 h)

/-- S7: every core is scrubbed; marks from service are dropped until the tests find the part failed again. -/
def workS7 (s : State) : State :=
  let s1 := (s.cores.map (·.1)).foldl (fun s c => s.updCore c fun k => scrubbed k noVoyage) s
  { s1 with bring := { s1.bring with
    failedCores := s.bring.failedCores.filter fun c => (s.core c).misc.failed
    failedDies := s.bring.failedDies.filter fun d => (s.core (72 * (6 * d.1) + 6 * d.2)).misc.failed } }

/-- S8: the stored licence, then one whose acceptance has waited for S8. -/
def workS8 (s : State) (ok : Bool) : State :=
  let s1 := applyLicence s ok
  match s1.sec.stagedLicence with
  | some l => offerLicence { s1 with sec := { s1.sec with stagedLicence := none } } l
  | none => s1

/-- The work of stage st. -/
def stageWork (s : State) (st : Nat) (fs : List StageFinding) (obs : StageObs) : State :=
  let has (c : Nat) : Bool := fs.any fun f => decide (f.code.toNat = c)
  match st with
  | 0 =>
    let s1 := noteFuses (setModule s (if s.sec.identity then mOperational else mZeroised))
    if s.sec.zeroiseDue then zeroiseAll { s1 with sec := { s1.sec with zeroiseDue := false } } else s1
  | 1 => workS1 s (has 0x11)
  | 2 => workS2 s
  | 3 => fs.foldl otherFails ((List.range 12).foldl (spareRow fs) (workS3 s obs.dies))
  | 4 => obs.sites.foldl admitSite s
  | 6 => workS6 s
  | 7 => workS7 s
  | 8 => workS8 (if has 0x81 then raiseSec s 5 else s) (!has 0x81 && !has 0x82)
  | _ => s

/-- A finding about the panel. -/
def panelFinding (code : Nat) : StageFinding := { code := BitVec.ofNat 8 code, loc := 0x1FFF }

/-- The slots that S1 rejects: one of a component, or both. -/
def slotFindings (s : State) : List StageFinding :=
  let bad (comp slot : Nat) : Bool := !slotValid s comp slot
  if (bad 0 0 && bad 0 1) || (bad 1 0 && bad 1 1) then [panelFinding 0x12]
  else if bad 0 0 || bad 0 1 || bad 1 0 || bad 1 1 then [panelFinding 0x11] else []

/-- What S6 finds: a topology that differs, the harbour die cut off, fewer than 2 basins. -/
def topologyFindings (s : State) : List StageFinding :=
  (if differing s = [] then [] else [panelFinding 0x61]) ++ (if cutOff s harbourUnit then [panelFinding 0x62] else []) ++
    if basinCount < s.power.dark.length + 2 then [panelFinding 0x63] else []

/-- What the stage itself finds in what it observed. -/
def observed (s : State) (st : Nat) (obs : StageObs) : List StageFinding :=
  match st with
  | 1 => slotFindings s
  | 3 => dieFindings s obs.dies
  | 4 => weakLinks s ++ crossedFindings s obs.words
  | 6 => topologyFindings s
  | 8 => if s.sec.licence = [] then [panelFinding 0x82] else if !licenceSound s s.sec.licence then [panelFinding 0x81] else []
  | _ => []

/-- Whether an operand brings a finding: one of the stage, and not one that the stage itself makes. -/
def brought (st : Nat) (f : StageFinding) : Bool := findingOf st f && decide (f.code.toNat ∉ [0x61, 0x81, 0x82])

/-- What the stage works on: the PCIe link as it has trained and, in S4, the links with their lane maps. -/
def stageBefore (s : State) (obs : StageObs) : State :=
  let s1 := match obs.pcie with
    | some t => trainPcie s t
    | none => s
  if stage s = 4 then setLinks s1 obs.wires obs.words else s1

/-- The findings of the stage: those brought to it, and those that it makes of what it observed. -/
def stageFindings (s : State) (found : List StageFinding) (obs : StageObs) : List StageFinding :=
  (observed (stageBefore s obs) (stage s) obs).foldl (fun l f => if f ∈ l then l else l ++ [f]) (found.filter (brought (stage s)))

/-- BRINGUP_STAGE_END: the stage has ended with its findings. A Fatal one stops bring-up; otherwise the
stage's work is in place and the next stage begins, S9 ready. S2 waits until the flow is proven (15 R389), and S2 to S8 while an emergency
lasts (15 Table 15-8). -/
def execBringupStageEnd (found : List StageFinding) (obs : StageObs) (s : State) : Out :=
  .next <|
    let st := stage s
    if stageState s ≠ 0 ∨ 9 ≤ st then s
    else if st = 2 ∧ !s.bring.flowProven then raiseThm s 6
    else if 2 ≤ st ∧ s.thermal.emergency.isSome then s
    else
      let fs := stageFindings s found obs
      let fatal := fs.any fun f => decide (f.code.toNat ∈ fatalCodes)
      let s1 := fs.foldl noteFinding (stageBefore s obs)
      let s2 := fs.foldl applyFinding (if fatal then s1 else stageWork s1 st fs obs)
      if fatal then s2
      else if st = 8 then putField (putField s2 stageOff 0 4 9) stageOff 4 2 1
      else putField s2 stageOff 0 4 (st + 1)

/-- S2_RETRY: after finding 0x21, S2 is tried again every 1 s. -/
def execS2Retry (mv : Nat) (s : State) : Out :=
  .next <|
    if recovery s && decide (stageCode s = 0x21) then
      let s1 := putField s pwrInputOff 0 16 (min 65535 mv)
      if 40000 ≤ mv ∧ mv ≤ 48000 then putField (putField (putField s1 stageOff 4 2 0) stageOff 8 8 0) stageOff 16 16 0
      else s1
    else s

/-! ## The harbour master's processors (13 R345 R346) -/

/-- PAIR_SWAP: a lockstep pair disagrees. Its work item starts again from its beginning, with the same effect. -/
def execPairSwap (pair : Nat) (s : State) : Out :=
  onUnit (decide (pair < 10)) <|
    let s1 := logFw s 0x09 2 { unit := harbourUnit }
    if 0 < s.hm.sparePairs then
      raiseFw { s1 with hm := { s1.hm with sparePairs := s.hm.sparePairs - 1 } } fwPairSwap { unit := harbourUnit }
    else
      let s2 := raiseFw { s1 with hm := { s1.hm with pairs := s.hm.pairs - 1 } } fwPairRetired { unit := harbourUnit }
      if s2.hm.pairs < 4 then fullReset s2 else s2

/-- HM_HANG: eight missed heartbeats. Without a restart image, or within 1 s of a restart, the lighthouse performs
a full device reset. -/
def execHmHang (s : State) : Out :=
  .next <|
    if s.hm.hung.isSome then s
    else
      let s1 := writeDump (raiseLh s 0) 3 none
      let again := match s.hm.restartedAt with
        | some t => decide (s.tide.toNat < t + 250000000)
        | none => false
      if again || s.sec.restartImage.isNone then fullReset s1
      else { s1 with hm := { s1.hm with hung := some s.tide.toNat } }

/-- A message that was in progress at the hang is answered with TIMEOUT; a "Continues" operation goes on. -/
def timeoutHung (s : State) (mb : Nat) : State :=
  match (s.box mb).msg with
  | none => s
  | some m =>
    let goes := match msgType m.ty.toNat with | some (_, c) => c | none => false
    let s1 := if !goes || m.begun then s else if m.ty = 0x11 then doEttSwap s mb m else startOp m.ty.toNat s mb m
    if stillThere s1 mb m then reply s1 mb stTimeout 0 [] else s1

/-- Voyages in a state. -/
def voyagesAt (s : State) (st : Nat) : List Nat :=
  (s.voyages.filter fun p => match p.2 with | some v => decide (v.st = st) | none => false).map (·.1)

/-- HM_RESTARTED: the restart image has adopted the tables: messages are answered and every running voyage is replayed
with cause 0x06. A table that fails its check means a full device reset. -/
def execHmRestarted (tablesGood : Bool) (s : State) : Out :=
  .next <|
    if s.hm.hung.isNone then s
    else if !tablesGood then fullReset s
    else
      let s1 := logFw s 0x08 2 { unit := harbourUnit, data := BitVec.ofNat 256 (imageVersion (harbourImage s)) }
      let s2 := { s1 with hm := { s1.hm with hung := none, restartedAt := some s.tide.toNat, altImage := true } }
      let s3 := countField (raiseLh (putField s2 secStatusOff 6 1 1) 1) lhCountOff 0 16 1
      let s4 := measure s3 3 (match s.sec.restartImage with | some [] => Config.shippedImage 1 | some b => b | none => [])
      let s5 := (List.range boxCount).foldl timeoutHung s4
      (voyagesAt s5 vRunning).foldl (fun s v => dueReplay s (BitVec.ofNat 16 v) 6) s5

end Sys2Proof.Machine
end

