-- ==== Sys2Proof/Machine/Mgmt.lean ====
section
/-! DEFINITION. The management buses (14 R365, R370 to R372, R375 R376): nonces, sessions, IDE keys, attestation, firmware update, and what the buses read. A bus keeps what it last returned: `code` is 0 for an answer, 1 for a refusal whose number the spec does not give, 0x80 for ALREADY_IN_UPDATE_MODE (log entry 14). -/

namespace Sys2Proof.Machine

open Sys2Proof

def busCount : Nat := 2

/-- What a bus returns. -/
def answerBus (s : State) (bus : Nat) (b : Bytes) : State := s.setBus bus { s.bus bus with answer := b, code := 0 }
def refuseBus (s : State) (bus : Nat) (code : Byte := 1) : State := s.setBus bus { s.bus bus with answer := [], code := code }

/-- A service of a bus. -/
def onBus (bus : Nat) (s : State) (ok : Bool) (f : State) : Out :=
  onUnit (decide (bus < busCount)) (if ok then f else refuseBus s bus)

/-- The lighthouse serves the buses unless its ROM or fuses failed; in recovery mode it serves update, log and dump
reads and status. -/
def busServes (s : State) : Bool := !(recovery s && decide (stageCode s = 1))

/-- Attestation, sessions and IDE need the identity key. -/
def attests (s : State) : Bool := moduleState s = 1 && s.sec.identity && !recovery s

/-! ## Nonces and sessions (14 R368 R371) -/

/-- GET_NONCE. -/
def execGetNonce (bus : Nat) (s : State) : Out :=
  onBus bus s (served s) <|
    let (s1, n) := drawDrbg s
    answerBus { s1 with sec := { s1.sec with nonces := s1.sec.nonces ++ [(n, s.tide.toNat)] } } bus n

/-- KEM_EXCHANGE: a User opens a session by an encapsulation to its key; the response is signed. -/
def execKemExchange (bus : Nat) (a : AuthReq) (s : State) : Out :=
  onBus bus s (attests s) <|
    withAuth (refuseBus s bus) a false fun s =>
      let (s1, r) := drawDrbg s
      let c := Config.kemCipher a.body r
      let s2 := s1.setBus bus { s1.bus bus with session := some (Config.kemSecret a.body r) }
      answerBus s2 bus (c ++ Config.identitySign (a.body ++ c))

/-- END_SESSION. -/
def execEndSession (bus : Nat) (s : State) : Out :=
  onBus bus s (attests s && (s.bus bus).session.isSome) (answerBus (s.setBus bus { s.bus bus with session := none }) bus [])

/-- Whether a bus has a session that the module serves. -/
def inSession (s : State) (bus : Nat) : Bool := attests s && (s.bus bus).session.isSome

/-! ## IDE keys (14 R372) -/

/-- The place of a key: key set, sub-stream (0 PR, 1 NPR, 2 CPL), direction. -/
def ideKey (keySet : Bool) (sub : Nat) (rx : Bool) : Nat := 6 * b2n keySet + 2 * sub + b2n rx

/-- IDE_KM_QUERY. -/
def execIdeKmQuery (bus : Nat) (s : State) : Out :=
  onBus bus s (inSession s bus) (answerBus s bus (Config.layout 2 [(b2n (ideSecure s) : Int)]))

/-- KEY_PROG: a key of 256 bits. -/
def execKeyProg (bus : Nat) (keySet : Bool) (sub : BitVec 2) (rx : Bool) (key : Bytes) (s : State) : Out :=
  onBus bus s (inSession s bus && decide (sub.toNat < 3) && decide (key.length = 32)) <|
    answerBus { s with sec := { s.sec with ideKeys := put [] s.sec.ideKeys (ideKey keySet sub.toNat rx) key } } bus []

/-- Every key of a set has been programmed. -/
def setWhole (s : State) (keySet : Bool) : Bool := (List.range 6).all fun i => decide (look [] s.sec.ideKeys (6 * b2n keySet + i) ≠ [])

/-- K_SET_GO. -/
def execKSetGo (bus : Nat) (keySet : Bool) (s : State) : Out :=
  onBus bus s (inSession s bus && setWhole s keySet) <|
    let s1 := putField { s with sec := { s.sec with ideSet := some keySet } } secStatusOff 2 1 1
    answerBus (raiseSec s1 8) bus []

/-- K_SET_STOP. -/
def execKSetStop (bus : Nat) (s : State) : Out := onBus bus s (inSession s bus) (answerBus (ideStop s) bus [])

/-! ## Attestation (14 R370) -/

/-- GET_MEASUREMENTS: the ten blocks of the present state, signed. -/
def execGetMeasurements (bus : Nat) (s : State) : Out :=
  onBus bus s (attests s) <|
    let b := allMeasurements s
    answerBus s bus (b ++ Config.identitySign b)

/-- CHALLENGE: the identity key signs the chain's digest, the measurements' digest and the nonce. -/
def execChallenge (bus : Nat) (nonce : Bytes) (s : State) : Out :=
  onBus bus s (attests s) <|
    let b := Config.sha256 Config.certChain ++ Config.sha256 (allMeasurements s) ++ nonce
    answerBus s bus (b ++ Config.identitySign b)

/-- GET_CERTIFICATE: slot 0. -/
def execGetCertificate (bus : Nat) (s : State) : Out := onBus bus s (attests s) (answerBus s bus Config.certChain)

/-! ## Firmware update (14 R364 R365 R376) -/

/-- REQUEST_UPDATE: refused while an update runs from the other bus. -/
def execRequestUpdate (bus : Nat) (s : State) : Out :=
  onBus bus s (busServes s) <|
    match s.sec.update with
    | some _ => refuseBus s bus 0x80
    | none => answerBus { s with sec := { s.sec with update := some { bus := bus, cls := none, data := [], size := 0, verified := false } } } bus []

/-- The update that a bus runs. -/
def updateOf (s : State) (bus : Nat) : Option Update := s.sec.update.filter fun u => u.bus = bus

/-- The slot of class 1 or 2 that is not active. -/
def spareSlot (s : State) (cls : Nat) : Nat := 2 * (cls - 1) + (1 - activeSlot s (cls - 1))

def setSlot (s : State) (k : Nat) (x : FwSlot) : State := { s with sec := { s.sec with slots := put {} s.sec.slots k x } }

/-- UPDATE_COMPONENT: a part of an image; the slot that it fills is not valid until it is verified. -/
def execUpdateComponent (bus : Nat) (cls : BitVec 16) (off : Nat) (data : Bytes) (s : State) : Out :=
  onBus bus s (busServes s && (updateOf s bus).isSome && decide (1 ≤ cls.toNat) && decide (cls.toNat ≤ 4)) <|
    match updateOf s bus with
    | none => s
    | some u =>
      let u0 : Update := if u.cls = some cls then u else { u with data := [], size := 0 }
      let u1 : Update := { u0 with cls := some cls, data := putList 0 u0.data off data, size := max u0.size (off + data.length), verified := false }
      let s1 := if cls.toNat ≤ 2 then setSlot s (spareSlot s cls.toNat) { image := [], invalid := true } else s
      answerBus { s1 with sec := { s1.sec with update := some u1 } } bus []

/-- The image that an update has transferred. -/
def updateImage (u : Update) : Bytes := lookRange 0 u.data 0 u.size

/-- The fuse map of class 0x0004: the serial of the panel in the first 16 bytes of the body, then the map
of Table 14-5 (log entry 15). -/
def fuseBody (s : State) (b : Bytes) : Option FuseMap :=
  let m := b.drop 7936
  let nbad := fieldAt m 2 2
  let nsub := fieldAt m 4 2
  let len := 40 + 2 * nbad + 48 * nsub
  if fieldAt b 7920 16 = s.bring.fuses.serial.toNat ∧ m.length = len + 4 ∧ fieldAt m 0 2 = 1 ∧
      fieldAt m len 4 = (checkOf 1 0 0 (m.take len)).toNat then
    some { s.bring.fuses with
      serial := BitVec.ofNat 128 (fieldAt m 8 16)
      spareSite := putRange 6 [] 0 (fun r => fieldAt m (24 + r) 1) 12
      bad := (List.range nbad).map fun i => BitVec.ofNat 16 (fieldAt m (40 + 2 * i) 2)
      subs := (List.range nsub).map fun i => slice m (40 + 2 * nbad + 48 * i) 48 }
  else none

/-- VERIFY_COMPLETE: a valid image is staged. -/
def execVerifyComplete (bus : Nat) (s : State) : Out :=
  onBus bus s (busServes s && decide (moduleState s ≠ 2) && (updateOf s bus).isSome) <|
    match updateOf s bus with
    | none => s
    | some u =>
      let b := updateImage u
      let cls := match u.cls with | some c => c.toNat | none => 0
      if !headerOk s cls b || (decide (cls = 4) && (fuseBody s b).isNone) then refuseBus (raiseSec s 2) bus
      else if rolledBack s cls b then refuseBus (raiseSec (raiseSec s 2) 3) bus
      else
        let s1 := if cls ≤ 2 then setSlot s (spareSlot s cls) { image := b, invalid := false } else s
        answerBus (raiseSec { s1 with sec := { s1.sec with update := some { u with verified := true } } } 10) bus []

/-- ACTIVATE_FIRMWARE: a firmware slot becomes active at the next full device reset; a licence or a fuse map
takes effect at once, a licence after S8 if that runs. -/
def execActivateFirmware (bus : Nat) (s : State) : Out :=
  onBus bus s (busServes s && ((updateOf s bus).any fun u => u.verified)) <|
    match updateOf s bus with
    | none => s
    | some u =>
      let s0 := { s with sec := { s.sec with update := none } }
      let cls := match u.cls with | some c => c.toNat | none => 0
      let body := (updateImage u).drop 7920
      let s1 :=
        if cls ≤ 2 then
          putField { s0 with sec := { s0.sec with staged := addOnce (BitVec.ofNat 16 cls) s0.sec.staged } } secStatusOff 5 1 1
        else if cls = 3 then
          (if stage s = 8 ∧ stageState s = 0 then { s0 with sec := { s0.sec with stagedLicence := some body } } else offerLicence s0 body)
        else match fuseBody s (updateImage u) with
          | some m => { s0 with bring := { s0.bring with fuses := m } }
          | none => s0
      answerBus s1 bus []

/-! ## Reads (14 R375, 13 R350) -/

/-- LOG_READ: records of the error log from the oldest on. -/
def execLogRead (bus first count : Nat) (s : State) : Out :=
  onBus bus s (busServes s) (answerBus s bus (((s.log.recs.drop first).take count).map logBytes).flatten)

/-- DUMP_READ: a dump, the oldest first; one that is not there ends with an error. -/
def execDumpRead (bus k : Nat) (s : State) : Out :=
  onBus bus s (busServes s) <|
    match s.log.dumps[k]? with
    | some d => answerBus (markRead s k) bus (dumpFile d)
    | none => refuseBus s bus

/-- TOPOLOGY_READ. -/
def execTopologyRead (bus : Nat) (s : State) : Out := onBus bus s (busServes s) (answerBus s bus s.bring.topology)

/-- SENSOR_DETAIL: each sensor's reading and bad mark. -/
def execSensorDetail (bus : Nat) (s : State) : Out :=
  onBus bus s (busServes s) <| answerBus s bus <| Config.layout 1 <|
    (List.range (2 * spotCount)).flatMap fun k => [(sensor s k).avg, (b2n (sensor s k).bad : Int)]

/-- Numeric sensors; their numbers are the model's own (log entry 14). -/
def sensorValue (s : State) (n : Nat) : Option Int :=
  if n = 0 then some (inputMv s)
  else if n = 1 then some (getField s pwrInputOff 16 16)
  else if n = 2 then some (panelPower s)
  else if n = 3 then some (rthNow s)
  else if n = 4 then some (inletTemp s)
  else if n = 5 then some (BitVec.ofNat 16 (getField s (thmBase + 0x10) 16 16)).toInt
  else if n = 6 then some (getField s (thmBase + 0x18) 0 16)
  else if 16 ≤ n ∧ n < 80 then some ((reg s (pwrBase + 0x100 + 4 * (n - 16))).toNat)
  else if 256 ≤ n ∧ n < 256 + spotCount then some (look 0 s.thermal.ctrl (n - 256))
  else none

/-- GET_SENSOR_READING. -/
def execGetSensorReading (bus n : Nat) (s : State) : Out :=
  onBus bus s (busServes s) <|
    match sensorValue s n with
    | some x => answerBus s bus (leBytes 4 (BitVec.ofInt 32 x).toNat)
    | none => refuseBus s bus

/-- SET_ENDPOINT_ID. -/
def execSetEndpointId (bus : Nat) (eid : Byte) (s : State) : Out :=
  onBus bus s (busServes s) (answerBus (s.setBus bus { s.bus bus with eid := eid }) bus [])

end Sys2Proof.Machine
end

