-- ==== Sys2Proof/Machine/Replaced.lean ====
section
/-! DEFINITION. The work of a dark basin on its reserve, or the voyage held (13 R337 R338). -/

namespace Sys2Proof.Machine

open Sys2Proof

/-- Segments that a voyage maps on basin b's quay dies. -/
def mappedOn (s : State) (v : Voyage) (b : Nat) : List Nat :=
  (v.img.segmap.map fun e => e.sid.toNat).filter fun i =>
    let r := s.seg i
    decide (r.st ≠ 0) && !r.tierB && decide (engineBasin r.mem = b)

/-- The next intact copy of a segment, if it is one of a replica set. -/
def copyElsewhere (s : State) (sid : Nat) : Option Nat :=
  match s.rset (s.seg sid).rsid.toNat with
  | some t => nextCopy s t sid
  | none => none

/-- 13 R337: whether the work of dark basin b of a voyage may be re-placed on basin r, as far as the reserve, the records and the segments on the
basin's quay dies go. -/
def mayReplace (s : State) (v : Voyage) (vid : BitVec 16) (b r : Nat) : Bool :=
  mayMove s v vid b r && (mappedOn s v b).all fun i => (copyElsewhere s i).isSome

/-- The quay manifests of a voyage on a dark basin's engines go to the engines that hold the copies, as 13 R335 moves them; none where one
cannot. -/
def moveManifests (s : State) (vid b : Nat) : Option State :=
  match s.voyage vid with
  | none => some s
  | some v =>
    (((v.img.quays.map (·.mem)).filter fun m => decide (engineBasin m = b)).foldl (fun l m => addOnce m l) []).foldl (fun a m =>
      match a with
      | none => none
      | some t =>
        match heirOf s v m with
        | some n => if canInherit t vid m n ((t.voyage vid).getD v) then some (moveManifest t vid m n) else none
        | none => none) (some s)

/-- The voyage re-placed: basin b's positions on basin r, and for a dark basin its quay manifests and segments at the intact copies (DEDUCED, log
entry 64); none where a manifest cannot move or the trees do not fit. -/
def rehomed (s : State) (vid b r : Nat) : Option State :=
  let dark := isDark s b
  match (if dark then moveManifests (moveBasin s vid b r) vid b else some (moveBasin s vid b r)) with
  | none => none
  | some s1 =>
    let s2 := replant s1 vid
    let on := match s.voyage vid with | some v => mappedOn s v b | none => []
    if !treesFit s2 then none
    else some (if dark then on.foldl (fun s i => match copyElsewhere s i with | some k => aliasCopy s i k | none => s) s2 else s2)

/-- Whether a position of a voyage still lies on a dark core. -/
def partDark (s : State) (vid : Nat) : Bool :=
  match s.voyage vid with
  | some v => (voyagePositions s v).any fun c => darkAt s (placeOf v c)
  | none => false

/-- REPLACED: the work of basin b is re-placed on its reserve, and the voyage is replayed once none of its positions lies on a dark core. -/
def execReplaced (vid b : Nat) (s : State) : Out :=
  onUnit (decide (b < basinCount)) <| if s.hm.hung.isSome then s else
    let id := BitVec.ofNat 16 vid
    match s.voyage vid with
    | none => s
    | some v =>
      match reserveFor v b with
      | none => s
      | some r =>
        let dark := isDark s b
        if !(if dark then 7#8 ∈ v.due && mayReplace s v id b r else 9#8 ∈ v.due && 7#8 ∉ v.due && mayMove s v id b r) then s
        else
          let s1 := quiesceVoyage s id
          if !quiet s1 id then s1
          else if 0 < v.savePhase then softSave s1 vid
          else if replaysOut v (if dark then 7 else 9) then voyageFaultBy s1 vid (if dark then 7 else 9)
          else
            match rehomed s1 vid b r with
            | none => s1
            | some s2 =>
              let lost := match s2.voyage vid with | some w => lostPositions s2 w id | none => []
              let s3 := changeAll s2 (some vid) v.ordinal.toNat v.coreFails (coresOf s2 id)
              let s4 := event (if partDark s3 vid then s3 else restoreVoyage s3 vid (if dark then 7 else 9) lost) 0x06 (some vid) stOk b r
              raiseFw (logFw s4 0x04 2 { vid := id, ordinal := v.ordinal }) fwReplaced { vid := id, ordinal := v.ordinal }

/-- CAPACITY_LOST: the work of dark basin b cannot be re-placed, or the voyage's trees or engines no
longer fit; the voyage is held. -/
def execCapacityLost (vid b : Nat) (s : State) : Out :=
  onUnit (decide (b < basinCount)) <| if s.hm.hung.isSome then s else
    let id := BitVec.ofNat 16 vid
    match s.voyage vid with
    | none => s
    | some v =>
      let able := match reserveFor v b with
        | some r => isDark s b && mayReplace s v id b r && (rehomed s vid b r).isSome
        | none => false
      if 7#8 ∉ v.due || able then s
      else
        let s1 := holdVoyage s vid stCapacityLost b 0
        raiseFw (logFw s1 0x05 3 { vid := id, ordinal := v.ordinal }) fwCapacityLost { vid := id, ordinal := v.ordinal }

end Sys2Proof.Machine
end

