-- ==== Sys2Proof/Machine/Dispatch.lean ====
section
/-! DEFINITION. One arm per command: a direct call of its meaning. -/

namespace Sys2Proof.Machine

open Sys2Proof

/-- The effect of a command on everything but the queue. -/
def exec (i : Instr) (s : State) : Host.Outcome State Fault Refusal :=
  match i with
  | .stepIssue c => Sys2Proof.Machine.execStepIssue c s
  | .operationResultWrite c k => Sys2Proof.Machine.execOperationResultWrite c k s
  | .mnop c => Sys2Proof.Machine.execMnop c s
  | .mma c f => Sys2Proof.Machine.execMma c f s
  | .mrd c f => Sys2Proof.Machine.execMrd c f s
  | .mclr c f => Sys2Proof.Machine.execMclr c f s
  | .mst c f => Sys2Proof.Machine.execMst c f s
  | .mld c f => Sys2Proof.Machine.execMld c f s
  | .vnop c => Sys2Proof.Machine.execVnop c s
  | .vld c f => Sys2Proof.Machine.execVld c f s
  | .vst c f => Sys2Proof.Machine.execVst c f s
  | .vdq c f => Sys2Proof.Machine.execVdq c f s
  | .vqnt c f => Sys2Proof.Machine.execVqnt c f s
  | .vfp c f => Sys2Proof.Machine.execVfp c f s
  | .vfpi c f => Sys2Proof.Machine.execVfpi c f s
  | .vint c f => Sys2Proof.Machine.execVint c f s
  | .vinti c f => Sys2Proof.Machine.execVinti c f s
  | .vcmp c f => Sys2Proof.Machine.execVcmp c f s
  | .vsel c f => Sys2Proof.Machine.execVsel c f s
  | .vcvt c f => Sys2Proof.Machine.execVcvt c f s
  | .vtr c f => Sys2Proof.Machine.execVtr c f s
  | .vexpd c f => Sys2Proof.Machine.execVexpd c f s
  | .vred c f => Sys2Proof.Machine.execVred c f s
  | .vtopk c f => Sys2Proof.Machine.execVtopk c f s
  | .cnop c => Sys2Proof.Machine.execCnop c s
  | .cxfr c f => Sys2Proof.Machine.execCxfr c f s
  | .cwait c f => Sys2Proof.Machine.execCwait c f s
  | .waitLong c => Sys2Proof.Machine.execWaitLong c s
  | .ctest c f => Sys2Proof.Machine.execCtest c f s
  | .cpush c f => Sys2Proof.Machine.execCpush c f s
  | .cstat c cqn fd => Sys2Proof.Machine.execCstat c cqn fd s
  | .cfence c mask => Sys2Proof.Machine.execCfence c mask s
  | .bopen c f => Sys2Proof.Machine.execBopen c f s
  | .bclose c f => Sys2Proof.Machine.execBclose c f s
  | .berthCloseAck c idx => Sys2Proof.Machine.execBerthCloseAck c idx s
  | .snop c => Sys2Proof.Machine.execSnop c s
  | .loop c f => Sys2Proof.Machine.execLoop c f s
  | .call c tgt => Sys2Proof.Machine.execCall c tgt s
  | .ret c => Sys2Proof.Machine.execRet c s
  | .xcall c f => Sys2Proof.Machine.execXcall c f s
  | .brf c f => Sys2Proof.Machine.execBrf c f s
  | .pset c f => Sys2Proof.Machine.execPset c f s
  | .pmov c f => Sys2Proof.Machine.execPmov c f s
  | .fset c f => Sys2Proof.Machine.execFset c f s
  | .moor c mid => Sys2Proof.Machine.execMoor c mid s
  | .moorJoin pid => Sys2Proof.Machine.execMoorJoin pid s
  | .bar c bid hold => Sys2Proof.Machine.execBar c bid hold s
  | .barrierRelease pid => Sys2Proof.Machine.execBarrierRelease pid s
  | .rsend c f => Sys2Proof.Machine.execRsend c f s
  | .contribInject c k => Sys2Proof.Machine.execContribInject c k s
  | .rwait c tag => Sys2Proof.Machine.execRwait c tag s
  | .fin c => Sys2Proof.Machine.execFin c s
  | .hold c => Sys2Proof.Machine.execHold c s
  | .release c => Sys2Proof.Machine.execRelease c s
  | .tokenArrival c => Sys2Proof.Machine.execTokenArrival c s
  | .cranePacketInject c => Sys2Proof.Machine.execCranePacketInject c s
  | .transferComplete c q => Sys2Proof.Machine.execTransferComplete c q s
  | .berthPacketArrival c => Sys2Proof.Machine.execBerthPacketArrival c s
  | .berthPacketLanding c => Sys2Proof.Machine.execBerthPacketLanding c s
  | .berthReadServe c => Sys2Proof.Machine.execBerthReadServe c s
  | .readResponseLanding c => Sys2Proof.Machine.execReadResponseLanding c s
  | .spadUe c addr by_ => Sys2Proof.Machine.execSpadUe c addr by_ s
  | .spadCorrectionWriteback c found => Sys2Proof.Machine.execSpadCorrectionWriteback c found s
  | .spadPatrol c bank found => Sys2Proof.Machine.execSpadPatrol c bank found s
  | .flitForward r out => Sys2Proof.Machine.execFlitForward r out s
  | .packetEject r => Sys2Proof.Machine.execPacketEject r s
  | .portPacketIngress p pkt flits => Sys2Proof.Machine.execPortPacketIngress p pkt flits s
  | .trailerErr r k flitUe => Sys2Proof.Machine.execTrailerErr r k flitUe s
  | .nakReceived c => Sys2Proof.Machine.execNakReceived c s
  | .lookupFill c q => Sys2Proof.Machine.execLookupFill c q s
  | .segLookupFill c q => Sys2Proof.Machine.execSegLookupFill c q s
  | .routerMerge r tag => Sys2Proof.Machine.execRouterMerge r tag s
  | .reductionLanding u tag => Sys2Proof.Machine.execReductionLanding u tag s
  | .tagCredit u tag => Sys2Proof.Machine.execTagCredit u tag s
  | .detourProgrammed b => Sys2Proof.Machine.execDetourProgrammed b s
  | .dtabRepublish => Sys2Proof.Machine.execDtabRepublish s
  | .ettSwapTick => Sys2Proof.Machine.execEttSwapTick s
  | .ettDrainCollect => Sys2Proof.Machine.execEttDrainCollect s
  | .swapTimeout => Sys2Proof.Machine.execSwapTimeout s
  | .ettCopyDone => Sys2Proof.Machine.execEttCopyDone s
  | .qcmdReceive m => Sys2Proof.Machine.execQcmdReceive m s
  | .quayEntryStart m => Sys2Proof.Machine.execQuayEntryStart m s
  | .quayEntryEnd m k => Sys2Proof.Machine.execQuayEntryEnd m k s
  | .qnop m k => Sys2Proof.Machine.execQnop m k s
  | .gather m k => Sys2Proof.Machine.execGather m k s
  | .scatter m k => Sys2Proof.Machine.execScatter m k s
  | .stream m k => Sys2Proof.Machine.execStream m k s
  | .kvAppend m k => Sys2Proof.Machine.execKvAppend m k s
  | .attn m k => Sys2Proof.Machine.execAttn m k s
  | .opt m k => Sys2Proof.Machine.execOpt m k s
  | .migrate m k => Sys2Proof.Machine.execMigrate m k s
  | .copy m k => Sys2Proof.Machine.execCopy m k s
  | .scrub m k => Sys2Proof.Machine.execScrub m k s
  | .check m k => Sys2Proof.Machine.execCheck m k s
  | .memoryAccess m errs => Sys2Proof.Machine.execMemoryAccess m errs s
  | .refresh m row => Sys2Proof.Machine.execRefresh m row s
  | .stackTempRead m temp => Sys2Proof.Machine.execStackTempRead m temp s
  | .memoryPatrol m errs => Sys2Proof.Machine.execMemoryPatrol m errs s
  | .replicaAudit rsid => Sys2Proof.Machine.execReplicaAudit rsid s
  | .thirdCopyArrival rsid block => Sys2Proof.Machine.execThirdCopyArrival rsid block s
  | .thirdCopyTimeout rsid block => Sys2Proof.Machine.execThirdCopyTimeout rsid block s
  | .invalAck sid u => Sys2Proof.Machine.execInvalAck sid u s
  | .segReady sid => Sys2Proof.Machine.execSegReady sid s
  | .faultResolve sid => Sys2Proof.Machine.execFaultResolve sid s
  | .preemptDeadline vid => Sys2Proof.Machine.execPreemptDeadline vid s
  | .hardSavePhaseEnd vid => Sys2Proof.Machine.execHardSavePhaseEnd vid s
  | .saveParkDone vid => Sys2Proof.Machine.execSaveParkDone vid s
  | .coreScrub c => Sys2Proof.Machine.execCoreScrub c s
  | .scrubComplete pid => Sys2Proof.Machine.execScrubComplete pid s
  | .scrubTimeout c => Sys2Proof.Machine.execScrubTimeout c s
  | .voyageComplete vid => Sys2Proof.Machine.execVoyageComplete vid s
  | .mailboxSubmit mb off data => Sys2Proof.Machine.execMailboxSubmit mb off data s
  | .mailboxAccept mb => Sys2Proof.Machine.execMailboxAccept mb s
  | .messageTimeout mb => Sys2Proof.Machine.execMessageTimeout mb s
  | .getInfo mb => Sys2Proof.Machine.execGetInfo mb s
  | .getLog mb => Sys2Proof.Machine.execGetLog mb s
  | .latencyTolerance mb => Sys2Proof.Machine.execLatencyTolerance mb s
  | .setPanelId mb => Sys2Proof.Machine.execSetPanelId mb s
  | .portTransit mb => Sys2Proof.Machine.execPortTransit mb s
  | .getDtab mb => Sys2Proof.Machine.execGetDtab mb s
  | .getHealth mb => Sys2Proof.Machine.execGetHealth mb s
  | .ettWrite mb => Sys2Proof.Machine.execEttWrite mb s
  | .ettSwap mb => Sys2Proof.Machine.execEttSwap mb s
  | .segCreate mb => Sys2Proof.Machine.execSegCreate mb s
  | .segRelease mb => Sys2Proof.Machine.execSegRelease mb s
  | .segMove mb => Sys2Proof.Machine.execSegMove mb s
  | .segLoaded mb => Sys2Proof.Machine.execSegLoaded mb s
  | .windowSet mb => Sys2Proof.Machine.execWindowSet mb s
  | .replicaCreate mb => Sys2Proof.Machine.execReplicaCreate mb s
  | .replicaLoad mb => Sys2Proof.Machine.execReplicaLoad mb s
  | .replicaExport mb => Sys2Proof.Machine.execReplicaExport mb s
  | .replicaRelease mb => Sys2Proof.Machine.execReplicaRelease mb s
  | .partitionCreate mb => Sys2Proof.Machine.execPartitionCreate mb s
  | .partitionRelease mb => Sys2Proof.Machine.execPartitionRelease mb s
  | .voyageLoad mb => Sys2Proof.Machine.execVoyageLoad mb s
  | .voyageLaunch mb => Sys2Proof.Machine.execVoyageLaunch mb s
  | .preempt mb => Sys2Proof.Machine.execPreempt mb s
  | .resume mb => Sys2Proof.Machine.execResume mb s
  | .kill mb => Sys2Proof.Machine.execKill mb s
  | .voyageStats mb => Sys2Proof.Machine.execVoyageStats mb s
  | .evtRdWrite v => Sys2Proof.Machine.execEvtRdWrite v s
  | .hmTideRead high => Sys2Proof.Machine.execHmTideRead high s
  | .registerWrite off width v => Sys2Proof.Machine.execRegisterWrite off width v s
  | .rcRead off width => Sys2Proof.Machine.execRcRead off width s
  | .irqRearm v => Sys2Proof.Machine.execIrqRearm v s
  | .msixSend => Sys2Proof.Machine.execMsixSend s
  | .msixUnmask => Sys2Proof.Machine.execMsixUnmask s
  | .bar2Access off len write data => Sys2Proof.Machine.execBar2Access off len write data s
  | .hostwinFail c q => Sys2Proof.Machine.execHostwinFail c q s
  | .perstN asserted link => Sys2Proof.Machine.execPerstN asserted link s
  | .idleEntry => Sys2Proof.Machine.execIdleEntry s
  | .idleWake => Sys2Proof.Machine.execIdleWake s
  | .healthFold => Sys2Proof.Machine.execHealthFold s
  | .portTrainStart p => Sys2Proof.Machine.execPortTrainStart p s
  | .portTrainStageDone p obs => Sys2Proof.Machine.execPortTrainStageDone p obs s
  | .portFrameReceive p f fcrc errors => Sys2Proof.Machine.execPortFrameReceive p f fcrc errors s
  | .portFrameSend p => Sys2Proof.Machine.execPortFrameSend p s
  | .laneBad p lane byCorrections => Sys2Proof.Machine.execLaneBad p lane byCorrections s
  | .widthChangeDone p => Sys2Proof.Machine.execWidthChangeDone p s
  | .linkLoss p why => Sys2Proof.Machine.execLinkLoss p why s
  | .linkLossTimeout p => Sys2Proof.Machine.execLinkLossTimeout p s
  | .retrain p => Sys2Proof.Machine.execRetrain p s
  | .disable p on => Sys2Proof.Machine.execDisable p on s
  | .forgetEq p => Sys2Proof.Machine.execForgetEq p s
  | .acceptPeer p => Sys2Proof.Machine.execAcceptPeer p s
  | .portWake p => Sys2Proof.Machine.execPortWake p s
  | .cablePresence p present => Sys2Proof.Machine.execCablePresence p present s
  | .d2dRetry link good badWires => Sys2Proof.Machine.execD2dRetry link good badWires s
  | .partnerPacket site pkt => Sys2Proof.Machine.execPartnerPacket site pkt s
  | .partnerLinkDown site => Sys2Proof.Machine.execPartnerLinkDown site s
  | .inputVoltageChange mv => Sys2Proof.Machine.execInputVoltageChange mv s
  | .convFail quadrant => Sys2Proof.Machine.execConvFail quadrant s
  | .phaseFail b die => Sys2Proof.Machine.execPhaseFail b die s
  | .droop b absorbed stretched => Sys2Proof.Machine.execDroop b absorbed stretched s
  | .stretchSustained b => Sys2Proof.Machine.execStretchSustained b s
  | .basinShort b => Sys2Proof.Machine.execBasinShort b s
  | .refLost isB => Sys2Proof.Machine.execRefLost isB s
  | .refRestored isB => Sys2Proof.Machine.execRefRestored isB s
  | .holdover => Sys2Proof.Machine.execHoldover s
  | .pllUnlock b => Sys2Proof.Machine.execPllUnlock b s
  | .masterPllUnlock => Sys2Proof.Machine.execMasterPllUnlock s
  | .pwrOpReqWrite v => Sys2Proof.Machine.execPwrOpReqWrite v s
  | .opEvaluate powerW overBasins domainMw => Sys2Proof.Machine.execOpEvaluate powerW overBasins domainMw s
  | .opChangeHold => Sys2Proof.Machine.execOpChangeHold s
  | .opChanged => Sys2Proof.Machine.execOpChanged s
  | .stormEntry => Sys2Proof.Machine.execStormEntry s
  | .sensorSample spot ring temp => Sys2Proof.Machine.execSensorSample spot ring temp s
  | .thermalReading => Sys2Proof.Machine.execThermalReading s
  | .coolantRead o => Sys2Proof.Machine.execCoolantRead o s
  | .rthUpdate => Sys2Proof.Machine.execRthUpdate s
  | .capRecompute => Sys2Proof.Machine.execCapRecompute s
  | .flowAbsent => Sys2Proof.Machine.execFlowAbsent s
  | .emergencyComputeOff => Sys2Proof.Machine.execEmergencyComputeOff s
  | .emergencyClear => Sys2Proof.Machine.execEmergencyClear s
  | .coreFailed c => Sys2Proof.Machine.execCoreFailed c s
  | .dieFailed row ld => Sys2Proof.Machine.execDieFailed row ld s
  | .replay vid cause => Sys2Proof.Machine.execReplay vid cause s
  | .stackLost m => Sys2Proof.Machine.execStackLost m s
  | .replaced vid b => Sys2Proof.Machine.execReplaced vid b s
  | .capacityLost vid b => Sys2Proof.Machine.execCapacityLost vid b s
  | .segTimeout vid => Sys2Proof.Machine.execSegTimeout vid s
  | .partResetFail pid => Sys2Proof.Machine.execPartResetFail pid s
  | .pairSwap pair => Sys2Proof.Machine.execPairSwap pair s
  | .hmHang => Sys2Proof.Machine.execHmHang s
  | .hmRestarted tablesGood => Sys2Proof.Machine.execHmRestarted tablesGood s
  | .fullDeviceReset => Sys2Proof.Machine.execFullDeviceReset s
  | .powerUp => Sys2Proof.Machine.execPowerUp s
  | .bringupStageEnd found obs => Sys2Proof.Machine.execBringupStageEnd found obs s
  | .zeroizeN => Sys2Proof.Machine.execZeroizeN s
  | .zeroise a => Sys2Proof.Machine.execZeroise a s
  | .selftestPeriodic pass => Sys2Proof.Machine.execSelftestPeriodic pass s
  | .selftestOnDemand pass => Sys2Proof.Machine.execSelftestOnDemand pass s
  | .entropyFail => Sys2Proof.Machine.execEntropyFail s
  | .drbgReseed => Sys2Proof.Machine.execDrbgReseed s
  | .authFail a => Sys2Proof.Machine.execAuthFail a s
  | .authSuspendEnd => Sys2Proof.Machine.execAuthSuspendEnd s
  | .getNonce bus => Sys2Proof.Machine.execGetNonce bus s
  | .commitSvn a harbour => Sys2Proof.Machine.execCommitSvn a harbour s
  | .keyRevoke a purpose => Sys2Proof.Machine.execKeyRevoke a purpose s
  | .recipientSet a => Sys2Proof.Machine.execRecipientSet a s
  | .dumpKeyExport a => Sys2Proof.Machine.execDumpKeyExport a s
  | .kemExchange bus a => Sys2Proof.Machine.execKemExchange bus a s
  | .ideKmQuery bus => Sys2Proof.Machine.execIdeKmQuery bus s
  | .keyProg bus keySet sub rx key => Sys2Proof.Machine.execKeyProg bus keySet sub rx key s
  | .kSetGo bus keySet => Sys2Proof.Machine.execKSetGo bus keySet s
  | .kSetStop bus => Sys2Proof.Machine.execKSetStop bus s
  | .getMeasurements bus => Sys2Proof.Machine.execGetMeasurements bus s
  | .challenge bus nonce => Sys2Proof.Machine.execChallenge bus nonce s
  | .getCertificate bus => Sys2Proof.Machine.execGetCertificate bus s
  | .endSession bus => Sys2Proof.Machine.execEndSession bus s
  | .requestUpdate bus => Sys2Proof.Machine.execRequestUpdate bus s
  | .verifyComplete bus => Sys2Proof.Machine.execVerifyComplete bus s
  | .activateFirmware bus => Sys2Proof.Machine.execActivateFirmware bus s
  | .logRead bus first count => Sys2Proof.Machine.execLogRead bus first count s
  | .dumpRead bus k => Sys2Proof.Machine.execDumpRead bus k s
  | .topologyRead bus => Sys2Proof.Machine.execTopologyRead bus s
  | .sensorDetail bus => Sys2Proof.Machine.execSensorDetail bus s
  | .getSensorReading bus sensor => Sys2Proof.Machine.execGetSensorReading bus sensor s
  | .trainRetry p => Sys2Proof.Machine.execTrainRetry p s
  | .s2Retry mv => Sys2Proof.Machine.execS2Retry mv s
  | .pcieLinkDown link => Sys2Proof.Machine.execPcieLinkDown link s
  | .mainbandRetrained site => Sys2Proof.Machine.execMainbandRetrained site s
  | .laneRepair site => Sys2Proof.Machine.execLaneRepair site s
  | .configurationRequest req => Sys2Proof.Machine.execConfigurationRequest req s
  | .updateComponent bus cls off data => Sys2Proof.Machine.execUpdateComponent bus cls off data s
  | .setEndpointId bus eid => Sys2Proof.Machine.execSetEndpointId bus eid s
  | .keyManagement a user slot key => Sys2Proof.Machine.execKeyManagement a user slot key s

end Sys2Proof.Machine
end

