-- ==== Sys2Proof/Safety.lean ====
section
/-! DEFINITION. What counts as a safe command, a canonical state and an unchanged part of the state, in the terms the statements use. -/

namespace Sys2Proof.Machine

open Sys2Proof

/-- A command completes: it answers a next state, not a fault or a refusal. -/
def completes (c : Instr) (s : State) : Prop := ∃ t, exec c s = .next t

/-- Every sparse memory of the state is in canonical form: keys strictly rising, no entry equal to
what an unlisted key reads as. -/
def State.memWf (s : State) : Bool := SMap.wf 0 s.mem && SMap.wf 0 s.host

/-- Every sparse map of the state is in canonical form: equal contents are equal data. -/
def State.canonical (s : State) : Bool :=
  s.memWf && SMap.wf 0 s.regs && SMap.wf (0, 0) s.events && SMap.wf {} s.cores && SMap.wf {} s.routers && SMap.wf {} s.engines &&
    SMap.wf .good s.ueBlocks && SMap.wf {} s.segs && SMap.wf none s.sets && SMap.wf none s.parts &&
    SMap.wf none s.voyages && SMap.wf {} s.ports && SMap.wf {} s.sites && SMap.wf {} s.mgmt &&
    SMap.wf {} s.hm.boxes

/-! ## Frames -/

/-- The parts of the state, as a frame names them; `clock` is cc, its surplus and the tide count, `regs` the registers with
what events of the running cycle have done to them. -/
inductive Part where
  | pending
  | free
  | clock
  | regs
  | readData
  | cores
  | routers
  | engines
  | mem
  | ueBlocks
  | host
  | segs
  | sets
  | parts
  | voyages
  | hm
  | fabric
  | ports
  | sites
  | power
  | thermal
  | sec
  | mgmt
  | log
  | bring
  deriving DecidableEq, Repr

/-- A part is the same in two states. -/
def Part.same (s t : State) : Part → Prop
  | .pending => t.pending = s.pending
  | .free => t.free = s.free
  | .clock => t.cc = s.cc ∧ t.ccPhase = s.ccPhase ∧ t.tide = s.tide
  | .regs => t.regs = s.regs ∧ t.events = s.events
  | .readData => t.readData = s.readData
  | .cores => t.cores = s.cores
  | .routers => t.routers = s.routers
  | .engines => t.engines = s.engines
  | .mem => t.mem = s.mem
  | .ueBlocks => t.ueBlocks = s.ueBlocks
  | .host => t.host = s.host
  | .segs => t.segs = s.segs
  | .sets => t.sets = s.sets
  | .parts => t.parts = s.parts
  | .voyages => t.voyages = s.voyages
  | .hm => t.hm = s.hm
  | .fabric => t.fabric = s.fabric
  | .ports => t.ports = s.ports
  | .sites => t.sites = s.sites
  | .power => t.power = s.power
  | .thermal => t.thermal = s.thermal
  | .sec => t.sec = s.sec
  | .mgmt => t.mgmt = s.mgmt
  | .log => t.log = s.log
  | .bring => t.bring = s.bring

/-- t differs from s in no part but the listed ones. -/
def OnlyIn (l : List Part) (s t : State) : Prop := ∀ p, p ∉ l → p.same s t

/-- No register word but those at the listed offsets differs. -/
def RegsOnly (l : List Nat) (s t : State) : Prop := ∀ o, o ∉ l → reg t o = reg s o

/-- No core but c differs. -/
def CoreOnly (c : Nat) (s t : State) : Prop := ∀ d, d ≠ c → t.core d = s.core d

/-- No port but p differs. -/
def PortOnly (p : Nat) (s t : State) : Prop := ∀ d, d ≠ p → t.port d = s.port d

/-- No engine but m differs. -/
def EngineOnly (m : Nat) (s t : State) : Prop := ∀ d, d ≠ m → t.engine d = s.engine d

/-- The offsets that raising cause of a leaf may touch: its cause register, and that of the lighthouse,
whose LOG_WRAP tells of an overwritten log record (13 R349). -/
def causeRegs (g leaf : Nat) : List Nat := [leafOff g leaf, leafOff 48 0]

/-- A cause is set (10 R262). -/
def causeSet (t : State) (g leaf bit : Nat) : Prop := bitOf (reg t (leafOff g leaf)).toNat bit = true

/-! ## Issue of a step -/

/-- Nothing keeps core c from issuing a step: it runs, no core holds it, the step is well formed and
fits its voyage, and no stall condition of 02 R28 holds. -/
structure Issuable (s : State) (c : Nat) (st : Step4) : Prop where
  unit : c < coreCount
  ok : stepOk st = true
  fits : stepFits (imageOf s c) (coreXY s c).1 (coreXY s c).2 (fun q => (qEnd (s.core c) q).isOpen) false st = true
  may : mayIssue (s.core c) st = true
  free : stalled (s.core c) s.cc st = false

/-- An operation of a slot that was issued at the core's step of state s is pending, with results known at its issue. -/
def Pends (s t : State) (c slot : Nat) (ws : List Wr) : Prop :=
  ∃ o, o ∈ (t.core c).seq.pend ∧ o.slot = slot ∧ o.step = (s.core c).seq.mp ∧ o.issued = s.cc ∧ o.writes = ws

/-- The operation of the M or V slot that yields `out` is pending: its latency, its accesses of Tier S, its results and F7 events
or, where they follow from what the accesses read, the operation with the pointers and lanes of its issue (02 R27, 03 R53). -/
def PendsOut (s t : State) (c slot : Nat) (op : LateOp) (out : SlotOut) : Prop :=
  ∃ o, o ∈ (t.core c).seq.pend ∧ o.slot = slot ∧ o.step = (s.core c).seq.mp ∧ o.issued = s.cc ∧ o.lat = out.lat ∧
    o.writes = out.writes ∧ o.streams = out.streams ∧ o.f7 = out.ev.f7 ∧ o.counts = out.ev.counts ∧
    o.late = if out.late then some ⟨op, (s.core c).regs.p, (s.core c).regs.lfsr⟩ else none

/-- No register of the data path and no byte of Tier S changed (the generator lanes advance at issue). -/
def DataKept (s t : State) (c : Nat) : Prop :=
  (t.core c).regs = { (s.core c).regs with lfsr := (t.core c).regs.lfsr } ∧ (t.core c).tierS = (s.core c).tierS

/-- The trip count that a LOOP takes: its immediate, or a pointer's low 24 bits (04 Table 4-13). -/
def loopCount (k : Core) (f : LoopF) : BitVec 24 := if f.r then (pReg k (loopP f)).setWidth 24 else f.count

/-- The command that issues an M slot operation alone. -/
def mCommand (c : Nat) : MOp → Instr
  | .nop => .mnop c
  | .mma f => .mma c f
  | .mrd f => .mrd c f
  | .mclr f => .mclr c f
  | .mst f => .mst c f
  | .mld f => .mld c f

/-- The command that issues a V slot operation alone. -/
def vCommand (c : Nat) : VOp → Instr
  | .nop => .vnop c
  | .vld f => .vld c f
  | .vst f => .vst c f
  | .vdq f => .vdq c f
  | .vqnt f => .vqnt c f
  | .vfp f => .vfp c f
  | .vfpi f => .vfpi c f
  | .vint f => .vint c f
  | .vinti f => .vinti c f
  | .vcmp f => .vcmp c f
  | .vsel f => .vsel c f
  | .vcvt f => .vcvt c f
  | .vtr f => .vtr c f
  | .vexpd f => .vexpd c f
  | .vred f => .vred c f
  | .vtopk f => .vtopk c f

/-! ## Packets -/

/-- Unit u of the panel, no port, is reached where it stands: it does not lie behind detours and no router has a rule for it. -/
structure Reached (s : State) (u : Nat) : Prop where
  unit : u < 5264 ∨ harbourUnit ≤ u
  lit : sealedOff s u = false
  home : ruled s u = false

/-- A packet with a property has joined those that wait at some router, behind them. -/
def PacketSent (s t : State) (what : Packet → Prop) : Prop :=
  ∃ r x, (t.router r).pkts = (s.router r).pkts ++ [x] ∧ what x.pkt

/-! ## Quay entries (08 R198 to R207) -/

/-- Run k of engine m holds an entry of operation `op` that may go on, with no bad status so far. -/
structure RunReady (s : State) (m k op : Nat) (r : QRun) (w : BitVec 512) : Prop where
  mem : m < memCount
  run : (s.engine m).running[k]? = some r
  entry : entryOf s m r = w
  opIs : qOp w = op
  goes : runs s m r = true
  good : r.status = 0

/-- A read of n bytes of a voyage's segment finds them at address a of memory mm: neither what is read nor, with VERIFY, the check blocks
and records of the range holds an error, and no block of it is suspect or lost. -/
structure CleanRead (s : State) (vid : BitVec 16) (i off n : Nat) (verify : Bool) (mm a : Nat) : Prop where
  place : qPlace s vid i false off n = .at_ mm a
  sure : suspectAt s mm a n = false
  clean : ∀ x ∈ readRanges s mm a n verify, errsIn s x.1 x.2.1 x.2.2 = [] ∧ lostIn s x.1 x.2.1 x.2.2 = false
  checked : verify = true → verifyRange s mm a n = true

/-- A write of n bytes of a voyage's segment goes to address a of memory mm, where no replica set lies. -/
structure PlainWrite (s : State) (vid : BitVec 16) (i off n mm a : Nat) : Prop where
  place : qPlace s vid i true off n = .at_ mm a
  plain : copyAt s mm a = none

/-- The translation of a run's destination is there and leads to core u, which is reached where it stands. -/
structure SendsTo (s : State) (m : Nat) (r : QRun) (w : BitVec 512) (x u : Nat) : Prop where
  known : runEtt s m r (sendEp w) = some x
  here : x % 4 = 1
  unit : localUnit x = u
  core : u < coreCount
  way : noWay s u = false
  reached : Reached s u

/-- Run k of engine m has ended with a status. -/
def RunEnded (t : State) (m k : Nat) (r : QRun) (st : Byte) : Prop :=
  (t.engine m).running[k]? = some { r with done := true, status := st }

/-- No byte of the memories differs but the n at address a of memory m. -/
def MemOnly (m a n : Nat) (s t : State) : Prop :=
  ∀ x, x < memKey m a ∨ memKey m a + n ≤ x → look 0 t.mem x = look 0 s.mem x

/-! ## Messages and events (10 R246 to R250, R258) -/

/-- No mailbox but mb differs. -/
def BoxOnly (mb : Nat) (s t : State) : Prop := ∀ b, b ≠ mb → t.box b = s.box b

/-- The registers that a reply touches: HM_MBX_STATE, REPLY in IRQ_MBX_CAUSE, and LOG_WRAP. -/
def replyRegs : List Nat := (hmBase + 0x18) :: causeRegs 0 0

/-- The message m waits in mailbox mb, of type ty and of the layout that the type gives, bring-up has reached the
stage that the type needs, the harbour master works, and no earlier message is unserved. -/
structure MsgServed (s : State) (mb ty need len : Nat) (fields : List (Nat × Nat)) (m : Msg) : Prop where
  box : mb < boxCount
  msg : (s.box mb).msg = some m
  tyIs : m.ty.toNat = ty
  fresh : m.begun = false
  up : s.hm.hung = none
  turn : earlier s mb m = false
  staged : need ≤ stage s
  form : wellFormed m len fields = true

/-- The bytes of a reply: the header of 10 Table 10-8 and the body. -/
def replyBytes (m : Msg) (status detail : Nat) (body : Bytes) : Bytes :=
  leBytes 4 m.seq.toNat ++ leBytes 2 m.ty.toNat ++ leBytes 2 (16 + (body.length + 3) / 4 * 4) ++ leBytes 2 status ++ zeros 2 ++
    leBytes 4 detail ++ body ++ zeros ((4 - body.length % 4) % 4)

/-- The message of mailbox mb is answered: the reply stands in its slot, it is IDLE, its REPLY bit is set. -/
structure Replied (t : State) (mb : Nat) (m : Msg) (status detail : Nat) (body : Bytes) : Prop where
  gone : (t.box mb).msg = none
  idle : (t.box mb).st = 0
  shown : getField t (hmBase + 0x18) (2 * mb) 2 = 0
  bytes : lookRange 0 (t.box mb).rep 0 (16 + (body.length + 3) / 4 * 4) = replyBytes m status detail body
  told : causeSet t 0 0 mb

/-- The message of mailbox mb is in progress and its operation has begun. -/
def Begun (t : State) (mb : Nat) (m : Msg) : Prop := (t.box mb).msg = some { m with begun := true }

/-- Word offset of the event ring's record that is written next. -/
def ringAt (s : State) : Nat := hmBase + 0x4000 + 32 * ((reg s evtWrOff).toNat % 1024)

/-- The registers that an event touches when the ring has room. -/
def eventRegs (s : State) : List Nat := evtWrOff :: causeRegs 1 0 ++ (List.range 8).map fun j => ringAt s + 4 * j

/-- One record has been put into the event ring of s, HM_EVT_WR counts it, EVT_PENDING is set. -/
structure EventPut (s t : State) (e : EvtRec) : Prop where
  record : ∀ j, j < 8 → reg t (ringAt s + 4 * j) = (wordsOfBytes (evtBytes e)).getD j 0
  counted : reg t evtWrOff = reg s evtWrOff + 1
  told : causeSet t 1 0 0

/-- The event record of a voyage. -/
def voyageEvent (s : State) (vid : Nat) (v : Voyage) (ty status arg0 arg1 : Nat) : EvtRec :=
  { ty := BitVec.ofNat 16 ty, vid := BitVec.ofNat 16 vid, status := BitVec.ofNat 16 status, pid := BitVec.ofNat 8 v.pid,
    tick := s.tide, arg0 := BitVec.ofNat 64 arg0, arg1 := BitVec.ofNat 64 arg1 }

/-- An event record of the device itself. -/
def deviceEvent (s : State) (ty arg0 : Nat) : EvtRec :=
  { ty := BitVec.ofNat 16 ty, vid := 0xFFFF, status := 0, pid := 255, tick := s.tide, arg0 := BitVec.ofNat 64 arg0, arg1 := 0 }

/-- A voyage that was RUNNING is being saved for an emergency: softly, with a deadline of 500 us that escalates (12 R317). -/
def EmergencySaved (s t : State) : Prop := ∀ vid v, s.voyage vid = some v → v.st = vRunning →
  t.voyage vid = some { v with st := vSaving, preempt := some ⟨none, false, true, some (s.tide.toNat + 125000)⟩ }

/-- Basin b is dark: its domains are off, its cores hold nothing and run nothing, its memories refresh themselves. -/
structure GoneDark (s t : State) (b : Nat) : Prop where
  dark : isDark t b = true
  off : getField t (pwrBase + 0x30 + 4 * (b / 32)) (b % 32) 1 = 0
  cores : ∀ c ∈ coresOfBasin s b, (t.core c).tierS = [] ∧ (t.core c).misc.gated = true ∧ (t.core c).sync.run ≠ .running
  mems : ∀ m, m < memCount → engineBasin m = b → (t.engine m).selfRefresh = true

/-- A full device reset has happened: stage 0 of a new boot, every table and memory empty, the clocks anew. -/
structure WasReset (s t : State) : Prop where
  stage0 : getField t (hmBase + 4) 0 8 = 0
  boot : t.bring.boot = s.bring.boot + 1
  clocks : t.cc = 0 ∧ t.tide = 0
  tables : t.voyages = [] ∧ t.parts = [] ∧ t.segs = [] ∧ t.sets = []
  units : t.cores = [] ∧ t.routers = [] ∧ t.engines = [] ∧ t.mem = [] ∧ t.ueBlocks = []
  boxes : t.hm.boxes = [] ∧ t.hm.backlog = []
  kept : t.pending = s.pending ∧ t.host = s.host ∧ t.bring.fuses = s.bring.fuses ∧ t.sec.licence = s.sec.licence ∧
    t.sec.slots = s.sec.slots ∧ t.sec.identity = s.sec.identity
  secrets : t.sec.nonces = [] ∧ t.sec.ideKeys = [] ∧ t.sec.ideSet = none

/-- An authentication has failed: its nonce is used, AUTH_FAIL is raised, the failure counts, and the eighth within 60 s suspends
authentication for 60 s (14 R368). -/
structure AuthFailed (s t : State) (a : AuthReq) : Prop where
  used : t.sec.nonces = s.sec.nonces.filter fun p => p.1 ≠ a.nonce
  told : causeSet t 46 0 6
  counted : (s.sec.authFails.filter fun x => decide (s.tide.toNat < x + minute)).length < 7 →
    t.sec.suspendedUntil = none ∧
      t.sec.authFails = (s.sec.authFails.filter fun x => decide (s.tide.toNat < x + minute)) ++ [s.tide.toNat]
  eighth : 7 ≤ (s.sec.authFails.filter fun x => decide (s.tide.toNat < x + minute)).length →
    t.sec.suspendedUntil = some (s.tide.toNat + minute) ∧ t.sec.authFails = []
  regs : RegsOnly (causeRegs 46 0) s t

/-- Authentication is served: the module works, bring-up has not stopped, and authentication is not suspended. -/
structure AuthServed (s : State) : Prop where
  up : served s = true
  open_ : s.sec.suspendedUntil = none

/-- The module has zeroised: keys, sessions and nonces are gone, its state is ZEROISED, the cause is set (14 R374). -/
structure Zeroised (s t : State) : Prop where
  identity : t.sec.identity = false
  nonces : t.sec.nonces = []
  dump : t.sec.dumpHeld = false ∧ t.sec.dumpKey = s.sec.dumpKey + 1
  ide : t.sec.ideKeys = [] ∧ t.sec.ideSet = none
  sessions : ∀ b, b < busCount → (t.bus b).session = none
  state : moduleState t = 3
  told : causeSet t 46 0 7

/-- The module is in its error state, with no IDE key left (14 R369). -/
structure InError (t : State) (cause : Nat) : Prop where
  state : moduleState t = 2
  ide : t.sec.ideKeys = [] ∧ t.sec.ideSet = none
  told : causeSet t 46 0 cause

/-- Bus b has returned an answer, or refused. -/
def BusGave (t : State) (b : Nat) (code : Byte) (answer : Bytes) : Prop := (t.bus b).code = code ∧ (t.bus b).answer = answer

/-- No bus but b differs. -/
def BusOnly (b : Nat) (s t : State) : Prop := ∀ d, d ≠ b → t.bus d = s.bus d

/-- Hot spot i is read: its site is in use and one of its sensors has been sampled. -/
def SpotRead (s : State) (i : Nat) : Prop :=
  spotSpared s i = false ∧ ∃ k, k / 2 = i ∧ k ∈ s.thermal.sensors.map (·.1)

/-- The mean of a sensor over the 1 ms that ends. -/
def meanOf (s : State) (k : Nat) : Int := (average (sensor s k)).avg

/-- Both sensors of hot spot i are good, neither is stuck, and they agree within 15 degrees. -/
structure PairGood (s : State) (i : Nat) : Prop where
  a : (sensor s (2 * i)).bad = false ∧ stuck s (2 * i) = false
  b : (sensor s (2 * i + 1)).bad = false ∧ stuck s (2 * i + 1) = false
  near : (meanOf s (2 * i) - meanOf s (2 * i + 1)).natAbs ≤ 1500

/-- An emergency has started: its cause is kept, it is told, the storm point is armed, the pumps run at 90 %, voyages are saved (12 R317). -/
structure EmergencyBegun (s t : State) (cause : Nat) : Prop where
  isCause : t.thermal.emergency = some cause
  told : causeSet t 44 0 10
  shown : getField t opStatusOff 11 1 = 1
  demand : reg t thmDemandOff = 900
  armed : stormOn s = false → t.power.stormTick.isSome = true
  saved : EmergencySaved s t
  event : evtHeld s < 1024 → EventPut s t (deviceEvent s 0x0C cause)

/-- A failed or replayed voyage of state s goes on in t as w. -/
def GoesOn (t : State) (vid : Nat) (ok : Voyage → Prop) : Prop := ∃ w, t.voyage vid = some w ∧ ok w

/-- A running voyage for which a replay is due and that has not been replayed too often at its ordinal (13 R331 R332 R341). -/
structure ReplayDue (s : State) (vid : Nat) (v : Voyage) (cause : BitVec 8) : Prop where
  small : vid < 65535
  up : s.hm.hung = none
  is : s.voyage vid = some v
  runs : v.st = vRunning
  due : cause ∈ v.due
  whole : v.savePhase = 0
  left : replaysOut v cause.toNat = false

/-- Every core of the voyage has its record or its shadow of the last mooring point. -/
def RecordsThere (s : State) (vid : Nat) (lost : List Nat) : Prop :=
  ∀ w, s.voyage vid = some w → recordsOf s w (BitVec.ofNat 16 vid) lost ≠ none

/-- The present stage of bring-up can end: bring-up has not stopped, S2 finds the flow proven, and no emergency holds S2 to S8 (14 R354,
15 R389 Table 15-8). -/
structure StageRuns (s : State) : Prop where
  runs : stageState s = 0
  before : stage s < 9
  flow : stage s = 2 → s.bring.flowProven = true
  calm : 2 ≤ stage s → s.thermal.emergency = none

/-- The PCIe link has trained with a partner (10 Table 10-1). -/
def PcieTrained (t : State) (l : PcieTrain) : Prop :=
  t.hm.pcie.width = min 8 l.width ∧ t.hm.pcie.rate = min (if l.flit then 128 else 32) l.rate ∧ t.hm.pcie.flit = l.flit ∧
    (l.flit = false → causeSet t 49 0 4)

/-- No voyage but vid differs. -/
def VoyageOnly (vid : Nat) (s t : State) : Prop := ∀ i, i ≠ vid → t.voyage i = s.voyage i

/-- No segment but sid differs. -/
def SegOnly (sid : Nat) (s t : State) : Prop := ∀ i, i ≠ sid → t.seg i = s.seg i

/-- The message commands of a fixed length: the command, its type, the stage it needs, its length and
its fields (10 Tables 10-9 to 10-13). -/
def fixedMessages : List ((Nat → Instr) × Nat × Nat × Nat × List (Nat × Nat)) :=
  [(.getInfo, 0x01, 0, 16, []), (.getLog, 0x02, 0, 36, [(16, 8), (24, 8), (32, 1)]), (.latencyTolerance, 0x03, 9, 20, [(16, 4)]),
   (.setPanelId, 0x04, 7, 20, [(16, 1)]), (.portTransit, 0x05, 7, 24, [(16, 8)]), (.getDtab, 0x06, 7, 32, [(16, 8), (24, 8)]),
   (.getHealth, 0x07, 9, 20, [(16, 2)]), (.ettSwap, 0x11, 7, 16, []),
   (.segCreate, 0x20, 9, 32, [(16, 8), (24, 1), (25, 1), (26, 1), (27, 1), (28, 1)]), (.segRelease, 0x21, 9, 20, [(16, 2), (18, 1)])] ++
  [(.segMove, 0x22, 9, 24, [(16, 2), (18, 1), (19, 1), (20, 1), (21, 1), (22, 1)]), (.segLoaded, 0x23, 9, 20, [(16, 2), (18, 1)]),
   (.windowSet, 0x24, 9, 56, [(16, 1), (24, 32)]),
   (.replicaCreate, 0x28, 9, 84, [(18, 1), (19, 1), (24, 8), (40, 4), (48, 8), (56, 1), (80, 3)]),
   (.replicaLoad, 0x29, 9, 40, [(16, 2), (18, 2), (20, 1), (21, 1), (22, 1), (24, 4), (32, 8)]),
   (.replicaExport, 0x2A, 9, 24, [(16, 2), (18, 1), (20, 4)]), (.replicaRelease, 0x2B, 9, 20, [(16, 2)])] ++
  [(.partitionCreate, 0x30, 9, 24, [(16, 4), (20, 4)]), (.partitionRelease, 0x31, 9, 20, [(16, 1)]),
   (.voyageLoad, 0x32, 9, 40, [(16, 1), (24, 8), (32, 8)]),
   (.voyageLaunch, 0x33, 9, 36, [(16, 2), (18, 2), (20, 4), (24, 8), (32, 4)]),
   (.preempt, 0x34, 9, 24, [(16, 2), (18, 1), (19, 1), (20, 4)]), (.resume, 0x35, 9, 20, [(16, 2), (18, 1)]),
   (.kill, 0x36, 9, 20, [(16, 2)]), (.voyageStats, 0x37, 9, 20, [(16, 2)])]

end Sys2Proof.Machine
end

