-- ==== Sys2Proof/WellFormed.lean ====
section
/-! DEFINITION. Well-formed slot operations, steps and commands: the conditions of 02 R25 on an encoding, as Machine/Encoding.lean gives them. -/

namespace Sys2Proof

/-- A step that a manifest may hold (02 R25). -/
def Step4.wf (st : Step4) : Bool := Machine.stepOk st

/-- The slot operation that a command issues, as a step of one slot. -/
def Instr.slotStep : Instr → Option Step4
  | .mnop _ => some (Machine.onlyM .nop)
  | .mma _ f => some (Machine.onlyM (.mma f))
  | .mrd _ f => some (Machine.onlyM (.mrd f))
  | .mclr _ f => some (Machine.onlyM (.mclr f))
  | .mst _ f => some (Machine.onlyM (.mst f))
  | .mld _ f => some (Machine.onlyM (.mld f))
  | .vnop _ => some (Machine.onlyV .nop)
  | .vld _ f => some (Machine.onlyV (.vld f))
  | .vst _ f => some (Machine.onlyV (.vst f))
  | .vdq _ f => some (Machine.onlyV (.vdq f))
  | .vqnt _ f => some (Machine.onlyV (.vqnt f))
  | .vfp _ f => some (Machine.onlyV (.vfp f))
  | .vfpi _ f => some (Machine.onlyV (.vfpi f))
  | .vint _ f => some (Machine.onlyV (.vint f))
  | .vinti _ f => some (Machine.onlyV (.vinti f))
  | .vcmp _ f => some (Machine.onlyV (.vcmp f))
  | .vsel _ f => some (Machine.onlyV (.vsel f))
  | .vcvt _ f => some (Machine.onlyV (.vcvt f))
  | .vtr _ f => some (Machine.onlyV (.vtr f))
  | .vexpd _ f => some (Machine.onlyV (.vexpd f))
  | .vred _ f => some (Machine.onlyV (.vred f))
  | .vtopk _ f => some (Machine.onlyV (.vtopk f))
  | .cnop _ => some (Machine.onlyC .nop)
  | .cxfr _ f => some (Machine.onlyC (.cxfr f))
  | .cwait _ f => some (Machine.onlyC (.cwait f))
  | .ctest _ f => some (Machine.onlyC (.ctest f))
  | .cpush _ f => some (Machine.onlyC (.cpush f))
  | .cstat _ q fd => some (Machine.onlyC (.cstat q fd))
  | .cfence _ m => some (Machine.onlyC (.cfence m))
  | .bopen _ f => some (Machine.onlyC (.bopen f))
  | .bclose _ f => some (Machine.onlyC (.bclose f))
  | .snop _ => some (Machine.onlyS .nop)
  | .loop _ f => some (Machine.onlyS (.loop f))
  | .call _ t => some (Machine.onlyS (.call t))
  | .ret _ => some (Machine.onlyS .ret)
  | .xcall _ f => some (Machine.onlyS (.xcall f))
  | .brf _ f => some (Machine.onlyS (.brf f))
  | .pset _ f => some (Machine.onlyS (.pset f))
  | .pmov _ f => some (Machine.onlyS (.pmov f))
  | .fset _ f => some (Machine.onlyS (.fset f))
  | .moor _ mid => some (Machine.onlyS (.moor mid))
  | .bar _ bid h => some (Machine.onlyS (.bar bid h))
  | .rsend _ f => some (Machine.onlyS (.rsend f))
  | .rwait _ tag => some (Machine.onlyS (.rwait tag))
  | .fin _ => some (Machine.onlyS .fin)
  | _ => none

/-- A command whose slot operation, if it carries one, is well formed. -/
def Instr.wf (i : Instr) : Bool :=
  match i.slotStep with
  | some st => st.wf
  | none => true

end Sys2Proof
end

