-- ==== Sys2Proof/Certificates/Slice0/Obligations.lean ====
section
/-! DEFINITION. The statements about the block, for the provers: each is a Prop, written from the numbered rules of spec/. -/

open Sys2Proof Sys2Proof.Machine

/-! ## The step, reset and the canonical form -/

/-- The command at the front of the queue runs on the state with the queue's rest: a step is exec of
that command. (The model's own queue: log entry 16.) -/
def Obligations.StepRunsFront : Prop :=
  ∀ (c : Instr) (rest : List Instr) (s : State),
    step { s with pending := c :: rest } = exec c { s with pending := rest }

/-- On an empty queue a step is one period of CLK_CORE (DESIGN CHOICE, log entry 2): outside the relock hold
cc rises by 1, and the tide count by 1 exactly when the surplus of tenths reaches a tick at the
running operating point; a period is longer, by at most its own length, only where a basin stretches it (05 R122); in
the hold of R304 the tide count rises alone and no core moves. -/
def Obligations.IdleStepPassesOnePeriod : Prop :=
  ∀ s : State, s.pending = [] → ∃ t, step s = .next t ∧
    (s.power.holding = none → t.cc = s.cc + 1 ∧
      ∃ extra, extra ≤ 10 ∧ ((∀ b, b < basinCount → stretches s b = false) → extra = 0) ∧
        (t.tide = s.tide + 1 ∧ t.ccPhase + ccRate (opNow s) = s.ccPhase + 10 + extra ∨
          t.tide = s.tide ∧ t.ccPhase = s.ccPhase + 10 + extra ∧ s.ccPhase + 10 + extra < ccRate (opNow s))) ∧
    (s.power.holding.isSome = true → t.cc = s.cc ∧ t.tide = s.tide + 1 ∧ t.cores = s.cores) ∧
    OnlyIn [.clock, .hm, .cores, .regs, .log, .voyages, .free, .power] s t

/-- Every command leaves the queue of waiting commands alone: first in, first out is the step's. -/
def Obligations.CommandsLeaveTheQueue : Prop :=
  ∀ (c : Instr) (s t : State), exec c s = .next t → t.pending = s.pending

/-- Every step keeps every sparse map in canonical form (keys strictly rising, no entry equal to what an unlisted key reads
as): memory, host memory, registers, the events of the cycle, cores, routers, engines, segments, sets, partitions, voyages, ports and sites. -/
def Obligations.StepKeepsCanonicalForm : Prop :=
  ∀ s t : State, s.canonical = true → step s = .next t → t.canonical = true

/-! ## The manifest step's encoding (02 R24 Table 2-2, 03, 04) -/

/-- Every well-formed manifest step survives encoding: no operand bit of a slot is dropped. -/
def Obligations.DecodeOfEncode : Prop :=
  ∀ st : Step4, st.wf = true → decodeStep (encodeStep st) = some st

/-- Every word that decodes has one meaning: it is the encoding of the step it decodes to, so no
reserved bit is ignored (02 R25). -/
def Obligations.EncodeOfDecode : Prop :=
  ∀ (w : BitVec 256) (st : Step4), decodeStep w = some st → encodeStep st = w

/-! ## Issue (02 R26 to R32) -/

/-- 02 R28: a step that stalls leaves the core and everything else as it is; it issues later. 02 R26 R27: a step at MP whose S slot is a no-op issues whole once nothing holds it. Every slot's results become
pending with what the register operands give at issue, no register and no byte of Tier S changes yet,
MP moves to the next step, which issues a cc later at the earliest, and no other core changes. -/
def Obligations.StepsStallOrIssue : Prop :=
  (∀ (s : State) (c : Nat) (st : Step4), c < coreCount →
    decodeStep (look 0 (s.core c).seq.manifest (s.core c).seq.mp.toNat) = some st → stepOk st = true →
    stalled (s.core c) s.cc st = true → exec (.stepIssue c) s = .next s) ∧
  (∀ (s : State) (c : Nat) (st : Step4),
    decodeStep (look 0 (s.core c).seq.manifest (s.core c).seq.mp.toNat) = some st → Issuable s c st →
    st.s = .nop → tokensReady (s.core c) s.cc st.c = true → (mSlot (s.core c) st.m).halt = false →
    ∃ t, exec (.stepIssue c) s = .next t ∧
      ((mSlot (s.core c) st.m).lat ≠ 0 → PendsOut s t c 0 (.m st.m) (mSlot (s.core c) st.m)) ∧
      ((mSlot (s.core c) st.m).fast ≠ [] → Pends s t c 0 (mSlot (s.core c) st.m).fast) ∧
      ((vSlot (s.core c) st.v).lat ≠ 0 → PendsOut s t c 1 (.v st.v) (vSlot (s.core c) st.v)) ∧
      ((cIssue (s.core c) s.cc (coreId s c) st.c).writes ≠ [] →
        Pends s t c 2 (cIssue (s.core c) s.cc (coreId s c) st.c).writes) ∧
      (t.core c).seq.mp = (advance (s.core c) s.cc).core.seq.mp ∧ (t.core c).seq.nextIssue = s.cc + 1 ∧
      DataKept s t c ∧ CoreOnly c s t ∧ OnlyIn [.cores, .regs, .log] s t)

/-- 04 R99, 02 R29: at the last step of the innermost loop the back-edge goes to the body's first step with L one higher
while passes remain, and else leaves the loop; it costs no cycle. Elsewhere MP rises by one. A call and a return cost one
bubble cc. 04 R81 R99 R101: a LOOP or CALL beyond eight frames and a RET without a call frame on top halt the core: its cause CORE_FAULT is
set, and the core issues nothing more. -/
def Obligations.LoopsAndStackErrors : Prop :=
  (∀ (k : Core) (cc : Nat),
    (∀ fr r, k.seq.stack = fr :: r → fr.isLoop = true → fr.last = k.seq.mp → (lReg k fr.ln).toNat + 1 < fr.trips.toNat →
      (advance k cc).core.seq.mp = fr.start ∧ (advance k cc).writes = [.l fr.ln (lReg k fr.ln + 1)] ∧
        (advance k cc).core.seq.stack = k.seq.stack) ∧
    (∀ fr r, k.seq.stack = fr :: r → fr.isLoop = true → fr.last = k.seq.mp → fr.trips.toNat ≤ (lReg k fr.ln).toNat + 1 →
      (advance k cc).core.seq.mp = k.seq.mp + 1 ∧ (advance k cc).writes = [] ∧ (advance k cc).core.seq.stack = r) ∧
    ((∀ fr r, k.seq.stack = fr :: r → fr.isLoop = true → fr.last ≠ k.seq.mp) →
      (advance k cc).core.seq.mp = k.seq.mp + 1 ∧ (advance k cc).writes = [] ∧
        (advance k cc).core.seq.stack = k.seq.stack) ∧
    (advance k cc).core.seq.nextIssue = cc + 1) ∧
  (∀ (s : State) (c : Nat), s.voyage (s.core c).misc.vid.toNat = none →
    (∀ f, Issuable s c (onlyS (.loop f)) → loopCount (s.core c) f ≠ 0 → 8 ≤ (s.core c).seq.stack.length →
      ∃ t, exec (.loop c f) s = .next t ∧ (t.core c).sync.run = .halted ∧ causeSet t (2 + basinOf s c) (leafOf s c) 4 ∧
        (t.core c).seq = (s.core c).seq ∧ CoreOnly c s t) ∧
    (∀ tgt, Issuable s c (onlyS (.call tgt)) → 8 ≤ (s.core c).seq.stack.length →
      ∃ t, exec (.call c tgt) s = .next t ∧ (t.core c).sync.run = .halted ∧ causeSet t (2 + basinOf s c) (leafOf s c) 4 ∧
        (t.core c).seq = (s.core c).seq ∧ CoreOnly c s t) ∧
    (Issuable s c (onlyS .ret) → (∀ fr r, (s.core c).seq.stack = fr :: r → fr.isLoop = true) →
      ∃ t, exec (.ret c) s = .next t ∧ (t.core c).sync.run = .halted ∧ causeSet t (2 + basinOf s c) (leafOf s c) 4 ∧
        (t.core c).seq = (s.core c).seq ∧ CoreOnly c s t)) ∧
  (∀ (s : State) (c : Nat),
    (∀ tgt, Issuable s c (onlyS (.call tgt)) → (s.core c).seq.stack.length < 8 →
      ∃ t, exec (.call c tgt) s = .next t ∧ (t.core c).seq.nextIssue = s.cc + 2) ∧
    (∀ fr r, Issuable s c (onlyS .ret) → (s.core c).seq.stack = fr :: r → fr.isLoop = false →
      ∃ t, exec (.ret c) s = .next t ∧ (t.core c).seq.nextIssue = s.cc + 2))

/-- 03 R53 R57 to R65: MNOP, MMA, MRD, MCLR, MST and MLD issue, and their results become pending. A GL4
accumulation into a pair whose scale exponents differ halts instead (03 R59). -/
def Obligations.MSlotCommandsIssue : Prop :=
  ∀ (s : State) (c : Nat) (m : MOp), Issuable s c (onlyM m) → (mSlot (s.core c) m).halt = false →
    ∃ t, exec (mCommand c m) s = .next t ∧
      ((mSlot (s.core c) m).lat ≠ 0 → PendsOut s t c 0 (.m m) (mSlot (s.core c) m)) ∧
      ((mSlot (s.core c) m).fast ≠ [] → Pends s t c 0 (mSlot (s.core c) m).fast) ∧
      (t.core c).seq.mp = (advance (s.core c) s.cc).core.seq.mp ∧ (t.core c).seq.nextIssue = s.cc + 1 ∧
      (t.core c).sync = { (s.core c).sync with waiting := none, waitSince := none, waitLong := false } ∧
      DataKept s t c ∧ CoreOnly c s t ∧ OnlyIn [.cores, .regs, .log] s t

/-- 03 R66 to R79: VNOP, VLD, VST, VDQ, VQNT, VFP, VFPI, VINT, VINTI, VCMP, VSEL, VCVT, VTR, VEXPD, VRED and VTOPK
issue, and their results become pending. -/
def Obligations.VSlotCommandsIssue : Prop :=
  ∀ (s : State) (c : Nat) (v : VOp), Issuable s c (onlyV v) →
    ∃ t, exec (vCommand c v) s = .next t ∧
      ((vSlot (s.core c) v).lat ≠ 0 → PendsOut s t c 1 (.v v) (vSlot (s.core c) v)) ∧
      (t.core c).seq.mp = (advance (s.core c) s.cc).core.seq.mp ∧ (t.core c).seq.nextIssue = s.cc + 1 ∧
      (t.core c).sync = { (s.core c).sync with waiting := none, waitSince := none, waitLong := false } ∧
      DataKept s t c ∧ CoreOnly c s t ∧ OnlyIn [.cores, .regs, .log] s t

/-- 03 R53: the k-th pending operation of a core, once its last result is due and no earlier one goes first, writes its results,
its events take effect in F7 and the counters (02 R50 R51), and it is pending no more. An FSET clears its bits of F7, but none
that an RWAIT issued after it has set (02 R50). Nothing else changes. -/
def Obligations.ResultsAreWrittenWhenDue : Prop :=
  ∀ (s : State) (c k : Nat) (o : PendOp), c < coreCount → (s.core c).seq.pend[k]? = some o → dueOf o ≤ s.cc →
    ((s.core c).seq.pend.take k).any (goesBefore o) = false →
    let ws := (resultsOf (s.core c) o).writes
    ∃ t, exec (.operationResultWrite c k) s = .next t ∧
      (t.core c).seq = { (s.core c).seq with pend := dropAt (s.core c).seq.pend k } ∧
      ((∀ w ∈ ws, ∀ r, Reg.f r ∉ wrReg w) →
        ∀ r, fReg (t.core c) r = if r = 7 then fReg (s.core c) 7 ||| (resultsOf (s.core c) o).ev.f7 else fReg (s.core c) r) ∧
      (∀ m, ws = [.f7clear m] → fReg (t.core c) 7 =
        fReg (s.core c) 7 &&& ~~~(if o.issued < (s.core c).seq.f7At then m &&& ~~~(s.core c).seq.f7New else m) |||
          (resultsOf (s.core c) o).ev.f7) ∧
      (∀ r x, ws = [.p r x] → ∀ q, pReg (t.core c) q = if q = r then x else pReg (s.core c) q) ∧
      (∀ r x, ws = [.l r x] → ∀ q, lReg (t.core c) q = if q = r then x else lReg (s.core c) q) ∧
      (∀ i, (∀ x, Wr.v i x ∉ ws) → look 0 (t.core c).regs.v i = look 0 (s.core c).regs.v i) ∧
      (∀ i x, Wr.v i x ∈ ws → (∀ y, Wr.v i y ∈ ws → y = x) → look 0 (t.core c).regs.v i = x) ∧
      (∀ i, (∀ x, Wr.e i x ∉ ws) → look {} (t.core c).regs.e i = look {} (s.core c).regs.e i) ∧
      (∀ i x, Wr.e i x ∈ ws → (∀ y, Wr.e i y ∈ ws → y = x) → look {} (t.core c).regs.e i = x) ∧
      (t.core c).tierS = (s.core c).tierS ∧ CoreOnly c s t ∧ OnlyIn [.cores, .regs, .log] s t ∧
      ((resultsOf (s.core c) o).conds = [] → OnlyIn [.cores] s t)

/-- 03 R72, R53: VINT writes lane i of Vd with the function of lane i of Va and of b, and no other
register, when its result is written two cc after its issue. 03 R69, 03 R54: VLD at stride 1 with an aligned address in range,
its accesses made, loads 512 consecutive bytes of Tier S into the lanes of the register; VST's accesses store the lanes in the
same order into those bytes and into no other. -/
def Obligations.VectorResults : Prop :=
  (∀ (s : State) (c : Nat) (f : VrF), Issuable s c (onlyV (.vint f)) → (s.core c).seq.pend = [] →
    (s.core c).seq.stack = [] →
    ∃ t u, exec (.vint c f) s = .next t ∧
      exec (.operationResultWrite c 0) { t with cc := s.cc + 2 } = .next u ∧
      (∀ i, i < 128 → vLane (u.core c) f.vd i =
        vintLane f.fn.toNat (vLane (s.core c) f.va i) (bLane (s.core c) f i)) ∧
      (∀ r i, r ≠ f.vd → i < 128 → vLane (u.core c) r i = vLane (s.core c) r i) ∧
      (u.core c).seq.pend = [] ∧ CoreOnly c s u) ∧
  (∀ (k : Core) (f : VmF), f.str.toNat ≤ 1 → ea k f.p f.o.toNat 64 % 64 = 0 → ea k f.p f.o.toNat 64 + 512 ≤ spadSize →
    (vldOut k f).conds = [] ∧
    (∀ o : PendOp, o.streams = (finishStreams (vldOut k f).streams k).2 → ∀ i, i < 128 → .v (128 * f.vr.toNat + i)
      (BitVec.ofNat 32 (leNat (spadRead k (ea k f.p f.o.toNat 64 + 4 * i) 4))) ∈ (vldResult k (seenByte o) f).writes) ∧
    (finishStreams (vldOut k f).streams k).1 = k ∧
    (vstOut k f).conds = [] ∧
    (∀ i j, i < 128 → j < 4 → spadByte (finishStreams (vstOut k f).streams k).1 (ea k f.p f.o.toNat 64 + 4 * i + j) =
      BitVec.ofNat 8 ((vLane k f.vr i).toNat / 256 ^ j % 256)) ∧
    (∀ a, a < ea k f.p f.o.toNat 64 ∨ ea k f.p f.o.toNat 64 + 512 ≤ a →
      spadByte (finishStreams (vstOut k f).streams k).1 a = spadByte k a) ∧
    (finishStreams (vstOut k f).streams k).1.regs = k.regs)

/-- 02 R41: the terms of an operation are rounded to the tile's grid one by one and summed exactly; the element saturates at
the bounds of sint(96) and keeps SAT. An invalid term sets INV alone, and an element with INV or SAT set takes no valid term. 07 R176: two images of a tag merge element by element, and NX by OR; merging two elements is exact and saturating, the same
either way round; INV of one makes the result invalid and its value 0, and SAT of one stays. -/
def Obligations.AccumulationIsExact : Prop :=
  (∀ (x : Elem) (terms : List (Option Dy)) (t : Int),
    ((∃ u ∈ terms, u = none) → (accumulate x terms t).1 = { x with inv := true }) ∧
    ((∀ u ∈ terms, u ≠ none) → x.inv = true ∨ x.sat = true → (accumulate x terms t).1 = x) ∧
    ((∀ u ∈ terms, u ≠ none) → x.inv = false → x.sat = false →
      let sum := x.a.toInt +
        (terms.map fun u => roundInt (DyOps.shift (u.getD (DyOps.ofInt 0)) (48 - t))).foldl (· + ·) 0
      (accumulate x terms t).1.a.toInt = max (-(2 ^ 95)) (min (2 ^ 95 - 1) sum) ∧
      ((accumulate x terms t).1.sat = true ↔ sum < -(2 ^ 95) ∨ 2 ^ 95 - 1 < sum) ∧
      (accumulate x terms t).1.inv = false)) ∧
  (∀ x y : TileImg, (mergeImg x y).nx = (x.nx || y.nx) ∧
    ∀ i, i < 1024 → look {} (mergeImg x y).elems i = mergeElem (look {} x.elems i) (look {} y.elems i)) ∧
  (∀ x y : Elem, mergeElem x y = mergeElem y x ∧ ((mergeElem x y).inv = (x.inv || y.inv)) ∧
    (x.inv = true ∨ y.inv = true → mergeElem x y = { a := 0, sat := x.sat || y.sat, inv := true }) ∧
    (x.inv = false → y.inv = false →
      (mergeElem x y).a.toInt = max (-(2 ^ 95)) (min (2 ^ 95 - 1) (x.a.toInt + y.a.toInt)) ∧
      ((mergeElem x y).sat = true ↔ x.sat = true ∨ y.sat = true ∨ x.a.toInt + y.a.toInt < -(2 ^ 95) ∨
        2 ^ 95 - 1 < x.a.toInt + y.a.toInt)))

/-! ## The crane slot and the sequence slot (04) -/

/-- 04 R90 to R95: CNOP, CXFR, CTEST, CPUSH, CSTAT and CFENCE issue. CXFR takes the 40 descriptor bytes at ea and joins its
queue, CTEST answers whether COUNT, as the cc began, reaches n without consuming, CPUSH joins its queue as a push of n tokens,
CSTAT reads the queue's error record as the cc began and clears it, CFENCE changes nothing. -/
def Obligations.CraneSlotCommandsIssue : Prop :=
  ∀ (s : State) (c : Nat),
    (Issuable s c (onlyC .nop) → ∃ t, exec (.cnop c) s = .next t ∧ (t.core c).berths = (s.core c).berths ∧
      (t.core c).crane.cerr = (s.core c).crane.cerr ∧ (t.core c).sync.q = (s.core c).sync.q ∧
      DataKept s t c ∧ CoreOnly c s t ∧ OnlyIn [.cores, .regs, .log] s t) ∧
    (∀ f, Issuable s c (onlyC (.cxfr f)) → ∃ t l e, exec (.cxfr c f) s = .next t ∧
      queueOf (t.core c) f.cqn.toNat = l ++ [e] ∧ l.length = (queueOf (s.core c) f.cqn.toNat).length ∧
      e.push = false ∧ e.step = (s.core c).seq.mp ∧ e.wb = f.wb ∧ e.issued = s.cc ∧
      e.desc = BitVec.ofNat 320 (leNat (spadRead (s.core c) (aligned (ea (s.core c) f.p f.o.toNat 64) 64) 40)) ∧
      DataKept s t c ∧ CoreOnly c s t ∧ OnlyIn [.cores, .regs, .log] s t) ∧
    (∀ f, Issuable s c (onlyC (.ctest f)) → ∃ t, exec (.ctest c f) s = .next t ∧
      Pends s t c 2 [.fbit f.fd f.fbit (decide (f.nm1.toNat + 1 ≤ countAt (qEnd (s.core c) f.qe.toNat) s.cc))] ∧
      (t.core c).sync.q = (s.core c).sync.q ∧ DataKept s t c ∧ CoreOnly c s t ∧ OnlyIn [.cores, .regs, .log] s t) ∧
    (∀ f, Issuable s c (onlyC (.cpush f)) → ∃ t l e, exec (.cpush c f) s = .next t ∧
      queueOf (t.core c) f.cqn.toNat = l ++ [e] ∧ l.length = (queueOf (s.core c) f.cqn.toNat).length ∧
      e.push = true ∧ e.qe = f.qe ∧ e.ep = f.ep ∧ e.n = f.nm1.toNat + 1 ∧
      DataKept s t c ∧ CoreOnly c s t ∧ OnlyIn [.cores, .regs, .log] s t) ∧
    (∀ q fd, Issuable s c (onlyC (.cstat q fd)) → ∃ t, exec (.cstat c q fd) s = .next t ∧
      Pends s t c 2 [.f fd (BitVec.ofNat 32 ((cerrAt (s.core c) q.toNat s.cc).status.toNat +
        256 * (cerrAt (s.core c) q.toNat s.cc).count.toNat + 65536 * (cerrAt (s.core c) q.toNat s.cc).seq.toNat))] ∧
      cerrAt (t.core c) q.toNat s.cc = {} ∧ (∀ i, i ≠ q.toNat → cerrAt (t.core c) i s.cc = cerrAt (s.core c) i s.cc) ∧
      DataKept s t c ∧ CoreOnly c s t ∧ OnlyIn [.cores, .regs, .log] s t) ∧
    (∀ m, Issuable s c (onlyC (.cfence m)) →
      (∀ q, q < 8 → m.getLsbD q = true → queueOf (s.core c) q = []) ∧
      ∃ t, exec (.cfence c m) s = .next t ∧ (t.core c).berths = (s.core c).berths ∧ (t.core c).sync.q = (s.core c).sync.q ∧
      DataKept s t c ∧ CoreOnly c s t ∧ OnlyIn [.cores, .regs, .log] s t)

/-- 04 R91, 06 R141 R142, 04 R96 R97: CWAIT consumes n tokens where COUNT held them as the cc began, and else waits with the tick of its start; BOPEN opens a closed berth, whose last
generation differs, over a range inside Tier S; BCLOSE closes the berth and its drain begins. -/
def Obligations.WaitAndBerthCommandsIssue : Prop :=
  ∀ (s : State) (c : Nat),
    (∀ f, Issuable s c (onlyC (.cwait f)) → f.nm1.toNat + 1 ≤ countAt (qEnd (s.core c) f.qe.toNat) s.cc →
      ∃ t, exec (.cwait c f) s = .next t ∧
      (∀ i, qEnd (t.core c) i = if i = f.qe.toNat then { qEnd (s.core c) i with
        count := (qEnd (s.core c) i).count - BitVec.ofNat 16 (f.nm1.toNat + 1) } else qEnd (s.core c) i) ∧
      (t.core c).sync.waiting = none ∧ DataKept s t c ∧ CoreOnly c s t ∧ OnlyIn [.cores, .regs, .log] s t) ∧
    (∀ f, Issuable s c (onlyC (.cwait f)) → countAt (qEnd (s.core c) f.qe.toNat) s.cc < f.nm1.toNat + 1 →
      (qEnd (s.core c) f.qe.toNat).isOpen = true ∨
        f.nm1.toNat + 1 ≤ countAt (qEnd (s.core c) f.qe.toNat) s.cc + outAt (qEnd (s.core c) f.qe.toNat) s.cc →
      ∃ t, exec (.cwait c f) s = .next t ∧ (t.core c).sync.waiting = some (onlyC (.cwait f)) ∧
        (t.core c).sync.waitSince = some ((s.core c).sync.waitSince.getD s.tide.toNat) ∧
        (t.core c).seq = (s.core c).seq ∧ (∀ i, qEnd (t.core c) i = qEnd (s.core c) i) ∧
        CoreOnly c s t ∧ OnlyIn [.cores] s t) ∧
    (∀ f, Issuable s c (onlyC (.bopen f)) →
      aligned (ea (s.core c) f.p f.o.toNat 64) 64 + f.len.toNat * 64 ≤ spadSize →
      (berthOf (s.core c) f.idx.toNat).isOpen = false →
      ((berthOf (s.core c) f.idx.toNat).hasLast = true → (berthOf (s.core c) f.idx.toNat).lastGen ≠ f.gen) →
      ∃ t, exec (.bopen c f) s = .next t ∧
      (berthOf (t.core c) f.idx.toNat).isOpen = true ∧ (berthOf (t.core c) f.idx.toNat).gen = f.gen ∧
      (berthOf (t.core c) f.idx.toNat).base.toNat = aligned (ea (s.core c) f.p f.o.toNat 64) 64 ∧
      (berthOf (t.core c) f.idx.toNat).len.toNat = f.len.toNat * 64 ∧
      (berthOf (t.core c) f.idx.toNat).src = f.src ∧ (berthOf (t.core c) f.idx.toNat).rd = f.rd ∧
      (berthOf (t.core c) f.idx.toNat).wr = f.wr ∧ (berthOf (t.core c) f.idx.toNat).acceptFrom = s.cc + 2 ∧
      (∀ i, i ≠ f.idx.toNat → berthOf (t.core c) i = berthOf (s.core c) i) ∧
      DataKept s t c ∧ CoreOnly c s t ∧ OnlyIn [.cores, .regs, .log] s t) ∧
    (∀ f, Issuable s c (onlyC (.bclose f)) → (berthOf (s.core c) f.idx.toNat).isOpen = true →
      ∃ t, exec (.bclose c f) s = .next t ∧
      berthOf (t.core c) f.idx.toNat = { berthOf (s.core c) f.idx.toNat with isOpen := false } ∧
      (t.core c).berths.drains = (s.core c).berths.drains ++
        [⟨f.idx, berthOf (s.core c) f.idx.toNat, f.aen, f.qe, s.cc, (s.core c).seq.mp⟩] ∧
      (∀ i, i ≠ f.idx.toNat → berthOf (t.core c) i = berthOf (s.core c) i) ∧
      DataKept s t c ∧ CoreOnly c s t ∧ OnlyIn [.cores, .regs, .log] s t)

/-- 04 R99 to R105, 02 R29 R31 R32: SNOP, LOOP, CALL, RET, XCALL, BRF, PSET, PMOV and FSET issue: where MP goes, from which cc
the next step may issue, what the loop stack holds, and the results that become pending. -/
def Obligations.SequenceSlotCommandsIssue : Prop :=
  ∀ (s : State) (c : Nat),
    (Issuable s c (onlyS .nop) → ∃ t, exec (.snop c) s = .next t ∧
      (t.core c).seq.mp = (advance (s.core c) s.cc).core.seq.mp ∧ (t.core c).seq.nextIssue = s.cc + 1 ∧
      DataKept s t c ∧ CoreOnly c s t ∧ OnlyIn [.cores, .regs, .log] s t) ∧
    (∀ f, Issuable s c (onlyS (.loop f)) → loopCount (s.core c) f ≠ 0 → (s.core c).seq.stack.length < 8 →
      ∃ t, exec (.loop c f) s = .next t ∧ (t.core c).seq.mp = (s.core c).seq.mp + 1 ∧ (t.core c).seq.nextIssue = s.cc + 1 ∧
      (t.core c).seq.stack = ⟨true, (s.core c).seq.mp + 1, f.last, f.ln, loopCount (s.core c) f⟩ ::
        (s.core c).seq.stack ∧
      Pends s t c 3 [.l f.ln 0] ∧ DataKept s t c ∧ CoreOnly c s t ∧ OnlyIn [.cores, .regs, .log] s t) ∧
    (∀ f, Issuable s c (onlyS (.loop f)) → loopCount (s.core c) f = 0 →
      ∃ t, exec (.loop c f) s = .next t ∧ (t.core c).seq.mp = f.last + 1 ∧ (t.core c).seq.nextIssue = s.cc + 2 ∧
      (t.core c).seq.stack = (s.core c).seq.stack ∧ DataKept s t c ∧ CoreOnly c s t ∧ OnlyIn [.cores, .regs, .log] s t) ∧
    (∀ tgt, Issuable s c (onlyS (.call tgt)) → (s.core c).seq.stack.length < 8 →
      ∃ t, exec (.call c tgt) s = .next t ∧ (t.core c).seq.mp = tgt ∧ (t.core c).seq.nextIssue = s.cc + 2 ∧
      (t.core c).seq.stack = callFrame (s.core c) :: (s.core c).seq.stack ∧
      DataKept s t c ∧ CoreOnly c s t ∧ OnlyIn [.cores, .regs, .log] s t) ∧
    (∀ fr r, Issuable s c (onlyS .ret) → (s.core c).seq.stack = fr :: r → fr.isLoop = false →
      ∃ t, exec (.ret c) s = .next t ∧ (t.core c).seq.mp = fr.start ∧ (t.core c).seq.nextIssue = s.cc + 2 ∧
      (t.core c).seq.stack = r ∧ DataKept s t c ∧ CoreOnly c s t ∧ OnlyIn [.cores, .regs, .log] s t) ∧
    (∀ f, Issuable s c (onlyS (.xcall f)) → (s.core c).seq.stack.length < 8 →
      badStep (imageOf s c) (coreXY s c).1 (coreXY s c).2 (fun q => (qEnd (s.core c) q).isOpen)
        (mainLoops (s.core c)) overlayBase true true (segmentWords (s.core c) (aligned (ea (s.core c) f.p f.o.toNat 64) 64) (f.nm1.toNat + 1)) = none →
      ∃ t, exec (.xcall c f) s = .next t ∧ (t.core c).seq.mp.toNat = 7168 ∧
      (t.core c).seq.nextIssue = s.cc + 8 + (f.nm1.toNat + 2) / 2 ∧
      (t.core c).seq.stack = callFrame (s.core c) :: (s.core c).seq.stack ∧
      (∀ i, i < f.nm1.toNat + 1 → look 0 (t.core c).seq.manifest (7168 + i) =
        BitVec.ofNat 256 (leNat (spadRead (s.core c) (aligned (ea (s.core c) f.p f.o.toNat 64) 64 + 32 * i) 32))) ∧
      DataKept s t c ∧ CoreOnly c s t ∧ OnlyIn [.cores, .regs, .log] s t) ∧
    (∀ f, Issuable s c (onlyS (.brf f)) → ∃ t, exec (.brf c f) s = .next t ∧
      (t.core c).seq.mp = (if (fReg (s.core c) f.fd).getLsbD f.fbit.toNat = f.sense then f.tgt
        else (advance (s.core c) s.cc).core.seq.mp) ∧ (t.core c).seq.nextIssue = s.cc + 2 ∧
      DataKept s t c ∧ CoreOnly c s t ∧ OnlyIn [.cores, .regs, .log] s t) ∧
    (∀ f, Issuable s c (onlyS (.pset f)) → ∃ t, exec (.pset c f) s = .next t ∧
      Pends s t c 3 ((advance (s.core c) s.cc).writes ++
        [.p f.pd (if f.add then pReg (s.core c) f.pd + f.imm else f.imm)]) ∧
      (t.core c).seq.mp = (advance (s.core c) s.cc).core.seq.mp ∧
      DataKept s t c ∧ CoreOnly c s t ∧ OnlyIn [.cores, .regs, .log] s t) ∧
    (∀ f, Issuable s c (onlyS (.pmov f)) → ∃ t, exec (.pmov c f) s = .next t ∧
      Pends s t c 3 ((advance (s.core c) s.cc).writes ++ [.p f.pd (if f.ul then
        pReg (s.core c) f.ps + BitVec.ofNat 32 ((lReg (s.core c) f.ls).toNat * f.scale.toNat) else pReg (s.core c) f.ps)]) ∧
      (t.core c).seq.mp = (advance (s.core c) s.cc).core.seq.mp ∧
      DataKept s t c ∧ CoreOnly c s t ∧ OnlyIn [.cores, .regs, .log] s t) ∧
    (∀ f, Issuable s c (onlyS (.fset f)) → ∃ t, exec (.fset c f) s = .next t ∧
      Pends s t c 3 ((advance (s.core c) s.cc).writes ++ [fsetWr (s.core c) f]) ∧
      (t.core c).seq.mp = (advance (s.core c) s.cc).core.seq.mp ∧
      DataKept s t c ∧ CoreOnly c s t ∧ OnlyIn [.cores, .regs, .log] s t)

/-- 04 R107 to R112, 07 R179: MOOR and BAR wait at their join (MOOR with its record in the shadow router), RSEND's contribution waits
for injection with its source held, RWAIT takes the result that has landed and flips its tag's round, END ends the core. -/
def Obligations.SyncCommandsIssue : Prop :=
  ∀ (s : State) (c : Nat),
    (∀ mid, Issuable s c (onlyS (.moor mid)) → moorBad (s.core c) = false → ∃ t, exec (.moor c mid) s = .next t ∧
      (t.core c).sync.waiting = some (onlyS (.moor mid)) ∧ (t.core c).seq = (s.core c).seq ∧
      (t.router (shadowOf c)).shadow = some (moorRec (s.core c) mid) ∧
      DataKept s t c ∧ CoreOnly c s t ∧ OnlyIn [.cores, .routers] s t) ∧
    (∀ bid hold, Issuable s c (onlyS (.bar bid hold)) → ∃ t, exec (.bar c bid hold) s = .next t ∧
      (t.core c).sync.waiting = some (onlyS (.bar bid hold)) ∧ (t.core c).seq = (s.core c).seq ∧
      DataKept s t c ∧ CoreOnly c s t ∧ OnlyIn [.cores] s t) ∧
    (∀ f, Issuable s c (onlyS (.rsend f)) → ∃ t, exec (.rsend c f) s = .next t ∧
      (t.core c).sync.rsends = (s.core c).sync.rsends ++
        [⟨f.tag, f.kind, aligned (ea (s.core c) f.p f.o.toNat 64) 64, s.cc, (s.core c).seq.mp⟩] ∧
      (∃ h, h ∈ (t.core c).seq.haz ∧ h.rsend = some s.cc ∧
        h.lo = aligned (ea (s.core c) f.p f.o.toNat 64) 64 ∧ h.hi + 1 = h.lo + (if f.kind then 4096 else 12608)) ∧
      DataKept s t c ∧ CoreOnly c s t ∧ OnlyIn [.cores, .regs, .log] s t) ∧
    (∀ tag l rest, Issuable s c (onlyS (.rwait tag)) →
      takeFirst (fun l : Landed => l.tag = tag) (s.core c).sync.landed = some (l, rest) →
      ∃ t, exec (.rwait c tag) s = .next t ∧ (t.core c).sync.landed = rest ∧
      (tag ∈ (t.core c).sync.round ↔ tag ∉ (s.core c).sync.round) ∧ tag ∈ (t.core c).sync.credits ∧
      fReg (t.core c) 7 = fReg (s.core c) 7 ||| l.f7 ∧ (t.core c).tierS = (s.core c).tierS ∧
      CoreOnly c s t ∧ OnlyIn [.cores, .regs, .log] s t) ∧
    (Issuable s c (onlyS .fin) → ∃ t, exec (.fin c) s = .next t ∧ (t.core c).sync.run = .ended ∧
      (∀ i, i < 16 → (berthOf (t.core c) i).isOpen = false) ∧ (∀ q, qEnd (t.core c) q = {}) ∧
      DataKept s t c ∧ CoreOnly c s t ∧ OnlyIn [.cores, .regs, .log] s t)

/-! ## Waits, joins and tokens (04, 06, 07) -/

/-- 04 R82 R91 R97, 06 R142: a token arrives and COUNT takes it, a local one lowering OUT, which the running cc does not see; one
beyond 65,535 is lost with QUEUE_OVERFLOW; an endpoint that is not bound, or LOCAL to another unit's token, takes none, and the
sender is answered ACCESS_DENIED; a CWAIT that exceeds its OPEN endpoint's limit raises WAIT_LONG once and goes on waiting; a close
whose last accepted packet has landed delivers its token. -/
def Obligations.TokensAndWaits : Prop :=
  ∀ (s : State) (c : Nat), c < coreCount →
    (∀ tk rest, (s.core c).sync.tokens = tk :: rest → tk.local_ = true → (qEnd (s.core c) tk.qe.toNat).bound = true →
      (qEnd (s.core c) tk.qe.toNat).count.toNat + tk.n ≤ 65535 →
      ∃ t, exec (.tokenArrival c) s = .next t ∧ (t.core c).sync.tokens = rest ∧
        (qEnd (t.core c) tk.qe.toNat).count = (qEnd (s.core c) tk.qe.toNat).count + BitVec.ofNat 16 tk.n ∧
        (qEnd (t.core c) tk.qe.toNat).out = (qEnd (s.core c) tk.qe.toNat).out - BitVec.ofNat 16 tk.n ∧
        ((qEnd (s.core c) tk.qe.toNat).fresh.toNat ≤ (qEnd (s.core c) tk.qe.toNat).count.toNat →
          countAt (qEnd (t.core c) tk.qe.toNat) s.cc = countAt (qEnd (s.core c) tk.qe.toNat) s.cc) ∧
        (∀ q, q ≠ tk.qe.toNat → qEnd (t.core c) q = qEnd (s.core c) q) ∧ CoreOnly c s t ∧ OnlyIn [.cores] s t) ∧
    (∀ tk rest, (s.core c).sync.tokens = tk :: rest → tk.local_ = true → (qEnd (s.core c) tk.qe.toNat).bound = true →
      65535 < (qEnd (s.core c) tk.qe.toNat).count.toNat + tk.n →
      ∃ t, exec (.tokenArrival c) s = .next t ∧ (t.core c).sync.tokens = rest ∧
        (qEnd (t.core c) tk.qe.toNat).count = 65535 ∧ causeSet t (2 + basinOf s c) (leafOf s c) 9 ∧
        CoreOnly c s t ∧ OnlyIn [.cores, .regs, .log] s t) ∧
    (∀ tk rest u, (s.core c).sync.tokens = tk :: rest → tk.local_ = false → tk.notify = false →
      ((qEnd (s.core c) tk.qe.toNat).bound = false ∨ (qEnd (s.core c) tk.qe.toNat).isOpen = false) →
      unitOfId s tk.src = some u → Reached s u → (s.router (joinRouter s tk.src)).acks = [] →
      ∃ t, exec (.tokenArrival c) s = .next t ∧
        t.core c = { s.core c with sync := { (s.core c).sync with tokens := rest } } ∧
        PacketSent s t (fun p => p.ty = 3 ∧ p.unit = u ∧ p.xq = tk.xq ∧ statusOf p = 2) ∧
        CoreOnly c s t ∧ OnlyIn [.cores, .routers] s t) ∧
    (∀ m v x f since, (s.core c).sync.waiting = some ⟨m, v, .cwait f, x⟩ → (s.core c).sync.waitSince = some since →
      (qEnd (s.core c) f.qe.toNat).isOpen = true → countAt (qEnd (s.core c) f.qe.toNat) s.cc < f.nm1.toNat + 1 →
      (s.core c).sync.waitLong = false →
      since + (if (qEnd (s.core c) f.qe.toNat).limit = 0 then 250000 else (qEnd (s.core c) f.qe.toNat).limit.toNat) < s.tide.toNat →
      ∃ t, exec (.waitLong c) s = .next t ∧ causeSet t (2 + basinOf s c) (leafOf s c) 8 ∧
        t.core c = { s.core c with sync := { (s.core c).sync with waitLong := true } } ∧
        CoreOnly c s t ∧ OnlyIn [.cores, .regs, .log] s t) ∧
    (∀ idx d rest, takeFirst (fun d : Drain => d.idx = idx) (s.core c).berths.drains = some (d, rest) → d.issued + 4 ≤ s.cc →
      (∀ l ∈ (s.core c).berths.slots, l.idx = idx → slotGen l ≠ d.old.gen) →
      ∃ t, exec (.berthCloseAck c idx) s = .next t ∧ (t.core c).berths = { (s.core c).berths with drains := rest } ∧
        (t.core c).sync.tokens = (s.core c).sync.tokens ++ (if d.aen then [localToken d.qe 1 d.step] else []) ∧
        (t.core c).seq = (s.core c).seq ∧ CoreOnly c s t ∧ OnlyIn [.cores] s t)

/-- 04 R106 R107 R110: an RWAIT whose result has not landed holds every other core of its partition (HOLD); when the result is there
RELEASE issues it and ends the hold; equal BIDs release a barrier whose members all wait at it, and equal MIDs a mooring
join, which leaves each member behind its MOOR, or at the start of the loop that the MOOR ends, with its record, V, E and the flags but F7 cleared and its pointers kept. -/
def Obligations.HoldsAndJoins : Prop :=
  (∀ (s : State) (c : Nat) (tag : BitVec 16), s.canonical = true → c < coreCount → (s.core c).sync.run = .running →
    (s.core c).sync.holdSent = false → (s.core c).sync.waiting = some (onlyS (.rwait tag)) →
    (∀ l ∈ (s.core c).sync.landed, l.tag ≠ tag) →
    ∃ t, exec (.hold c) s = .next t ∧ (t.core c).sync.holdSent = true ∧ (t.core c).sync.holdSince = s.tide.toNat ∧
      (∀ d ∈ othersOf s c, c ∈ (t.core d).sync.holds) ∧
      (∀ d, (t.core d).seq = (s.core d).seq ∧ (t.core d).regs = (s.core d).regs) ∧ OnlyIn [.cores, .voyages] s t) ∧
  (∀ (s : State) (c : Nat) (tag : BitVec 16) (l : Landed) (rest : List Landed), s.canonical = true → c < coreCount →
    (s.core c).sync.holdSent = true → (s.core c).sync.waiting = some (onlyS (.rwait tag)) →
    takeFirst (fun l : Landed => l.tag = tag) (s.core c).sync.landed = some (l, rest) →
    ∃ t, exec (.release c) s = .next t ∧ (t.core c).sync.holdSent = false ∧ (t.core c).sync.waiting = none ∧
      (t.core c).sync.landed = rest ∧ (t.core c).seq.mp = (advance (s.core c) s.cc).core.seq.mp ∧
      (∀ d ∈ othersOf s c, c ∉ (t.core d).sync.holds) ∧ OnlyIn [.cores, .voyages, .regs, .log] s t) ∧
  (∀ (s : State) (pid : Nat) (vid : BitVec 16) (bid : BitVec 8), s.canonical = true → pid < 24 → runningIn s pid = some vid → membersOf s vid ≠ [] →
    (∀ c ∈ membersOf s vid, (s.core c).sync.run = .running ∧ ∃ h, (s.core c).sync.waiting = some (onlyS (.bar bid h))) →
    ∃ t, exec (.barrierRelease pid) s = .next t ∧
      (∀ c ∈ membersOf s vid, (t.core c).sync.waiting = none ∧
        (t.core c).seq.mp = (advance (s.core c) s.cc).core.seq.mp ∧ (t.core c).tierS = (s.core c).tierS) ∧
      OnlyIn [.cores, .voyages, .regs, .log] s t) ∧
  (∀ (s : State) (pid : Nat) (vid mid : BitVec 16) (v : Voyage), s.canonical = true → pid < 24 → runningIn s pid = some vid → membersOf s vid ≠ [] →
    s.voyage vid.toNat = some v → v.preempt = none → s.power.limited = [] → enginesIdle s vid = true →
    (∀ r rs, s.rset r = some rs → rs.suspects = []) →
    (∀ c ∈ membersOf s vid, (s.core c).sync.run = .running ∧ (s.core c).sync.waiting = some (onlyS (.moor mid))) →
    ∃ t, exec (.moorJoin pid) s = .next t ∧
      (∀ c ∈ membersOf s vid, (t.core c).sync.waiting = none ∧
        (t.core c).seq.mp = (advance (s.core c) s.cc).core.seq.mp ∧
        (t.core c).seq.lastMid = mid ∧ (t.core c).regs.v = [] ∧ (t.core c).regs.e = [] ∧
        (∀ r, fReg (t.core c) r = if r = 7 then fReg (s.core c) 7 else 0) ∧
        (t.core c).regs.p = (s.core c).regs.p ∧ (t.core c).regs.l = (afterMoor (s.core c)).regs.l ∧
        (∃ r, (t.core c).seq.moor = some r ∧ r.p = (s.core c).regs.p ∧ r.mid = mid ∧ r.ordinal = (s.core c).seq.ordinal + 1 ∧
          r.step = (t.core c).seq.mp ∧ r.stack = (t.core c).seq.stack) ∧
        (t.core c).tierS = (s.core c).tierS) ∧
      (t.voyage vid.toNat).map (·.ordinal) = some (v.ordinal + 1) ∧
      OnlyIn [.cores, .voyages, .engines, .sets, .free, .regs, .log] s t)

/-! ## The crane (04 R83 to R95, 07 R161 R168, 09 R221) -/

/-- 04 R83 R86, 07 R162, 09 R221: the crane sends the next packet of a translated transfer to a core's berth with the source
bytes that it has read, and turns to the next queue, when the entries before it inject no more, whether or not they have completed (how
entries of one queue follow each other is DEDUCED, log entry 21); a die translation cache and a crane's segment cache take the entry they miss; a
segment that is not RESIDENT suspends its transfer. -/
def Obligations.CraneSendsAndTranslates : Prop :=
  ∀ (s : State) (c : Nat) (q : BitVec 3) (e : CraneEntry) (l r : List CraneEntry), c < coreCount →
    queueOf (s.core c) q.toNat = l ++ e :: r → (∀ x ∈ l, entrySent x = true) → entrySent e = false → e.push = false →
    (∀ body, (s.core c).crane.rr = q → craneRuns s c = true →
      e.suspended = false → e.translated = true → dOp e.desc = 1 → dTgt e.desc = 0 → e.ett.toNat % 4 = 1 →
      localUnit e.ett.toNat < coreCount → Reached s (localUnit e.ett.toNat) →
      (queueOpen (queueOf (s.core c) q.toNat)).length < 64 → pidxTaken (queueOf (s.core c) q.toNat) e.next = false →
      e.issued + 8 ≤ s.cc → srcHeld s (s.core c) e = false →
      craneRead (s.core c) (.inject q e.issued e.next) (dAddr e.desc + pktOff e e.next) (pktLen e e.next) = some body →
      ∃ t e', exec (.cranePacketInject c) s = .next t ∧ queueOf (t.core c) q.toNat = l ++ e' :: r ∧
        e'.next = e.next + 1 ∧ e'.open_ = e.open_ ++ [e.next] ∧ e'.done = e.done ∧
        (t.core c).crane.rr = BitVec.ofNat 3 (q.toNat + 1) ∧
        PacketSent s t (fun p => p.ty = 0 ∧ p.src = coreId s c ∧ p.xq = q ∧ p.unit = localUnit e.ett.toNat ∧
          p.epoch = e.epoch ∧ p.payload = body) ∧
        (t.core c).cr.crane = none ∧ (t.core c).tierS = (s.core c).tierS ∧ CoreOnly c s t ∧ OnlyIn [.cores, .routers] s t) ∧
    (e.next = 0 → takeEntry s c e = .wait →
      ∃ t, exec (.lookupFill c q) s = .next t ∧
        cacheLook t c (dEp e.desc) e.epoch = some (ettIn s (bankOfEpoch s e.epoch) (dEp e.desc).toNat) ∧
        OnlyIn [.fabric] s t) ∧
    (∀ m tr, s.hm.hung = none → dTgt e.desc = 1 → e.translated = true → segHit (s.core c) (dRef e.desc) = none →
      mapEnt s (s.core c).misc.vid (dRef e.desc) = some m → segTr (s.seg m.sid.toNat) = some tr → e.suspended = false →
      ∃ t, exec (.segLookupFill c q) s = .next t ∧ segHit (t.core c) (dRef e.desc) = some tr ∧
        queueOf (t.core c) q.toNat = l ++ e :: r ∧ CoreOnly c s t ∧ OnlyIn [.cores] s t) ∧
    (∀ m v, s.hm.hung = none → dTgt e.desc = 1 → e.translated = true → segHit (s.core c) (dRef e.desc) = none →
      mapEnt s (s.core c).misc.vid (dRef e.desc) = some m → segTr (s.seg m.sid.toNat) = none → e.suspended = false →
      s.voyage (s.core c).misc.vid.toNat = some v →
      ∃ t, exec (.segLookupFill c q) s = .next t ∧
        queueOf (t.core c) q.toNat = l ++ { e with suspended := true, faultTick := s.tide.toNat } :: r ∧
        (t.voyage (s.core c).misc.vid.toNat).map (·.faults) = some (v.faults + 1) ∧
        t.seg m.sid.toNat = { s.seg m.sid.toNat with faulted := true } ∧ SegOnly m.sid.toNat s t ∧
        CoreOnly c s t ∧ OnlyIn [.cores, .voyages, .segs] s t)

/-- 04 R86 R87: a transfer whose packets are all answered leaves its queue; with WB its status record is stored 40 bytes
behind the descriptor, with QEN its token is sent to the endpoint, and a status that is not OK enters the queue's error
record, which a CSTAT of the running cc does not see (04 R94), and raises CRANE_ERR. 04 R86, 07 R161, 10 R245: a response whose data
has been written at its place in Tier S is accounted for; a packet that was not acknowledged is sent
again as it was, up to three times, and then ends its transfer with UNCORRECTABLE and RESEND_FAIL; a host window read that the host does
not answer is answered UNREACHABLE and raises HOSTWIN_FAIL. -/
def Obligations.TransfersAreAnswered : Prop :=
  (∀ (s : State) (c : Nat) (q : BitVec 3) (e : CraneEntry) (l r : List CraneEntry), c < coreCount →
    queueOf (s.core c) q.toNat = l ++ e :: r → (∀ x ∈ l, entryDone x = false) → entryDone e = true →
    (e.status = 7 → l = []) → e.push = false → e.addr + 64 ≤ spadSize →
    ((entryEnd e).1 = 0 → ∃ t, exec (.transferComplete c q) s = .next t ∧ queueOf (t.core c) q.toNat = l ++ r ∧
      (∀ a, (e.wb = false ∨ a < e.addr + 40 ∨ e.addr + 64 ≤ a) → spadByte (t.core c) a = spadByte (s.core c) a) ∧
      (e.wb = true → spadRead (t.core c) (e.addr + 40) 8 = [0, 0, 0, 0] ++ leBytes 4 e.done) ∧
      (t.core c).sync.tokens = (s.core c).sync.tokens ++
        (if dQen e.desc then [localToken (dQe e.desc) 1 e.step] else []) ∧
      (∀ i, cerrAll (t.core c) i = cerrAll (s.core c) i) ∧
      CoreOnly c s t ∧ OnlyIn [.cores] s t) ∧
    ((entryEnd e).1 ≠ 0 → (entryEnd e).1 ≠ 8 → ∃ t, exec (.transferComplete c q) s = .next t ∧
      queueOf (t.core c) q.toNat = l ++ r ∧ (e.wb = true → spadByte (t.core c) (e.addr + 40) = (entryEnd e).1) ∧
      ((look (0, {}) (s.core c).crane.cerrNew q.toNat).1 ≠ s.cc →
        cerrAll (t.core c) q.toNat = joinErr (cerrAll (s.core c) q.toNat) ⟨(entryEnd e).1, 1, dSeq e.desc⟩ ∧
        cerrAt (t.core c) q.toNat s.cc = cerrAll (s.core c) q.toNat) ∧
      (∀ i, i ≠ q.toNat → cerrAll (t.core c) i = cerrAll (s.core c) i) ∧
      causeSet t (2 + basinOf s c) (leafOf s c) 5 ∧ CoreOnly c s t ∧ OnlyIn [.cores, .regs, .log] s t)) ∧
  (∀ (s : State) (c : Nat) (q : BitVec 3) (e : CraneEntry) (l r : List CraneEntry), c < coreCount →
    queueOf (s.core c) q.toNat = l ++ e :: r →
    (∀ p rest i, takeFirst (fun p => canLand s (s.core c) p && hasLanded (s.core c) p) (s.core c).crane.rsp = some (p, rest) →
      p.xq = q → (∀ x ∈ l, answers p x = false) → answers p e = true → openOf e (pidxOf p) = some i → e.status = 0 → statusOf p = 0 →
      ∃ t e', exec (.readResponseLanding c) s = .next t ∧ (t.core c).crane.rsp = rest ∧
        queueOf (t.core c) q.toNat = l ++ e' :: r ∧ e'.open_ = without i e.open_ ∧
        e'.done = e.done + (slice p.payload 0 (pktLen e i)).length ∧ (t.core c).cr.crane = none ∧
        (t.core c).tierS = (s.core c).tierS ∧ CoreOnly c s t ∧ OnlyIn [.cores] s t) ∧
    (∀ p rest i, (s.core c).crane.naks = p :: rest → p.xq = q → (∀ x ∈ l, answers p x = false) → answers p e = true →
      openOf e (pidxOf p) = some i →
      3 ≤ (e.resends.filter (· = i)).length →
      ∃ t e', exec (.nakReceived c) s = .next t ∧ (t.core c).crane.naks = rest ∧ queueOf (t.core c) q.toNat = l ++ e' :: r ∧
        e'.status = 8 ∧ e'.ended = true ∧ causeSet t 42 0 4 ∧ CoreOnly c s t ∧ OnlyIn [.cores, .routers, .regs, .log] s t) ∧
    (∀ p rest i x, (s.core c).crane.naks = p :: rest → p.xq = q → (∀ x ∈ l, answers p x = false) → answers p e = true →
      openOf e (pidxOf p) = some i → (e.resends.filter (· = i)).length < 3 →
      e.copies.find? (fun y => y.1 = i) = some (i, x) → x.dunit ≠ 7 → Reached s x.unit →
      ∃ t e', exec (.nakReceived c) s = .next t ∧ (t.core c).crane.naks = rest ∧ queueOf (t.core c) q.toNat = l ++ e' :: r ∧
        e'.resends = e.resends ++ [i] ∧ e'.open_ = e.open_ ∧ e'.status = e.status ∧
        PacketSent s t (fun y => y.unit = x.unit ∧ y.src = x.src ∧ y.xq = x.xq ∧ y.ty = x.ty ∧ y.ref = x.ref ∧ y.payload = x.payload) ∧
        CoreOnly c s t ∧ OnlyIn [.cores, .routers] s t) ∧
    (∀ i is, (∀ x ∈ l, readsHost x = false) → e.open_ = i :: is → e.push = false → dTgt e.desc = 2 → dOp e.desc = 2 →
      ∃ t e', exec (.hostwinFail c q) s = .next t ∧ queueOf (t.core c) q.toNat = l ++ e' :: r ∧
        e'.open_ = without i e.open_ ∧ (e.status = 0 → e'.status = 6) ∧ causeSet t 49 0 3 ∧ (t.core c).tierS = (s.core c).tierS ∧
        CoreOnly c s t ∧ OnlyIn [.cores, .regs, .log] s t))

/-! ## Berths and Tier S (06) -/

/-- 06 R129 R131: the berth port writes the oldest slot's payload into Tier S at its place, or reads the bytes that it asks for, a word at a
time. 06 R138 to R140, Table 6-7: a packet that passes every check takes a landing slot; one that fails a check is refused
with the code of the check and takes none, and so is the rest of its transfer; a write that has landed frees its slot and is answered; a
read request is answered with the bytes read. -/
def Obligations.BerthPackets : Prop :=
  (∀ (k : Core) (a : Nat) (b : Bytes), a + b.length ≤ spadSize →
    spadRead (finishStream (writeJob a b).io.left k (writeJob a b).io).1 a b.length = b ∧
    (∀ x, x < a ∨ a + b.length ≤ x → spadByte (finishStream (writeJob a b).io.left k (writeJob a b).io).1 x = spadByte k x) ∧
    lookRange 0 (finishStream (readJob a b.length).io.left k (readJob a b.length).io).2.seen a b.length = spadRead k a b.length ∧
    (finishStream (readJob a b.length).io.left k (readJob a b.length).io).1 = k) ∧
  (∀ (k : Core) (l : LandSlot) (rest : List LandSlot), k.cr.berth = none → k.berths.slots = l :: rest →
    (l.pkt.ty = 1 → (berthTurn k).cr.berth = some (readJob l.addr (64 * l.pkt.len.toNat))) ∧
    (l.pkt.ty ≠ 1 → (berthTurn k).cr.berth = some (writeJob l.addr l.pkt.payload))) ∧
  ∀ (s : State) (c : Nat), s.canonical = true → c < coreCount →
    (∀ p rest, (s.core c).berths.arrivals = p :: rest → (s.core c).berths.refused = [] →
      berthCheck (s.core c) (imageOf s c) s.cc p = 0 → (s.core c).berths.slots.length < 8 →
      ∃ t l, exec (.berthPacketArrival c) s = .next t ∧ (t.core c).berths.arrivals = rest ∧
        (t.core c).berths.slots = (s.core c).berths.slots ++ [l] ∧ l.pkt = p ∧
        l.addr = (recordFor (s.core c) (berthIdx p) s.cc).base.toNat + berthOff p ∧ (t.core c).tierS = (s.core c).tierS ∧
        CoreOnly c s t ∧ OnlyIn [.cores] s t) ∧
    (∀ p rest, (s.core c).berths.arrivals = p :: rest → (s.core c).berths.refused = [] →
      berthCheck (s.core c) (imageOf s c) s.cc p ≠ 0 → (s.core c).berths.slots.length < 8 →
      ∃ t, exec (.berthPacketArrival c) s = .next t ∧ (t.core c).berths.arrivals = rest ∧
        (t.core c).berths.slots = (s.core c).berths.slots ∧
        (t.core c).berths.refused = [(p.src, p.xq, p.xid, BitVec.ofNat 8 (berthCheck (s.core c) (imageOf s c) s.cc p))] ∧
        (t.core c).tierS = (s.core c).tierS ∧ CoreOnly c s t ∧ OnlyIn [.cores, .routers, .regs, .log, .fabric] s t) ∧
    (∀ p rest st u, (s.core c).berths.arrivals = p :: rest → refusedWith (s.core c) p = some st → st ≠ 0 →
      (s.core c).berths.slots.length < 8 → unitOfId s p.src = some u → Reached s u → (s.router (joinRouter s p.src)).acks = [] →
      ∃ t, exec (.berthPacketArrival c) s = .next t ∧ (t.core c).berths.arrivals = rest ∧
        (t.core c).berths.slots = (s.core c).berths.slots ∧
        PacketSent s t (fun y => y.ty = 3 ∧ y.unit = u ∧ y.xq = p.xq ∧ statusOf y = st) ∧
        (t.core c).tierS = (s.core c).tierS ∧ CoreOnly c s t ∧ OnlyIn [.cores, .routers] s t) ∧
    (∀ l rest j, (s.core c).berths.slots = l :: rest → l.pkt.ty = 0 → berthDone (s.core c) = some j →
      ∃ t, exec (.berthPacketLanding c) s = .next t ∧ (t.core c).berths.slots = rest ∧ (t.core c).tierS = (s.core c).tierS ∧
        (t.core c).sync.tokens.length = (s.core c).sync.tokens.length + (if l.notify then 1 else 0) ∧
        CoreOnly c s t ∧ OnlyIn [.cores, .routers, .regs, .log, .fabric] s t) ∧
    (∀ l rest d j, (s.core c).berths.slots = l :: rest → l.pkt.ty = 1 → berthDone (s.core c) = some j →
      unitOfId s l.pkt.src = some d → Reached s d →
      ∃ t, exec (.berthReadServe c) s = .next t ∧ (t.core c).berths.slots = rest ∧
        PacketSent s t (fun p => p.ty = 2 ∧ p.unit = d ∧ p.xq = l.pkt.xq ∧
          p.payload = lookRange 0 j.io.seen l.addr (64 * l.pkt.len.toNat)) ∧
        (t.core c).tierS = (s.core c).tierS ∧ CoreOnly c s t ∧ OnlyIn [.cores, .routers] s t)

/-- 06 R132 R133 R135: the patrol visits the words of a bank in turn; a corrected word counts, raises SPAD_CE and is written back when
its bank is idle; a word that a read of the cc has found correctable counts in the same way; an uncorrectable word found by the patrol
raises SPAD_UE and its row is remembered for the voyage, one that any other reader meets raises it too, and a manifest read drops its
step's results, stops the core and makes the voyage's replay due; a second one in the row marks the core failed. 06 R145 R146 R148, Table 6-10: a
core's scrub leaves Tier S, manifest and registers zero and the core to no voyage; when every core of a
partition has reported, its basins are free again, or the released partition is gone; a core that has not reported within 8,192 cc
is marked failed and its spare takes over. -/
def Obligations.TierSUpkeep : Prop :=
  (∀ (s : State) (c : Nat), c < coreCount →
    (∀ bank : BitVec 5, bankIdle (s.core c) bank.toNat = true →
      ∃ t, exec (.spadPatrol c bank .corrected) s = .next t ∧
        look 0 (t.core c).misc.patrol bank.toNat = (look 0 (s.core c).misc.patrol bank.toNat + 1) % 3072 ∧
        (t.core c).regs.ceCount = satAdd32 (s.core c).regs.ceCount 1 ∧
        wordAddr bank.toNat (look 0 (s.core c).misc.patrol bank.toNat) ∈ (t.core c).misc.writebacks ∧
        causeSet t (2 + basinOf s c) (leafOf s c) 13 ∧ (t.core c).tierS = (s.core c).tierS ∧
        CoreOnly c s t ∧ OnlyIn [.cores, .regs, .log] s t) ∧
    (∀ bank : BitVec 5, bankIdle (s.core c) bank.toNat = true →
      ∃ t, exec (.spadPatrol c bank .good) s = .next t ∧
        look 0 (t.core c).misc.patrol bank.toNat = (look 0 (s.core c).misc.patrol bank.toNat + 1) % 3072 ∧
        (∀ i, i ≠ bank.toNat → look 0 (t.core c).misc.patrol i = look 0 (s.core c).misc.patrol i) ∧
        (t.core c).regs = (s.core c).regs ∧ (t.core c).tierS = (s.core c).tierS ∧ CoreOnly c s t ∧ OnlyIn [.cores] s t) ∧
    (∀ a rest, (s.core c).misc.writebacks = a :: rest → bankIdle (s.core c) (bankOf a) = true →
      ∃ t, exec (.spadCorrectionWriteback c none) s = .next t ∧ (t.core c).misc.writebacks = rest ∧
        bankIdle (t.core c) (bankOf a) = false ∧ (t.core c).regs = (s.core c).regs ∧ (t.core c).tierS = (s.core c).tierS ∧
        CoreOnly c s t ∧ OnlyIn [.cores] s t) ∧
    (∀ a, madeOf true (aligned a 64) ∈ (s.core c).cr.made → madeOf false (aligned a 64) ∉ (s.core c).cr.made →
      ∃ t, exec (.spadCorrectionWriteback c (some a)) s = .next t ∧
        (t.core c).regs.ceCount = satAdd32 (s.core c).regs.ceCount 1 ∧ aligned a 64 ∈ (t.core c).misc.writebacks ∧
        causeSet t (2 + basinOf s c) (leafOf s c) 13 ∧ (t.core c).tierS = (s.core c).tierS ∧
        CoreOnly c s t ∧ OnlyIn [.cores, .regs, .log] s t) ∧
    (∀ a v, a < spadSize → s.voyage (s.core c).misc.vid.toNat = some v → (c, rowOf a) ∉ v.ueRows →
      ∃ t, exec (.spadUe c a .patrol) s = .next t ∧
        t.voyage (s.core c).misc.vid.toNat = some { v with ueRows := v.ueRows ++ [(c, rowOf a)] } ∧
        causeSet t (2 + basinOf s c) (leafOf s c) 14 ∧ t.core c = s.core c ∧ OnlyIn [.voyages, .regs, .log] s t) ∧
    (∀ a, a < spadSize → s.voyage (s.core c).misc.vid.toNat = none →
      ∃ t, exec (.spadUe c a .patrol) s = .next t ∧ causeSet t (2 + basinOf s c) (leafOf s c) 14 ∧ OnlyIn [.regs, .log] s t) ∧
    (∀ a v, a < spadSize → s.voyage (s.core c).misc.vid.toNat = some v → (c, rowOf a) ∈ v.ueRows →
      (s.core c).misc.failed = false →
      ∃ t, exec (.spadUe c a .patrol) s = .next t ∧ (t.core c).misc.failed = true ∧ (t.core c).misc.fenced = true ∧
        causeSet t (2 + basinOf s c) (leafOf s c) 14 ∧ causeSet t 47 0 0 ∧
        OnlyIn [.cores, .regs, .log, .bring, .voyages] s t) ∧
    (∀ a reader, a < spadSize → ∃ t, exec (.spadUe c a reader) s = .next t ∧ causeSet t (2 + basinOf s c) (leafOf s c) 14 ∧
      (t.core c).tierS = (s.core c).tierS) ∧
    (∀ a v vSlot step, a < spadSize → s.voyage (s.core c).misc.vid.toNat = some v → v.st = vRunning → (c, rowOf a) ∉ v.ueRows →
      ∃ t, exec (.spadUe c a (.manifest vSlot step)) s = .next t ∧ (t.core c).seq.pend = [] ∧ (t.core c).sync.run ≠ .running ∧
        GoesOn t (s.core c).misc.vid.toNat (fun w => 3 ∈ w.due ∧ (c, rowOf a) ∈ w.ueRows) ∧
        (t.core c).tierS = (s.core c).tierS ∧ OnlyIn [.cores, .regs, .log, .voyages] s t)) ∧
  ((∀ (s : State) (c : Nat), c < coreCount → (s.core c).misc.scrubbing = true →
    ∃ t, exec (.coreScrub c) s = .next t ∧ (t.core c).tierS = [] ∧ (t.core c).seq = {} ∧ (t.core c).sync = {} ∧
      (t.core c).berths = { arrivals := (s.core c).berths.arrivals } ∧ (t.core c).crane = {} ∧ (t.core c).cr = {} ∧
      (t.core c).regs = { counters := (s.core c).regs.counters, ceCount := (s.core c).regs.ceCount } ∧
      (t.core c).misc.vid = noVoyage ∧ (t.core c).misc.scrubbing = false ∧ (t.core c).misc.ident = none ∧
      CoreOnly c s t ∧ OnlyIn [.cores, .routers, .regs, .log, .fabric] s t) ∧
  (∀ (s : State) (pid : Nat) (p : Partition), pid < 24 → s.hm.hung = none → s.part pid = some p → p.scrubbing = true →
    scrubDone s (p.basins ||| p.reserve) = true → voyagesOf s pid = [] →
    exec (.scrubComplete pid) s =
      .next (s.setPart pid (if p.releasing then none else some { p with scrubbing := false }))) ∧
  (∀ (s : State) (c : Nat), c < coreCount → (s.core c).misc.scrubbing = true → (s.core c).misc.failed = false →
    (s.core c).misc.scrubFrom + 8192 < s.cc → s.voyage 65535 = none →
    coreSpareFree s (coreY c / 6) (physCol s (coreY c / 6) (coreX c / 6)) (coreY c % 6) = true →
    ∃ t, exec (.scrubTimeout c) s = .next t ∧ causeSet t 47 0 0 ∧ causeSet t 47 0 2 ∧
      spareCore t (coreY c / 6) (physCol s (coreY c / 6) (coreX c / 6)) (coreY c % 6) =
        siteAt (spareCore s (coreY c / 6) (physCol s (coreY c / 6) (coreX c / 6)) (coreY c % 6)) (coreX c % 6) ∧
      coreSpareFree t (coreY c / 6) (physCol s (coreY c / 6) (coreX c / 6)) (coreY c % 6) = false ∧
      OnlyIn [.cores, .routers, .regs, .log, .bring, .fabric, .hm] s t))

/-! ## The fabric (07) -/

/-- 07 R155 R156 R162, 05 R123: the only packet that waits at a router sends a flit on the output that routing gives it. On an output to
a unit it waits there until it has left whole; on a mesh output its first flit takes it to the neighbouring router, in the FIFO of
the crossing between two basins or else in its channel, the others follow, and with its last one it has left; nothing else moves.
07 R162 R164 R172, Table 7-6: a packet whose flits have left its router reaches its core: a write or a read request its berth port, a
token its endpoint. A packet of an epoch that is neither active nor draining is discarded with EPOCH_STALE. -/
def Obligations.PacketsTravel : Prop :=
  (∀ (s : State) (r out d : Nat) (q : InPkt), r < coreCount → out < 7 → (s.router r).pkts = [q] → (s.router r).outs = [] →
    settleIn (s.router r) = s.router r → hopOf s r q = some (out, d) → q.sent < q.got → q.sent < flitsOf q.pkt → q.pkt.dunit ≠ 7 →
    ruled s q.pkt.unit = false → hasRoom s r out d q.pkt = true →
    (neighbour r out = none →
      ∃ t, exec (.flitForward r out) s = .next t ∧
        (t.router r).pkts = [{ q with sent := q.sent + 1, since := fcNow s, hop := some (out, d) }] ∧
        (∀ d, d ≠ r → t.router d = s.router d) ∧ OnlyIn [.routers] s t) ∧
    (∀ n, neighbour r out = some n → settleIn (s.router n) = s.router n →
      (q.sent = 0 → ∃ t x, exec (.flitForward r out) s = .next t ∧
        (t.router n).pkts = (s.router n).pkts ++ [x] ∧ x.pkt = q.pkt ∧ x.inp = inputOf out ∧ x.detour = d ∧ x.sent = 0 ∧ x.came = 1 ∧
        x.got = (if crosses s r n then 0 else 1) ∧
        (crosses s r n = true → look [] (t.router n).fifos (fifoKey (inputOf out) q.pkt.cls.toNat) =
          look [] (s.router n).fifos (fifoKey (inputOf out) q.pkt.cls.toNat) ++ [.pkt (channelOf q.pkt) (decide (d ≠ 0))]) ∧
        (flitsOf q.pkt = 1 → (t.router r).pkts = []) ∧
        (1 < flitsOf q.pkt → (t.router r).pkts = [{ q with sent := 1, since := fcNow s, hop := some (out, d) }]) ∧
        (∀ d, d ≠ r → d ≠ n → t.router d = s.router d) ∧ OnlyIn [.routers] s t) ∧
      (∀ y, 0 < q.sent → (s.router n).pkts = [y] → y.inp = inputOf out → y.pkt = q.pkt → y.came < flitsOf q.pkt →
        ∃ t, exec (.flitForward r out) s = .next t ∧
        (t.router n).pkts = [{ y with came := y.came + 1, got := if crosses s r n then y.got else y.got + 1 }] ∧
        (flitsOf q.pkt = q.sent + 1 → (t.router r).pkts = []) ∧
        (q.sent + 1 < flitsOf q.pkt → (t.router r).pkts = [{ q with sent := q.sent + 1, since := fcNow s, hop := some (out, d) }]) ∧
        (∀ d, d ≠ r → d ≠ n → t.router d = s.router d) ∧ OnlyIn [.routers] s t))) ∧
  (∀ (s : State) (r i : Nat) (q : InPkt), r < coreCount →
    (s.router r).pkts.zipIdx.find? (fun p => ejects s r p.2 p.1) = some (q, i) → q.pkt.dunit ≠ 7 →
    (epochKnown s q.pkt.epoch = true → q.pkt.unit < 5184 → unreachable s q.pkt.unit = false →
      (q.pkt.ty = 0 ∨ q.pkt.ty = 1 →
        ∃ t, exec (.packetEject r) s = .next t ∧ (t.router r).pkts = dropAt (s.router r).pkts i ∧
          (t.core q.pkt.unit).berths.arrivals = (s.core q.pkt.unit).berths.arrivals ++ [q.pkt] ∧
          CoreOnly q.pkt.unit s t ∧ OnlyIn [.routers, .cores] s t) ∧
      (q.pkt.ty = 4 →
        ∃ t k, exec (.packetEject r) s = .next t ∧ (t.router r).pkts = dropAt (s.router r).pkts i ∧
          (t.core q.pkt.unit).sync.tokens = (s.core q.pkt.unit).sync.tokens ++ [k] ∧ k.local_ = false ∧
          k.qe = BitVec.ofNat 3 (q.pkt.ref.toNat % 8) ∧ k.n = q.pkt.ref.toNat / 8 % 256 + 1 ∧
          CoreOnly q.pkt.unit s t ∧ OnlyIn [.routers, .cores] s t)) ∧
    (epochKnown s q.pkt.epoch = false →
      ∃ t, exec (.packetEject r) s = .next t ∧ (t.router r).pkts = dropAt (s.router r).pkts i ∧ causeSet t 42 0 10 ∧
        OnlyIn [.routers, .regs, .log] s t ∧ RegsOnly (causeRegs 42 0) s t))

/-- 07 R160 R161 R170, 11 R279: a packet from a port that passes its checks and that the table sends to a unit here enters the fabric
as a DATA packet; one that R160 refuses, or of a gateway that names another home block's source, is counted and raises PORT_REFUSED; one
whose trailer is not that of its header and payload is counted and raises its cause. A packet that fails at a router that holds it whole
is discarded and counted, and a NAK goes to its source. -/
def Obligations.PacketsAreChecked : Prop :=
  (∀ (s : State) (p flits : Nat) (pkt : Packet), p < portCount → portUp s p = true → portRefuses s pkt flits = false →
    outsideHome s p pkt = false → pkt.trailer = trailerOf pkt → ettEntry s pkt.dst % 4 = 1 →
    Reached s (localUnit (ettEntry s pkt.dst)) →
    ∃ t, exec (.portPacketIngress p pkt flits) s = .next t ∧
      PacketSent s t (fun x => x.cls = 2 ∧ x.ty = pkt.ty ∧ x.payload = pkt.payload ∧ x.src = pkt.src ∧ x.ref = pkt.ref ∧
        x.trl = true ∧ x.unit = localUnit (ettEntry s pkt.dst)) ∧ OnlyIn [.routers] s t) ∧
  (∀ (s : State) (p flits : Nat) (pkt : Packet), p < portCount → portUp s p = true →
    (portRefuses s pkt flits = true ∨ outsideHome s p pkt = true) → wantsAnswer pkt = false →
    ∃ t, exec (.portPacketIngress p pkt flits) s = .next t ∧ causeSet t 42 0 5 ∧
      getField t (fabBase + 0x20) 16 16 = min 65535 (getField s (fabBase + 0x20) 16 16 + 1) ∧
      RegsOnly ((fabBase + 0x20) :: causeRegs 42 0) s t ∧ OnlyIn [.regs, .log] s t) ∧
  (∀ (s : State) (p flits : Nat) (pkt : Packet), p < portCount → portUp s p = true → portRefuses s pkt flits = false →
    outsideHome s p pkt = false → pkt.trailer ≠ trailerOf pkt →
    ∃ t, exec (.portPacketIngress p pkt flits) s = .next t ∧ causeSet t 42 0 2 ∧
      getField t (fabBase + 0x20) 0 16 = min 65535 (getField s (fabBase + 0x20) 0 16 + 1) ∧
      OnlyIn [.regs, .log, .routers, .fabric] s t) ∧
  (∀ (s : State) (r k u : Nat) (q : InPkt) (ue : Bool), r < coreCount → (s.router r).pkts[k]? = some q →
    flitsOf q.pkt ≤ q.got → (q.sent = 0 ∨ gone q = true) → unitOfId s q.pkt.src = some u → Reached s u →
    ∃ t, exec (.trailerErr r k ue) s = .next t ∧ causeSet t 42 0 (if ue then 3 else 2) ∧
      getField t (fabBase + 0x20) 0 16 = min 65535 (getField s (fabBase + 0x20) 0 16 + 1) ∧
      (∃ n x, x ∈ (t.router n).pkts ∧ x.pkt.ty = 10 ∧ x.pkt.unit = u ∧ x.pkt.xq = q.pkt.xq ∧ pidxOf x.pkt = pidxOf q.pkt) ∧
      OnlyIn [.regs, .log, .routers, .fabric] s t)

/-- 07 R175 R179 R180: the last flit of a tag merges the streams of every input and consumes them; the reduction port of the destination core
writes the merged image into Tier S at the binding's place, after which it waits for its RWAIT; a waiting contribution whose source the
crane has read enters its tree; the credit of a consumed round clears the contributors' sent marks. -/
def Obligations.ReductionRounds : Prop :=
  (∀ (s : State) (r : Nat) (e : RtEntry) (l : List RStream) (m : MergedOut), r < coreCount →
    settleIn (s.router r) = s.router r →
    ((s.router r).table.filter fun x => x.tag = e.tag) = [e] → entryStreams (s.router r) e = some l → l ≠ [] →
    (s.router r).outs = [m] → m.tag = e.tag → m.vid = e.vid → m.merged = 49 → flitsReady l = 50 →
    ∃ t, exec (.routerMerge r e.tag) s = .next t ∧ (t.router r).outs = [{ m with merged := 50, img := mergeAll l }] ∧
      (∀ x ∈ l, x ∉ (t.router r).streams) ∧ (∀ d, d ≠ r → t.router d = s.router d) ∧ OnlyIn [.routers] s t) ∧
  (∀ (s : State) (u : Nat) (m : MergedOut) (b : Binding), resultFor s u = some (m, b) → b.kind = 0 → (s.core u).cr.red = none →
    (redTurn s u (s.core u)).cr.red = some (m.tag, writeJob b.daddr.toNat (imageOut m.img))) ∧
  (∀ (s : State) (u : Nat) (tag : BitVec 16) (m : MergedOut) (rest : List MergedOut) (b : Binding), u < 5184 →
    landedAt s u 0 tag = some (m, rest) → bindingOf s m.vid tag = some b → b.tag = tag →
    (s.core u).misc.vid = m.vid → (s.core u).misc.scrubbing = false → redDone (s.core u) tag = true →
    ∃ t, exec (.reductionLanding u tag) s = .next t ∧ (t.router u).outs = rest ∧ (t.core u).tierS = (s.core u).tierS ∧
      (∃ x, (t.core u).sync.landed = (s.core u).sync.landed ++ [x] ∧ x.tag = tag ∧ x.f7 = (landing b m.img).2.f7) ∧
      (t.core u).cr.red = none ∧ CoreOnly u s t ∧ OnlyIn [.routers, .cores] s t) ∧
  (∀ (s : State) (c j : Nat) (r : RSendRec) (b : Binding) (d : Bytes), c < coreCount → (s.core c).sync.rsends[j]? = some r →
    (s.core c).misc.fenced = false → quiesced s (s.core c).misc.vid = false →
    (s.core c).sync.portBusy ≤ s.cc → r.issued + 4 ≤ s.cc → r.tag ∉ (s.core c).sync.sent →
    (∀ q ∈ (s.core c).sync.rsends.take j, q.tag ∈ (s.core c).sync.sent) → findTag (imageOf s c) r.tag = some b →
    craneRead (s.core c) (.rsend r.issued) r.addr (rsendBytes r.kind) = some d →
    ∃ t x, exec (.contribInject c j) s = .next t ∧ (t.core c).sync.rsends = dropAt (s.core c).sync.rsends j ∧
      (t.core c).sync.sent = (s.core c).sync.sent ++ [r.tag] ∧ (t.router c).streams = (s.router c).streams ++ [x] ∧
      x.tag = r.tag ∧ x.vid = (s.core c).misc.vid ∧ x.inp = 0 ∧ x.came = 50 ∧ (x.round = true ↔ r.tag ∈ (s.core c).sync.round) ∧
      (r.kind = false → x.img = entering b.t (imageIn fun i => d.getD i 0)) ∧
      (∀ h ∈ (t.core c).seq.haz, h.rsend ≠ some r.issued) ∧ (t.core c).cr.crane = none ∧
      DataKept s t c ∧ CoreOnly c s t ∧ (∀ d, d ≠ c → t.router d = s.router d) ∧ OnlyIn [.cores, .routers] s t) ∧
  (∀ (s : State) (u : Nat) (tag : BitVec 16) (b : Binding), s.canonical = true → u < 5184 →
    tag ∈ (s.core u).sync.credits → bindingOf s (s.core u).misc.vid tag = some b →
    ∃ t, exec (.tagCredit u tag) s = .next t ∧ tag ∉ (t.core u).sync.credits ∧
      (∀ xy ∈ coreContribs b, (s.core (coreAt s xy.1 xy.2)).misc.vid = (s.core u).misc.vid →
        tag ∉ (t.core (coreAt s xy.1 xy.2)).sync.sent) ∧
      (∀ d, (t.core d).seq = (s.core d).seq ∧ (t.core d).regs = (s.core d).regs ∧ (t.core d).tierS = (s.core d).tierS) ∧
      OnlyIn [.cores, .engines, .routers] s t)

/-- 05 R114, 07 R165 R171 R172: after a change of topology the distance table is published again with the next version, and without one
nothing happens; detours are programmed around a dark basin; at T_s the
other bank and the next epoch are active and the drain begins; when no packet of the old epoch is left SWAP_DONE is raised and the copy
begins, and else the count is shown; 10 ms after T_s the drain is late; after the copy both banks are equal. -/
def Obligations.DetoursAndBankSwap : Prop :=
  (∀ s : State, s.fabric.dtabDue = true → s.fabric.dtab ≠ [] →
    ∃ t, exec .dtabRepublish s = .next t ∧ reg t (fabBase + 0x1C) = reg s (fabBase + 0x1C) + 1 ∧
    t.fabric.dtab = dtabImage (setReg s (fabBase + 0x1C) (reg s (fabBase + 0x1C) + 1)) ∧ t.fabric.dtabDue = false ∧
    causeSet t 42 0 9 ∧ RegsOnly ((fabBase + 0x1C) :: causeRegs 42 0) s t ∧ OnlyIn [.regs, .log, .fabric, .bring] s t) ∧
  (∀ s : State, s.fabric.dtabDue = false → exec .dtabRepublish s = .next s) ∧
  (∀ (s : State) (b : Nat), b < basinCount → s.hm.hung = none → isDark s b = true → b ∉ s.fabric.detours →
    ∃ t, exec (.detourProgrammed b) s = .next t ∧ t.fabric.detours = s.fabric.detours ++ [b] ∧
      reg t (fabBase + 0x1C) = reg s (fabBase + 0x1C) + 1 ∧ causeSet t 42 0 7 ∧ causeSet t 42 0 9 ∧
      OnlyIn [.regs, .log, .fabric, .routers, .voyages, .cores, .bring] s t) ∧
  (∀ s : State, ettState s = 1 → (reg64 s swapTickOff).toNat ≤ s.tide.toNat →
    ∃ t, exec .ettSwapTick s = .next t ∧ ettEpoch t = (ettEpoch s + 1) % 4 ∧ ettBank t = 1 - ettBank s ∧ ettState t = 2 ∧
      (∀ x ∈ t.fabric.caches, x.2.2.1.toNat ≠ ettEpoch t) ∧ RegsOnly [ettStatusOff] s t ∧ OnlyIn [.regs, .fabric] s t) ∧
  (∀ s : State, ettState s = 2 → oldCount s = 0 → s.fabric.newPanel = none → s.fabric.swapper = none →
    ∃ t, exec .ettDrainCollect s = .next t ∧ ettState t = 3 ∧ ettEpoch t = ettEpoch s ∧ ettBank t = ettBank s ∧
      causeSet t 42 0 0 ∧ RegsOnly (ettStatusOff :: causeRegs 42 0) s t ∧ OnlyIn [.regs, .log, .fabric] s t) ∧
  (∀ s : State, ettState s = 2 → oldCount s ≠ 0 →
    ∃ t, exec .ettDrainCollect s = .next t ∧ ettState t = 2 ∧ getField t ettStatusOff 8 24 = min (oldCount s) 0xFFFFFF ∧
      RegsOnly [ettStatusOff] s t ∧ OnlyIn [.regs] s t) ∧
  (∀ s : State, ettState s = 2 → (reg64 s swapTickOff).toNat + 2500000 ≤ s.tide.toNat → s.fabric.swapTimedOut = false →
    s.fabric.swapper = none →
    ∃ t, exec .swapTimeout s = .next t ∧ causeSet t 42 0 1 ∧ t.fabric.swapTimedOut = true ∧ ettState t = 2 ∧
      RegsOnly (causeRegs 42 0) s t ∧ OnlyIn [.regs, .log, .fabric] s t) ∧
  (∀ s : State, ettState s = 3 → s.hm.hung = none →
    ∃ t, exec .ettCopyDone s = .next t ∧ ettState t = 0 ∧ t.fabric.bank0 = t.fabric.bank1 ∧
      t.fabric.bank0 = bankMap s (ettBank s) ∧ RegsOnly [ettStatusOff] s t ∧ OnlyIn [.regs, .fabric] s t)

/-! ## Quay engines (08 R195 to R208) -/

/-- 08 R198, 09 R220: a command that has arrived whole queues its COMMAND entry; the oldest queued entry takes a free running slot, and one that
refers outside a segment or against its rights ends with the status of the check, nothing done; an ended entry
whose packets are answered hands over to its chain, or frees its slot, and a bad status raises ENTRY_FAIL. -/
def Obligations.QuayEntriesRun : Prop :=
  ∀ (s : State) (m : Nat), m < memCount →
    (∀ p c d x w, (s.engine m).cmds.find? (cmdWhole s (s.engine m)) = some p → commander s p = some (c, d) →
      ctxOf (s.engine m) (s.core c).misc.vid = some x → x.entries[p.ref.toNat % 65536]? = some w →
      qTrig w = 0 →
      ∃ t r, exec (.qcmdReceive m) s = .next t ∧ (t.engine m).queue = (s.engine m).queue ++ [r] ∧
        r.vid = x.vid ∧ r.idx = p.ref.toNat % 65536 ∧ r.arg.toNat = dRaddr d ∧ r.command = true ∧ r.src = p.src ∧
        r.payload = (((s.engine m).cmds.filter (sameCmd p)).map (·.payload)).flatten ∧
        (t.engine m).cmds = (s.engine m).cmds.filter (fun q => !sameCmd p q) ∧
        EngineOnly m s t ∧ OnlyIn [.engines] s t) ∧
    (∀ r rest, (s.engine m).running.length < runSlots m → unreachable s (memUnit m) = false →
      takeFirst (fun r : QRun => !unitsStopped s r.vid) (s.engine m).queue = some (r, rest) → r.buf = none →
      ∃ t r', exec (.quayEntryStart m) s = .next t ∧ (t.engine m).queue = rest ∧
        (t.engine m).running = (s.engine m).running ++ [r'] ∧ r'.vid = r.vid ∧ r'.idx = r.idx ∧ r'.arg = r.arg ∧
        r'.epoch = BitVec.ofNat 2 (ettEpoch s) ∧
        (payloadDue (entryOf s m r) r.arg ≤ r.payload.length → r'.payload = r.payload ∧
          (refStatus s m r (entryOf s m r) = 0 → r'.done = r.done ∧ r'.status = r.status) ∧
          (refStatus s m r (entryOf s m r) ≠ 0 → r'.done = true ∧ r'.status.toNat = refStatus s m r (entryOf s m r) % 256)) ∧
        EngineOnly m s t ∧ OnlyIn [.engines, .free] s t) ∧
    (∀ k r, (s.engine m).running[k]? = some r → r.done = true → r.open_ = [] → r.status = 0 →
      qChain (entryOf s m r) = true →
      ∃ t r', exec (.quayEntryEnd m k) s = .next t ∧ (t.engine m).running = setAt (s.engine m).running k r' ∧
        r'.idx = qField (entryOf s m r) 4 2 ∧ r'.root = r.root ∧ r'.arg = r.arg ∧
        r'.payload.take r.payload.length = r.payload ∧ (r'.status = 0 → r'.done = false) ∧
        EngineOnly m s t ∧ OnlyIn [.engines, .free] s t) ∧
    (∀ k r, (s.engine m).running[k]? = some r → r.done = true → r.open_ = [] → r.status ≠ 0 → r.status ≠ 8 →
      r.command = false →
      ∃ t, exec (.quayEntryEnd m k) s = .next t ∧ (t.engine m).running = dropAt (s.engine m).running k ∧
        causeSet t (26 + mifOf m) 0 5 ∧ EngineOnly m s t ∧ OnlyIn [.engines, .regs, .log] s t)

/-- 08 R199 to R201 R207: QNOP ends at once. GATHER sends the row that its next index names. SCATTER stores a row of the payload where
its index says. STREAM sends the next 4 KiB of its source. Both send under one translation of their destination, which a LOOKUP puts into
the cache of the engine's die where it is missing (07 R168). CHECK ends with OK where the range has its expected check value and
else with CHECK_MISMATCH. -/
def Obligations.QuayReadsAndWrites : Prop :=
  ∀ (s : State) (m k : Nat) (r : QRun) (w : BitVec 512),
    (RunReady s m k 0 r w → ∃ t, exec (.qnop m k) s = .next t ∧ RunEnded t m k r 0 ∧ EngineOnly m s t ∧
      OnlyIn [.engines] s t) ∧
    (∀ mm a x u, RunReady s m k 1 r w → r.next < r.arg.toNat % 65536 →
      CleanRead s r.vid (segA w) (qField w 16 8 + fieldAt r.payload (4 * r.next) 4 * qField w 24 4) (qField w 24 4)
        (qVerify w) mm a →
      SendsTo s m r w x u →
      ∃ t, exec (.gather m k) s = .next t ∧
        (t.engine m).running[k]? = some { r with
          ett := some x
          next := r.next + 1
          open_ := r.open_ ++ [(s.engine m).nextPidx]
          done := decide (r.next + 1 = r.arg.toNat % 65536) } ∧
        PacketSent s t (fun p => p.unit = u ∧ p.ty = 0 ∧ p.payload = memRead s mm a (qField w 24 4)) ∧
        EngineOnly m s t ∧ OnlyIn [.engines, .routers] s t) ∧
    (∀ mm a, RunReady s m k 2 r w → r.arg.toNat % 65536 = 1 → 64 + qField w 24 4 ≤ r.payload.length →
      PlainWrite s r.vid (segA w) (qField w 16 8 + fieldAt r.payload 0 4 * qField w 24 4) (qField w 24 4) mm a →
      ∃ t, exec (.scatter m k) s = .next t ∧ RunEnded t m k r 0 ∧
        memRead t mm a (qField w 24 4) = (r.payload.drop 64).take (qField w 24 4) ∧ MemOnly mm a (qField w 24 4) s t ∧
        EngineOnly m s t ∧ OnlyIn [.engines, .mem, .ueBlocks] s t) ∧
    (∀ mm a x u, RunReady s m k 3 r w → qField w 40 1 = qField w 41 1 → 4096 * r.next < qField w 24 4 →
      CleanRead s r.vid (segA w) (qField w 16 8 + r.arg.toNat % 2 ^ 32 * qField w 44 4) (qField w 24 4) (qVerify w) mm a →
      SendsTo s m r w x u →
      ∃ t, exec (.stream m k) s = .next t ∧
        (t.engine m).running[k]? = some { r with
          ett := some x
          next := r.next + 1
          open_ := r.open_ ++ [(s.engine m).nextPidx]
          done := decide (r.next + 1 = (qField w 24 4 + 4095) / 4096) } ∧
        PacketSent s t (fun p => p.unit = u ∧ p.ty = 0 ∧
          p.payload = ((memRead s mm a (qField w 24 4)).drop (4096 * r.next)).take 4096) ∧
        EngineOnly m s t ∧ OnlyIn [.engines, .routers, .hm, .voyages] s t) ∧
    (m < memCount → k < 8 → (s.engine m).running[k]? = some r → runWaits s m r = true →
      ∃ t, exec (.lookupFill (memUnit m) (BitVec.ofNat 3 k)) s = .next t ∧
        cacheLook t (memUnit m) (sendEp (entryOf s m r)) r.epoch =
          some (ettIn s (bankOfEpoch s r.epoch) (sendEp (entryOf s m r)).toNat) ∧ OnlyIn [.fabric] s t) ∧
    (∀ mm a, RunReady s m k 9 r w →
      CleanRead s r.vid (segA w) (qField w 16 8 + r.arg.toNat * qField w 24 4) (qField w 24 4) (qVerify w) mm a →
      ∃ t, exec (.check m k) s = .next t ∧
        RunEnded t m k r (if checkOf (qField w 28 1) (qField w 16 8 + r.arg.toNat * qField w 24 4)
            (BitVec.ofNat 16 (qField w 30 2)) (memRead s mm a (qField w 24 4)) = BitVec.ofNat 64 (qField w 32 8)
          then 0 else 4) ∧ EngineOnly m s t ∧ OnlyIn [.engines] s t)

/-- 08 R202 R203 R205 R207: KV_APPEND stores a row behind the slot's last and counts it; ATTN scores the next 4 KiB of keys, the last
of which end it, with no byte of memory changed (whole rows to a packet: DESIGN CHOICE, log entry 33); OPT runs a round and moves to the next, the last one closing the step; MIGRATE and COPY inside one memory copy the next 4 KiB; SCRUB leaves
zeros. -/
def Obligations.QuayUpdates : Prop :=
  ∀ (s : State) (m k : Nat) (r : QRun) (w : BitVec 512) (c : QCtx), ctxOf (s.engine m) r.vid = some c →
    (∀ mm a, RunReady s m k 4 r w → bits r.arg.toNat 12 12 = 1 → qField w 16 4 ≤ r.payload.length →
      bits r.arg.toNat 0 12 < qField w 24 2 →
      (look 0 c.lens (4096 * r.idx + bits r.arg.toNat 0 12)).toNat + 1 ≤ qField w 20 4 →
      PlainWrite s r.vid (segA w) (bits r.arg.toNat 0 12 * qField w 20 4 * qField w 16 4 +
        (look 0 c.lens (4096 * r.idx + bits r.arg.toNat 0 12)).toNat * qField w 16 4) (qField w 16 4) mm a →
      ∃ t, exec (.kvAppend m k) s = .next t ∧ RunEnded t m k r 0 ∧
        memRead t mm a (qField w 16 4) = r.payload.take (qField w 16 4) ∧ MemOnly mm a (qField w 16 4) s t ∧
        (ctxOf (t.engine m) r.vid).map (fun c => look 0 c.lens (4096 * r.idx + bits r.arg.toNat 0 12)) =
          some (look 0 c.lens (4096 * r.idx + bits r.arg.toNat 0 12) + 1) ∧
        EngineOnly m s t ∧ OnlyIn [.engines, .mem, .ueBlocks] s t) ∧
    (∀ lw base k0 len k1 per nk mm a, RunReady s m k 5 r w → lenEntry s m r.vid w = lw → attnKeys s m r w = (base, k0, len) →
      (if r.next = 0 then len else r.hi) = k1 → max 1 (4096 / max 1 (qField lw 16 4)) = per →
      min per (k1 - (k0 + per * r.next)) = nk →
      (nk ≠ 0 → CleanRead s r.vid (segA lw) (base + (k0 + per * r.next) * qField lw 16 4) (nk * qField lw 16 4) (qVerify w) mm a) →
      ∃ t, exec (.attn m k) s = .next t ∧ (k1 ≤ k0 + per * r.next + nk → RunEnded t m k r 0) ∧
        (k0 + per * r.next + nk < k1 → ∃ r', (t.engine m).running[k]? = some r' ∧ r'.next = r.next + 1 ∧ r'.hi = k1 ∧
          r'.done = false ∧ r'.payload = r.payload) ∧
        EngineOnly m s t ∧ OnlyIn [.free, .engines, .routers, .hm, .voyages] s t) ∧
    (∀ e0 rd step esz ma aa mb ab mc ac na xa nb xb nc xc, RunReady s m k 6 r w → qField w 29 1 = 15 →
      look 0 c.optR r.idx = rd → look 0 c.optStep r.idx = step → elemBits (qField w 28 1) / 8 = esz →
      qField w 16 8 + 1024 * rd = e0 →
      CleanRead s r.vid (segA w) (phaseRead s r.vid (segA w) + 4 * e0) 4096 (qVerify w) ma aa →
      CleanRead s r.vid (segB w) (phaseRead s r.vid (segB w) + esz * e0) (1024 * esz) (qVerify w) mb ab →
      CleanRead s r.vid (segC w) (phaseRead s r.vid (segC w) + esz * e0) (1024 * esz) (qVerify w) mc ac →
      qPlace s r.vid (segA w) true (phaseWrite s r.vid (segA w) + 4 * e0) 4096 = .at_ na xa →
      qPlace s r.vid (segB w) true (phaseWrite s r.vid (segB w) + esz * e0) (1024 * esz) = .at_ nb xb →
      qPlace s r.vid (segC w) true (phaseWrite s r.vid (segC w) + esz * e0) (1024 * esz) = .at_ nc xc →
      ∃ t, exec (.opt m k) s = .next t ∧ RunEnded t m k r 0 ∧
        (ctxOf (t.engine m) r.vid).map (fun c => look 0 c.optR r.idx) =
          some (if rd + 1 = qField w 24 4 then 0 else rd + 1) ∧
        (ctxOf (t.engine m) r.vid).map (fun c => look 0 c.optStep r.idx) =
          some (if rd + 1 = qField w 24 4 then step + 1 else step) ∧
        EngineOnly m s t ∧ OnlyIn [.engines, .mem, .ueBlocks, .sets, .hm, .voyages, .regs, .log] s t) ∧
    (∀ (copies : Bool) n mm a a2, RunReady s m k (if copies then 10 else 7) r w → 4096 * r.next < qField w 32 4 →
      min 4096 (qField w 32 4 - 4096 * r.next) = n →
      qPlace s r.vid (segB w) true (qField w 24 8 + r.arg.toNat * qField w 32 4) (qField w 32 4) = .at_ m a2 →
      CleanRead s r.vid (segA w) (qField w 16 8 + r.arg.toNat * qField w 32 4 + 4096 * r.next) n (qVerify w) mm a →
      ∃ t, exec (if copies then .copy m k else .migrate m k) s = .next t ∧
        (copyAt s m (a2 + 4096 * r.next) = none →
          memRead t m (a2 + 4096 * r.next) n = memRead s mm a n ∧ MemOnly m (a2 + 4096 * r.next) n s t) ∧
        (t.engine m).running[k]? = some { r with
          next := r.next + 1
          done := decide (qField w 32 4 ≤ 4096 * r.next + n) } ∧
        EngineOnly m s t ∧ OnlyIn [.engines, .mem, .ueBlocks, .sets] s t) ∧
    (∀ mm a, RunReady s m k 8 r w → PlainWrite s r.vid (segA w) (qField w 16 8) (qField w 24 8) mm a →
      ∃ t, exec (.scrub m k) s = .next t ∧ RunEnded t m k r 0 ∧
        (∀ j, j < qField w 24 8 → memByte t mm (a + j) = 0) ∧ MemOnly mm a (qField w 24 8) s t ∧
        EngineOnly m s t ∧ OnlyIn [.engines, .mem, .ueBlocks] s t)

/-! ## The memories and replica sets (08 R188 to R193, R209 to R214) -/

/-- 08 R188 to R193, 12 R320: a write in range that lies in no replica set is stored and a read answered with what memory holds; a row is refreshed;
a stack is hot above 85 degrees, and a change raises REFRESH_HOT; the patrol goes on to the next
block, corrects one it finds correctable, and one it finds uncorrectable with no copy to restore it from raises its causes; a read of such a
block is answered UNCORRECTABLE. 08 R212 R213: the audit of a block whose copies are all intact and equal only moves on; the third copy is asked for at its source,
and once it has come whole one that equals one of the copies settles its suspect block; without a third copy in time the block stays suspect and DIVERGENT is raised. -/
def Obligations.MemoriesAndReplicas : Prop :=
  (∀ (s : State) (m : Nat), m < memCount →
    (∀ p rest errs, unreachable s (memUnit m) = false → takeFirst (servable s m) (s.engine m).memIn = some (p, rest) →
      p.ty = 0 → memAddr p + p.payload.length ≤ memSize m → foreign s p = false → copyAt s m (memAddr p) = none →
      ∃ t, exec (.memoryAccess m errs) s = .next t ∧ (t.engine m).memIn = rest ∧
        memRead t m (memAddr p) p.payload.length = p.payload ∧ MemOnly m (memAddr p) p.payload.length s t ∧
        EngineOnly m s t ∧ OnlyIn [.engines, .mem, .ueBlocks, .routers, .regs, .log, .fabric] s t) ∧
    (∀ p rest u, unreachable s (memUnit m) = false → takeFirst (servable s m) (s.engine m).memIn = some (p, rest) →
      p.ty = 1 → memAddr p + 64 * p.len.toNat ≤ memSize m → foreign s p = false →
      errsIn s m (memAddr p) (64 * p.len.toNat) = [] → lostIn s m (memAddr p) (64 * p.len.toNat) = false →
      unitOfId s p.src = some u → Reached s u →
      ∃ t, exec (.memoryAccess m []) s = .next t ∧ (t.engine m).memIn = rest ∧
        PacketSent s t (fun x => x.ty = 2 ∧ x.unit = u ∧ x.payload = memRead s m (memAddr p) (64 * p.len.toNat)) ∧
        EngineOnly m s t ∧ OnlyIn [.engines, .routers] s t) ∧
    (∀ p rest u b, unreachable s (memUnit m) = false → takeFirst (servable s m) (s.engine m).memIn = some (p, rest) →
      p.ty = 1 → memAddr p + 64 * p.len.toNat ≤ memSize m → foreign s p = false →
      errsIn s m (memAddr p) (64 * p.len.toNat) = [(memKey m b, .ue)] → copyAt s m b = none →
      lostIn s m (memAddr p) (64 * p.len.toNat) = false →
      unitOfId s p.src = some u → Reached s u → (s.router (joinRouter s p.src)).acks = [] →
      ∃ t, exec (.memoryAccess m []) s = .next t ∧ (t.engine m).memIn = rest ∧
        PacketSent s t (fun x => x.ty = 3 ∧ x.unit = u ∧ statusOf x = 8) ∧
        causeSet t (26 + mifOf m) 0 1 ∧ causeSet t (26 + mifOf m) 0 2 ∧
        EngineOnly m s t ∧ OnlyIn [.engines, .routers, .regs, .log] s t) ∧
    (∀ row, (s.engine m).selfRefresh = false →
      ∃ t, exec (.refresh m row) s = .next t ∧
        (∀ i, look 0 (t.engine m).refreshed i = if i = row then s.tide.toNat else look 0 (s.engine m).refreshed i) ∧
        EngineOnly m s t ∧ OnlyIn [.engines] s t) ∧
    (∀ temp : Int, ∃ t, exec (.stackTempRead m temp) s = .next t ∧ (t.engine m).temp = temp ∧
        ((t.engine m).hot = true ↔ 8500 < temp) ∧ (t.engine m).interval = refreshMs (t.engine m) s.tide.toNat ∧
        ((t.engine m).interval ≠ (s.engine m).interval → causeSet t (26 + mifOf m) 0 4) ∧
        EngineOnly m s t ∧ OnlyIn [.engines, .regs, .log] s t) ∧
    ((s.engine m).selfRefresh = false → (s.engine m).lost = false → errsIn s m (64 * (s.engine m).patrol) 64 = [] →
      ∃ t, exec (.memoryPatrol m []) s = .next t ∧
        t.engine m = { s.engine m with patrol := ((s.engine m).patrol + 1) % (memSize m / 64) } ∧
        EngineOnly m s t ∧ OnlyIn [.engines] s t) ∧
    ((s.engine m).selfRefresh = false → (s.engine m).lost = false → 64 * (s.engine m).patrol < memSize m →
      errsIn s m (64 * (s.engine m).patrol) 64 = [] →
      ∃ t, exec (.memoryPatrol m [⟨m, (s.engine m).patrol, .ce⟩]) s = .next t ∧
        (t.engine m).patrol = ((s.engine m).patrol + 1) % (memSize m / 64) ∧
        look .good t.ueBlocks (memKey m (64 * (s.engine m).patrol)) = .good ∧ causeSet t (26 + mifOf m) 0 0 ∧
        EngineOnly m s t ∧ OnlyIn [.engines, .regs, .log, .ueBlocks] s t) ∧
    ((s.engine m).selfRefresh = false → (s.engine m).lost = false → 64 * (s.engine m).patrol < memSize m →
      look .good s.ueBlocks (memKey m (64 * (s.engine m).patrol)) = .good → copyAt s m (64 * (s.engine m).patrol) = none →
      ∃ t, exec (.memoryPatrol m [⟨m, (s.engine m).patrol, .ue⟩]) s = .next t ∧
        (t.engine m).patrol = ((s.engine m).patrol + 1) % (memSize m / 64) ∧
        look .good t.ueBlocks (memKey m (64 * (s.engine m).patrol)) = .ue ∧
        causeSet t (26 + mifOf m) 0 1 ∧ causeSet t (26 + mifOf m) 0 3 ∧
        EngineOnly m s t ∧ OnlyIn [.engines, .regs, .log, .ueBlocks] s t)) ∧
  (∀ (s : State) (rsid : Nat) (x : RepSet), s.rset rsid = some x →
    (x.ready = true → 0 < phaseBlocks x → unreachable s (memUnit (ownerMem s x)) = false → copiesOf x ≠ [] →
      x.suspects = [] → updating s rsid = false → writingBlock s x x.auditPos = false →
      (∀ p ∈ copiesOf x, unreachable s (memUnit (blockAt s x p.2 x.auditPos).1) = false ∧
        errsIn s (blockAt s x p.2 x.auditPos).1 (blockAt s x p.2 x.auditPos).2 blockBytes = [] ∧
        errsIn s (recordAt s x p.2 x.auditPos).1 (recordAt s x p.2 x.auditPos).2 16 = [] ∧
        intact s x p.2 x.auditPos = true) →
      (∀ p ∈ copiesOf x, ∀ q ∈ copiesOf x, blockGen s x p.2 x.auditPos = blockGen s x q.2 x.auditPos ∧
        blockData s x p.2 x.auditPos = blockData s x q.2 x.auditPos) →
      exec (.replicaAudit rsid) s =
        .next (s.setRset rsid (some { x with auditPos := (x.auditPos + 1) % (x.phases * phaseBlocks x) }))) ∧
    (∀ b y d o vc, suspectOf x b = some (y, d) → y.asked = none → epOut s (ownerMem s x) x.srcEp = some (o, vc) →
      sealedOff s (portUnit o) = false →
      ∃ t, exec (.thirdCopyArrival rsid b) s = .next t ∧
        PacketSent s t (fun p => p.ty = 1 ∧ p.dst = x.srcEp ∧ p.unit = portUnit o ∧ pidxOf p = (s.engine (ownerMem s x)).nextPidx) ∧
        OnlyIn [.sets, .engines, .routers, .fabric] s t) ∧
    (∀ b y d p k s1 got sid, suspectOf x b = some (y, d) → y.asked = some p → takeAnswer s (ownerMem s x) p = some (k, s1) → k.ty = 2 →
      y.got ++ slice k.payload 0 (srcNext x b y.got.length).2 = got → blockBytes + 64 ≤ got.length → sid ∈ y.pair →
      blockGen s x sid b = BitVec.ofNat 16 (fieldAt (gotRecord x b got) 0 2) → blockData s x sid b = got.take blockBytes →
      ∃ t, exec (.thirdCopyArrival rsid b) s = .next t ∧
        t.rset rsid = some { x with suspects := x.suspects.filter fun y => decide (y.block ≠ b) } ∧
        OnlyIn [.sets, .mem, .ueBlocks, .voyages, .engines, .regs, .log] s t) ∧
    (∀ b y d, suspectOf x b = some (y, d) → d ≤ s.tide.toNat → s.voyages = [] →
      ∃ t, exec (.thirdCopyTimeout rsid b) s = .next t ∧
        t.rset rsid = some { x with
          suspects := x.suspects.map fun y => if y.block = b then { y with deadline := none } else y } ∧
        causeSet t (26 + mifOf (ownerMem s x)) 0 10 ∧ OnlyIn [.sets, .regs, .log] s t))

/-- 09 R222 R223 R225: a unit whose packets have completed answers the invalidation; when all have, the bytes are at the new place, the
record says so and the move is over; a fault on a RESIDENT segment resumes the transfer, and one on a PARKED segment starts its
move home where there is space. -/
def Obligations.SegmentsMove : Prop :=
  ∀ (s : State) (sid : Nat), s.canonical = true →
    (∀ v u, u < 5264 → (s.seg sid).move = some v → u ∈ v.waiting → inFlight s u sid = false →
      exec (.invalAck sid u) s =
        .next (s.setSeg sid { s.seg sid with move := some { v with waiting := without u v.waiting } })) ∧
    (∀ v, s.hm.hung = none → (s.seg sid).move = some v → v.waiting = [] → v.copied = false → v.asker = none →
      ∃ t, exec (.segReady sid) s = .next t ∧ (t.seg sid).st = v.toState ∧ (t.seg sid).tierB = v.tierB ∧
        (t.seg sid).mem = v.mem ∧ (t.seg sid).base = v.base ∧ (t.seg sid).move = none ∧
        (t.seg sid).len = (s.seg sid).len ∧ (t.seg sid).gen = (s.seg sid).gen ∧
        (∀ j, j < (s.seg sid).len → memByte t (memOf v.tierB v.mem) (v.base + j) =
          memByte s (memOf (s.seg sid).tierB (s.seg sid).mem) ((s.seg sid).base + j)) ∧
        MemOnly (memOf v.tierB v.mem) v.base (s.seg sid).len s t ∧ (∀ i, i ≠ sid → t.seg i = s.seg i) ∧
        RegsOnly [leafOff 48 0] s t ∧ (mappers s sid = [] → OnlyIn [.segs, .mem, .ueBlocks, .cores, .engines, .voyages] s t) ∧
        OnlyIn [.segs, .mem, .ueBlocks, .cores, .engines, .voyages, .free, .regs, .log] s t) ∧
    (∀ c q e l r, s.hm.hung = none → (s.seg sid).st = 1 → q < 8 → queueOf (s.core c) q = l ++ e :: r →
      (∀ x ∈ l, entrySent x = true) → entrySent e = false → e.suspended = true → entryOn s (s.core c).misc.vid sid e = true →
      ∃ t e', exec (.faultResolve sid) s = .next t ∧ queueOf (t.core c) q = l ++ e' :: r ∧ e'.suspended = false ∧
        e'.desc = e.desc ∧ e'.next = e.next ∧ t.seg sid = { s.seg sid with faulted := false } ∧ SegOnly sid s t ∧
        OnlyIn [.cores, .engines, .voyages, .segs] s t) ∧
    (∀ c q e l r, s.hm.hung = none → (s.seg sid).st = 3 → q < 8 → queueOf (s.core c) q = l ++ e :: r →
      (∀ x ∈ l, entrySent x = true) → entrySent e = false → e.suspended = true → entryOn s (s.core c).misc.vid sid e = true → segFits s (s.seg sid).home.toNat 0 (s.seg sid).len = true →
      ∃ t v, exec (.faultResolve sid) s = .next t ∧ (t.seg sid).st = 2 ∧ (t.seg sid).move = some v ∧ v.tierB = false ∧
        v.mem = (s.seg sid).home.toNat ∧ v.toState = 1 ∧ segFits s v.mem v.base (s.seg sid).len = true ∧
        SegOnly sid s t ∧ OnlyIn [.segs, .cores, .engines, .free, .hm] s t)

/-! ## Pre-emption and completion (09 R228 to R235, 10 R257) -/

/-- 09 R228: at the deadline of a soft pre-emption an escalating request becomes HARD, and another is withdrawn: the reply carries
TIMEOUT and the voyage runs on. 04 R112, 10 R257: a voyage all of whose cores have ended and whose quay manifests have finished is ENDED, its event says OK and its mooring
ordinal, its cores wait for their scrub; every other member of its race group ends too. Of members that have completed the one that did so
first ends so, of several in one tick the one of the lowest VID. -/
def Obligations.DeadlinesAndEnds : Prop :=
  (∀ (s : State) (vid : Nat) (v : Voyage) (q : PreemptReq) (d : Nat), s.voyage vid = some v → v.preempt = some q →
    q.deadline = some d → q.hard = false → v.st = vSaving → d ≤ s.tide.toNat →
    (q.esc = true → ∃ t, exec (.preemptDeadline vid) s = .next t ∧
      t.voyage vid = some { v with savePhase := max 1 v.savePhase, preempt := some { q with hard := true } } ∧
      VoyageOnly vid s t ∧ OnlyIn [.voyages] s t) ∧
    (∀ a m, q.esc = false → q.asker = some a → (s.box a.mb).msg = some m → m.seq = a.seq → m.ty = a.ty → a.mb < boxCount →
      ∃ t, exec (.preemptDeadline vid) s = .next t ∧ t.voyage vid = some { v with st := vRunning, preempt := none } ∧
      Replied t a.mb m stTimeout 0 [] ∧ BoxOnly a.mb s t ∧ RegsOnly replyRegs s t ∧ VoyageOnly vid s t ∧
      OnlyIn [.voyages, .hm, .regs, .log] s t) ∧
    (q.esc = false → q.asker = none → ∃ t, exec (.preemptDeadline vid) s = .next t ∧
      t.voyage vid = some { v with st := vRunning, preempt := none } ∧ VoyageOnly vid s t ∧ OnlyIn [.voyages] s t)) ∧
  (∀ (s : State) (vid : Nat) (v : Voyage), s.canonical = true → vid < 65535 → s.hm.hung = none → s.voyage vid = some v →
    complete s vid = true →
    (v.race = 0 → v.retain = false → v.preempt = none → v.savePhase = 0 → evtHeld s < 1024 →
      ∃ t w, exec (.voyageComplete vid) s = .next t ∧ t.voyage vid = some w ∧ w.st = vEnded ∧ w.endTick = s.tide ∧
        (∀ c ∈ coresOf s (BitVec.ofNat 16 vid), (t.core c).misc.scrubbing = true ∧ (t.core c).sync.run = .stopped) ∧
        EventPut s t (voyageEvent s vid v 0x01 stOk v.ordinal.toNat 0) ∧ RegsOnly (eventRegs s) s t ∧ VoyageOnly vid s t ∧
        OnlyIn [.cores, .hm, .voyages, .engines, .routers, .parts, .regs, .log] s t) ∧
    (∃ t w, exec (.voyageComplete vid) s = .next t ∧ t.voyage (raceWinner s vid) = some w ∧ w.st = vEnded ∧
      complete s (raceWinner s vid) = true ∧
      (∀ x, x = vid ∨ x ∈ raceOthers s vid ∧ complete s x = true → doneAt s (raceWinner s vid) < doneAt s x ∨
        doneAt s (raceWinner s vid) = doneAt s x ∧ raceWinner s vid ≤ x) ∧
      (∀ x ∈ raceOthers s (raceWinner s vid), ∃ y, t.voyage x = some y ∧ y.st = vEnded)))

/-- 09 R231 to R233: the phases of a hard pre-emption. Every core stops at its step boundary; once the transfers are quiet the berths
close; once berths and rounds are quiet the save begins; the core images are written to the staging slots, and no other byte of
the memories but the routers' capture regions; at the end of the save the voyage is PREEMPTED and its event says so. Parking frees the
slots and regions. -/
def Obligations.HardSavesRunInPhases : Prop :=
  ∀ (s : State) (vid : Nat) (v : Voyage), s.canonical = true → vid < 65535 → s.hm.hung = none → s.voyage vid = some v →
    (v.st = vSaving → v.due = [] → v.savePhase = 1 →
      ∃ t, exec (.hardSavePhaseEnd vid) s = .next t ∧ t.voyage vid = some { v with savePhase := 2, stopTick := s.tide } ∧
        (∀ c ∈ coresOf s (BitVec.ofNat 16 vid), t.core c = haltForSave (s.core c) ∧ (t.core c).sync.run ≠ .running ∧
          (t.core c).sync.waiting = none ∧ (t.core c).seq.pend = []) ∧
        (∀ c, c ∉ coresOf s (BitVec.ofNat 16 vid) → t.core c = s.core c) ∧ VoyageOnly vid s t ∧ OnlyIn [.cores, .voyages] s t) ∧
    (v.st = vSaving → v.due = [] → v.savePhase = 2 → transfersQuiet s (BitVec.ofNat 16 vid) = true →
      ∃ t, exec (.hardSavePhaseEnd vid) s = .next t ∧
        t.voyage vid = some { v with savePhase := 3, save := some (berthSnapshot s v) } ∧
        (∀ c ∈ coresOf s (BitVec.ofNat 16 vid), ∀ i, (berthOf (t.core c) i).isOpen = false) ∧
        (∀ c, c ∉ coresOf s (BitVec.ofNat 16 vid) → t.core c = s.core c) ∧ VoyageOnly vid s t ∧ OnlyIn [.cores, .voyages] s t) ∧
    (v.st = vSaving → v.due = [] → v.savePhase = 3 → berthsQuiet s (BitVec.ofNat 16 vid) = true →
      roundsQuiet s (BitVec.ofNat 16 vid) = true → slotsHeld s vid (coresOf s (BitVec.ofNat 16 vid)) = false →
      ∃ t, exec (.hardSavePhaseEnd vid) s = .next t ∧ t.voyage vid = some { v with savePhase := 4 } ∧
        VoyageOnly vid s t ∧ OnlyIn [.voyages] s t) ∧
    (∀ g i, v.st = vSaving → v.due = [] → v.savePhase = 4 → v.save = some g → i = capture s vid v g →
      (∀ r ∈ capturedRouters i, (captureBytes (capturedAt i r)).length ≤ 0x90000) →
      ∃ t, exec (.hardSavePhaseEnd vid) s = .next t ∧
        t.voyage vid = some { v with
          savePhase := 5
          save := some i
          faultTicks := (suspendedSince s (BitVec.ofNat 16 vid)).foldl (fun x d => x + BitVec.ofNat 64 (s.tide.toNat - d)) v.faultTicks } ∧
        (∀ p ∈ i.cores, (∀ q ∈ i.cores, stageSlot (placeOf v q.1) = stageSlot (placeOf v p.1) → q = p) →
          memRead t (stageSlot (placeOf v p.1)).1 (stageSlot (placeOf v p.1)).2 saveBytes =
            saveImage p.2 v.img (coreX p.1, coreY p.1) v.stopTick (reg s (fabBase + 0x1C))) ∧
        (∀ k, (∀ a ∈ stagingParts v i, k < memKey a.1 a.2.1 ∨ memKey a.1 a.2.1 + a.2.2 ≤ k) → look 0 t.mem k = look 0 s.mem k) ∧
        VoyageOnly vid s t ∧ OnlyIn [.mem, .voyages] s t) ∧
    (∀ g, v.st = vSaving → v.due = [] → v.savePhase = 5 → v.save = some g → v.preempt = none → evtHeld s < 1024 →
      ∃ t w, exec (.hardSavePhaseEnd vid) s = .next t ∧ t.voyage vid = some w ∧ w.st = vPreempted ∧ w.save = some g ∧
        w.preempts = v.preempts + 1 ∧ w.ordinal = v.ordinal ∧ w.pid = v.pid ∧ w.img = v.img ∧
        (∀ c ∈ coresOf s (BitVec.ofNat 16 vid), (t.core c).misc.scrubbing = true ∧ (t.core c).sync.run = .stopped) ∧
        EventPut s t (voyageEvent s vid v 0x03 stPreempted 1 0) ∧ RegsOnly (eventRegs s) s t ∧ VoyageOnly vid s t ∧
        OnlyIn [.cores, .hm, .voyages, .engines, .routers, .parts, .free, .regs, .log] s t) ∧
    (∀ g n, v.st = vPreempted → v.save = some g → g.hard = true → g.parked = false →
      n = (g.stores.map fun m => 72 + mifOf m).foldl (fun l m => addOnce m l) [] →
      (stagingParts v g = [] → ∃ t, exec (.saveParkDone vid) s = .next t ∧
        t.voyage vid = some { v with save := some { g with parked := true, stores := n } } ∧ VoyageOnly vid s t ∧ OnlyIn [.voyages] s t) ∧
      ∃ t w, exec (.saveParkDone vid) s = .next t ∧ t.voyage vid = some w ∧ w.save = some { g with parked := true, stores := n } ∧
        w.st = vPreempted ∧ (∀ a ∈ stagingParts v g, ∀ j, j < a.2.2 → memByte t a.1 (a.2.1 + j) = 0) ∧
        VoyageOnly vid s t ∧ OnlyIn [.mem, .ueBlocks, .free, .segs, .voyages] s t)

/-! ## Mailboxes (10 R246 to R250) -/

/-- 10 R246 R250: a write into an idle mailbox's request slot is stored, and one that covers byte 3 submits the message; a submission
into a mailbox that is not IDLE is discarded and sets OVERRUN; acceptance copies the message; when its timeout has passed a message
of a type that does not continue is answered with TIMEOUT and has no effect. 10 R248 R249: a message of the wrong length or with a reserved
byte set is answered with BAD_MESSAGE at every stage; another one that comes before bring-up has reached its stage with NOT_READY and the
stage, or, where a value of it is out of range or names nothing, with BAD_MESSAGE (that BAD_MESSAGE goes first is the model's choice, log
entry 36); none has any other effect. -/
def Obligations.MailboxesServe : Prop :=
  (∀ (s : State) (mb : Nat), mb < boxCount →
    (∀ off data, (s.box mb).st = 0 → off + data.length ≤ 4096 → ¬(off ≤ 3 ∧ 3 < off + data.length) →
      ∃ t, exec (.mailboxSubmit mb off data) s = .next t ∧
        t.box mb = { s.box mb with req := (t.box mb).req } ∧ lookRange 0 (t.box mb).req off data.length = data ∧
        (∀ i, i < off ∨ off + data.length ≤ i → look 0 (t.box mb).req i = look 0 (s.box mb).req i) ∧
        BoxOnly mb s t ∧ OnlyIn [.hm] s t) ∧
    (∀ off data, (s.box mb).st = 0 → off + data.length ≤ 4096 → off ≤ 3 → 3 < off + data.length →
      ∃ t, exec (.mailboxSubmit mb off data) s = .next t ∧ (t.box mb).st = 1 ∧ (t.box mb).msg = (s.box mb).msg ∧
        lookRange 0 (t.box mb).req off data.length = data ∧
        (∀ i, i < off ∨ off + data.length ≤ i → look 0 (t.box mb).req i = look 0 (s.box mb).req i) ∧
        getField t (hmBase + 0x18) (2 * mb) 2 = 1 ∧ BoxOnly mb s t ∧ RegsOnly [hmBase + 0x18] s t ∧ OnlyIn [.hm, .regs] s t) ∧
    (∀ off data, (s.box mb).st ≠ 0 → off ≤ 3 → 3 < off + data.length →
      ∃ t, exec (.mailboxSubmit mb off data) s = .next t ∧ causeSet t 0 0 (16 + mb) ∧ RegsOnly (causeRegs 0 0) s t ∧
        OnlyIn [.regs, .log] s t) ∧
    ((s.box mb).st = 1 → s.hm.hung = none → s.hm.idle.state = 0 →
      (msgType (fieldAt (lookRange 0 (s.box mb).req 0 4096) 4 2)).isSome = true →
      ∃ t, exec (.mailboxAccept mb) s = .next t ∧ (t.box mb).st = 2 ∧ (t.box mb).msg = some (copyMsg s mb) ∧
        (t.box mb).rep = (s.box mb).rep ∧ getField t (hmBase + 0x18) (2 * mb) 2 = 2 ∧ t.hm.accepts = s.hm.accepts + 1 ∧
        BoxOnly mb s t ∧ RegsOnly [hmBase + 0x18] s t ∧ OnlyIn [.hm, .regs] s t) ∧
    ((s.box mb).st = 1 → s.hm.hung = none → s.hm.idle.state = 0 →
      msgType (fieldAt (lookRange 0 (s.box mb).req 0 4096) 4 2) = none →
      ∃ t, exec (.mailboxAccept mb) s = .next t ∧ Replied t mb (copyMsg s mb) stBadMessage 0 [] ∧
        BoxOnly mb s t ∧ RegsOnly replyRegs s t ∧ OnlyIn [.hm, .regs, .log] s t) ∧
    (∀ m t0 d, (s.box mb).msg = some m → m.timeout = some t0 → m.tick + t0 ≤ s.tide.toNat → s.hm.hung = none →
      msgType m.ty.toNat = some (d, false) →
      ∃ t, exec (.messageTimeout mb) s = .next t ∧ Replied t mb m stTimeout 0 [] ∧
        BoxOnly mb s t ∧ RegsOnly replyRegs s t ∧ OnlyIn [.hm, .regs, .log] s t)) ∧
  (∀ (s : State) (mb : Nat) (m : Msg), mb < boxCount → (s.box mb).msg = some m → m.begun = false → s.hm.hung = none →
    earlier s mb m = false → ∀ x ∈ fixedMessages, m.ty.toNat = x.2.1 →
    (wellFormed m x.2.2.2.1 x.2.2.2.2 = false →
      ∃ t, exec (x.1 mb) s = .next t ∧ Replied t mb m stBadMessage 0 [] ∧ BoxOnly mb s t ∧ RegsOnly replyRegs s t ∧
        OnlyIn [.hm, .regs, .log] s t) ∧
    (wellFormed m x.2.2.2.1 x.2.2.2.2 = true → stage s < x.2.2.1 →
      ∃ t, exec (x.1 mb) s = .next t ∧ BoxOnly mb s t ∧ RegsOnly replyRegs s t ∧ OnlyIn [.hm, .regs, .log] s t ∧
        (Replied t mb m stNotReady (stage s) [] ∨ Replied t mb m stBadMessage 0 []) ∧
        (x.2.1 ∈ [0x03, 0x04, 0x06, 0x11] ∨ x.2.1 = 0x05 ∧ mf m 16 8 < 2 ^ 48 ∨ x.2.1 = 0x07 ∧ mf m 16 2 = 0xFFFF ∨
          x.2.1 ∈ [0x36, 0x37] ∧ (s.voyage (mf m 16 2)).isSome = true → Replied t mb m stNotReady (stage s) [])))

/-- 10 Table 10-11, 02 R51, 13 R349, 07 R183: GET_INFO, GET_LOG, LATENCY_TOLERANCE, GET_DTAB and GET_HEALTH answer. What a host buffer takes
is written there, unless the access fails, which the reply says. -/
def Obligations.DeviceMessagesAnswer : Prop :=
  ∀ (s : State) (mb : Nat) (m : Msg),
    (MsgServed s mb 0x01 0 16 [] m → ∃ t, exec (.getInfo mb) s = .next t ∧ Replied t mb m stOk 0 (infoBody s) ∧
      BoxOnly mb s t ∧ RegsOnly replyRegs s t ∧ OnlyIn [.hm, .regs, .log] s t) ∧
    (MsgServed s mb 0x02 0 36 [(16, 8), (24, 8), (32, 1)] m → mf m 32 1 = 0 → (logFile s).length ≤ mf m 24 8 →
      ∃ t, exec (.getLog mb) s = .next t ∧
      (if (hostFails s).2 = true then Replied t mb m stFaulted 4 [] ∧ t.host = s.host
        else Replied t mb m stOk 0 (leBytes 8 (logFile s).length) ∧ hostRead t (mf m 16 8) (logFile s).length = logFile s ∧
          ∀ a, a < mf m 16 8 ∨ mf m 16 8 + (logFile s).length ≤ a → look 0 t.host a = look 0 s.host a) ∧
      BoxOnly mb s t ∧ RegsOnly replyRegs s t ∧ OnlyIn [.hm, .regs, .log, .host, .free] s t) ∧
    (∀ d, MsgServed s mb 0x02 0 36 [(16, 8), (24, 8), (32, 1)] m → mf m 32 1 = 1 → s.log.dumps.getLast? = some d →
      (dumpFile d).length ≤ mf m 24 8 →
      ∃ t, exec (.getLog mb) s = .next t ∧
      (if (hostFails s).2 = true then Replied t mb m stFaulted 4 [] ∧ t.host = s.host
        else Replied t mb m stOk 0 (leBytes 8 (dumpFile d).length) ∧ (t.log.dumps.getLast?).map (·.read) = some true ∧
          hostRead t (mf m 16 8) (dumpFile d).length = dumpFile d) ∧
      BoxOnly mb s t ∧ RegsOnly replyRegs s t ∧ OnlyIn [.hm, .regs, .log, .host, .free] s t) ∧
    (MsgServed s mb 0x03 9 20 [(16, 4)] m → ∃ t, exec (.latencyTolerance mb) s = .next t ∧
      t.hm.idle.tol = some (BitVec.ofNat 32 (mf m 16 4)) ∧ reg t (hmBase + 0x14) = BitVec.ofNat 32 (mf m 16 4) ∧
      getField t (hmBase + 0x10) 3 3 = deepest t ∧ getField t (hmBase + 0x10) 7 1 = 1 ∧
      Replied t mb m stOk 0 (leBytes 1 (deepest t)) ∧ BoxOnly mb s t ∧
      RegsOnly ((hmBase + 0x10) :: (hmBase + 0x14) :: replyRegs) s t ∧ OnlyIn [.hm, .regs, .log] s t) ∧
    (MsgServed s mb 0x06 7 32 [(16, 8), (24, 8)] m → dtabLen ≤ mf m 24 8 →
      ∃ t, exec (.getDtab mb) s = .next t ∧
      (if (hostFails s).2 = true then Replied t mb m stFaulted 4 [] ∧ t.host = s.host
        else Replied t mb m stOk 0 (leBytes 4 (reg s (fabBase + 0x1C)).toNat ++ leBytes 4 dtabLen) ∧
          hostRead t (mf m 16 8) s.fabric.dtab.length = s.fabric.dtab) ∧
      BoxOnly mb s t ∧ RegsOnly replyRegs s t ∧ OnlyIn [.hm, .regs, .log, .host, .free] s t) ∧
    (∀ v, MsgServed s mb 0x07 9 20 [(16, 2)] m → mf m 16 2 ≠ 0xFFFF → s.voyage (mf m 16 2) = some v →
      ∃ t, exec (.getHealth mb) s = .next t ∧
      Replied t mb m stOk 0 (leBytes 8 s.hm.healthTick.toNat ++
        ((lookRange 0 v.health 0 55).map fun x => leBytes 8 x.toNat).flatten) ∧
      BoxOnly mb s t ∧ RegsOnly replyRegs s t ∧ OnlyIn [.hm, .regs, .log] s t) ∧
    (MsgServed s mb 0x07 9 20 [(16, 2)] m → mf m 16 2 = 0xFFFF →
      ∃ t, exec (.getHealth mb) s = .next t ∧
      Replied t mb m stOk 0 (leBytes 8 s.hm.healthTick.toNat ++
        ((lookRange 0 s.hm.health 0 55).map fun x => leBytes 8 x.toNat).flatten) ∧
      BoxOnly mb s t ∧ RegsOnly replyRegs s t ∧ OnlyIn [.hm, .regs, .log] s t)

/-- 07 R166 R167 R171, 11 R278: ETT_WRITE writes its entries to the standby bank, ETT_SWAP schedules the swap 1,024 ticks or more after its
acceptance, SET_PANEL_ID writes the home block of the new number to the standby bank and schedules its swap, PORT_TRANSIT switches
TRANSIT of every port. -/
def Obligations.FabricMessagesAct : Prop :=
  ∀ (s : State) (mb : Nat) (m : Msg),
    (∀ n, n = mf m 20 2 → MsgServed s mb 0x10 7 (24 + 8 * n) [(16, 4), (20, 2), (24, 8 * n)] m → 1 ≤ n → n ≤ 509 →
      mf m 16 4 + n ≤ 0x200000 → (∀ i, i < n → ettOk (mf m (24 + 8 * i) 8) = true) → ettState s = 0 →
      ∃ t, exec (.ettWrite mb) s = .next t ∧
      (∀ i, look 0 (bankMap t (1 - ettBank s)) i =
        if mf m 16 4 ≤ i ∧ i < mf m 16 4 + n then BitVec.ofNat 64 (mf m (24 + 8 * (i - mf m 16 4)) 8)
        else look 0 (bankMap s (1 - ettBank s)) i) ∧
      bankMap t (ettBank s) = bankMap s (ettBank s) ∧ Replied t mb m stOk 0 [] ∧ BoxOnly mb s t ∧ RegsOnly replyRegs s t ∧
      OnlyIn [.fabric, .hm, .regs, .log] s t) ∧
    (MsgServed s mb 0x11 7 16 [] m → ettState s = 0 →
      ∃ t d, exec (.ettSwap mb) s = .next t ∧ 1024 ≤ d ∧ reg64 t swapTickOff = BitVec.ofNat 64 (m.tick + d) ∧
      ettState t = 1 ∧ t.fabric.swapper = some (askerOf mb m none) ∧ bankMap t 0 = bankMap s 0 ∧ bankMap t 1 = bankMap s 1 ∧
      Begun t mb m ∧ BoxOnly mb s t ∧ RegsOnly [swapTickOff, swapTickOff + 4, ettStatusOff] s t ∧
      OnlyIn [.fabric, .hm, .regs, .free] s t) ∧
    (MsgServed s mb 0x04 7 20 [(16, 1)] m → s.voyages = [] → ettState s = 0 →
      ∃ t d, exec (.setPanelId mb) s = .next t ∧ 1024 ≤ d ∧ reg64 t swapTickOff = BitVec.ofNat 64 (m.tick + d) ∧
      ettState t = 1 ∧ t.fabric.newPanel = some (BitVec.ofNat 8 (mf m 16 1)) ∧
      (∀ u, u < 8192 → look 0 (bankMap t (1 - ettBank s)) (8192 * mf m 16 1 + u) = localEntry u) ∧
      (∀ i, i < 8192 * mf m 16 1 ∨ 8192 * mf m 16 1 + 8192 ≤ i →
        look 0 (bankMap t (1 - ettBank s)) i = look 0 (bankMap s (1 - ettBank s)) i) ∧
      bankMap t (ettBank s) = bankMap s (ettBank s) ∧ panelId t = panelId s ∧ Begun t mb m ∧ BoxOnly mb s t ∧
      RegsOnly [swapTickOff, swapTickOff + 4, ettStatusOff] s t ∧ OnlyIn [.fabric, .hm, .regs, .free] s t) ∧
    (MsgServed s mb 0x05 7 24 [(16, 8)] m → mf m 16 8 < 2 ^ 48 →
      (∀ p, p < portCount → bitOf (mf m 16 8) p = true → portLicensed s p = true) →
      ∃ t, exec (.portTransit mb) s = .next t ∧ (∀ p, p < portCount → transitOn t p = bitOf (mf m 16 8) p) ∧
      Replied t mb m stOk 0 [] ∧ BoxOnly mb s t ∧ OnlyIn [.ports, .routers, .fabric, .hm, .regs, .log] s t) ∧
    (∀ p, MsgServed s mb 0x05 7 24 [(16, 8)] m → mf m 16 8 < 2 ^ 48 → p < portCount → bitOf (mf m 16 8) p = true →
      portLicensed s p = false →
      ∃ t, exec (.portTransit mb) s = .next t ∧ Replied t mb m stLicence 0 [] ∧ BoxOnly mb s t ∧ RegsOnly replyRegs s t ∧
      OnlyIn [.hm, .regs, .log] s t)

/-! ## Segment, window and replica messages (10 Table 10-12) -/

/-- 09 R217 R222, 06 R147, 10 R242 R243: SEG_CREATE takes a FREE SID and a place that fits, and zeroes it unless PENDING; SEG_RELEASE scrubs a
segment that no voyage maps and closes its windows; SEG_MOVE starts the move to a place that fits; SEG_LOADED makes a PENDING
segment RESIDENT; WINDOW_SET writes the window's descriptor. -/
def Obligations.SegmentMessagesAct : Prop :=
  ∀ (s : State) (mb : Nat) (m : Msg), s.canonical = true →
    (∀ tierB, tierB = decide (mf m 24 1 = 1) →
      MsgServed s mb 0x20 9 32 [(16, 8), (24, 1), (25, 1), (26, 1), (27, 1), (28, 1)] m → mf m 16 8 % 65536 = 0 → 0 < mf m 16 8 →
      mf m 24 1 ≤ 1 → memIndexOk tierB (mf m 25 1) = true → memIndexOk false (mf m 27 1) = true → mf m 28 1 < 4 →
      (tierB = true → licensed s 1 = true) → (∃ i, i < 65535 ∧ sidFree s i = true) →
      (∃ k, k ∈ memChoices s tierB (mf m 25 1) ∧ segFits s k 0 (mf m 16 8) = true) →
      ∃ t i k base, exec (.segCreate mb) s = .next t ∧ i < 65535 ∧ sidFree s i = true ∧ k ∈ memChoices s tierB (mf m 25 1) ∧
      segFits s k base (mf m 16 8) = true ∧
      t.seg i = { st := if bitOf (mf m 28 1) 0 then 4 else 1, tierB := tierB, mem := if tierB then k - 72 else k,
                  gen := (s.seg i).gen, prio := BitVec.ofNat 8 (mf m 26 1), home := BitVec.ofNat 8 (mf m 27 1), base := base,
                  len := mf m 16 8, excl := bitOf (mf m 28 1) 1 } ∧
      (bitOf (mf m 28 1) 0 = false → ∀ j, j < mf m 16 8 → memByte t k (base + j) = 0) ∧ MemOnly k base (mf m 16 8) s t ∧
      Replied t mb m stOk 0 (leBytes 2 i ++ [(s.seg i).gen] ++ leBytes 1 (if tierB then k - 72 else k) ++ zeros 4 ++ leBytes 8 base) ∧
      SegOnly i s t ∧ BoxOnly mb s t ∧ RegsOnly replyRegs s t ∧ OnlyIn [.segs, .mem, .ueBlocks, .free, .hm, .regs, .log] s t) ∧
    (∀ sid, sid = mf m 16 2 → MsgServed s mb 0x21 9 20 [(16, 2), (18, 1)] m → segKnown s sid (mf m 18 1) = true → mappers s sid = [] →
      segBusy s sid = false →
      ∃ t, exec (.segRelease mb) s = .next t ∧ (t.seg sid).st = 0 ∧
      (t.seg sid).gen = (if (s.seg sid).gen = 255#8 then 255#8 else (s.seg sid).gen + 1) ∧
      (∀ j, j < (s.seg sid).len → memByte t (memOf (s.seg sid).tierB (s.seg sid).mem) ((s.seg sid).base + j) = 0) ∧
      ((s.seg sid).move = none → MemOnly (memOf (s.seg sid).tierB (s.seg sid).mem) (s.seg sid).base (s.seg sid).len s t) ∧
      (∀ w ∈ winsOf s sid, winOn t w = false) ∧ (∀ w, w < 256 → w ∉ winsOf s sid → winOn t w = winOn s w) ∧
      Replied t mb m stOk 0 [] ∧ SegOnly sid s t ∧ BoxOnly mb s t ∧ OnlyIn [.segs, .mem, .ueBlocks, .hm, .regs, .log] s t) ∧
    (∀ sid, sid = mf m 16 2 → MsgServed s mb 0x21 9 20 [(16, 2), (18, 1)] m → segKnown s sid (mf m 18 1) = true →
      mappers s sid ≠ [] ∨ segBusy s sid = true →
      ∃ t, exec (.segRelease mb) s = .next t ∧ Replied t mb m stBusy 0 [] ∧ BoxOnly mb s t ∧ RegsOnly replyRegs s t ∧
      OnlyIn [.hm, .regs, .log] s t) ∧
    (∀ sid tierB, sid = mf m 16 2 → tierB = decide (mf m 19 1 = 1) →
      MsgServed s mb 0x22 9 24 [(16, 2), (18, 1), (19, 1), (20, 1), (21, 1), (22, 1)] m → segKnown s sid (mf m 18 1) = true →
      mf m 19 1 ≤ 1 → memIndexOk tierB (mf m 20 1) = true → memIndexOk false (mf m 22 1) = true →
      (tierB = true → licensed s 1 = true) → (s.seg sid).st = 1 ∨ (s.seg sid).st = 3 → segBusy s sid = false →
      (∃ k, k ∈ memChoices s tierB (mf m 20 1) ∧ segFits s k 0 (s.seg sid).len = true) →
      ∃ t w, exec (.segMove mb) s = .next t ∧ (t.seg sid).st = 2 ∧ (t.seg sid).move = some w ∧ w.tierB = tierB ∧
      memOf w.tierB w.mem ∈ memChoices s tierB (mf m 20 1) ∧ segFits s (memOf w.tierB w.mem) w.base (s.seg sid).len = true ∧
      w.toState = (if tierB = true ∧ mf m 22 1 ≠ 0xFF then 3 else 1) ∧ w.prio = BitVec.ofNat 8 (mf m 21 1) ∧
      w.home = BitVec.ofNat 8 (mf m 22 1) ∧ w.asker = some (askerOf mb m none) ∧ Begun t mb m ∧ SegOnly sid s t ∧ BoxOnly mb s t ∧
      OnlyIn [.segs, .cores, .engines, .free, .hm] s t) ∧
    (∀ sid, sid = mf m 16 2 → MsgServed s mb 0x23 9 20 [(16, 2), (18, 1)] m → segKnown s sid (mf m 18 1) = true → (s.seg sid).st = 4 →
      ∃ t, exec (.segLoaded mb) s = .next t ∧ t.seg sid = { s.seg sid with st := 1 } ∧ Replied t mb m stOk 0 [] ∧
      SegOnly sid s t ∧ BoxOnly mb s t ∧ RegsOnly replyRegs s t ∧ OnlyIn [.segs, .cores, .engines, .voyages, .hm, .regs, .log] s t) ∧
    (∀ w d, w = mf m 16 1 → d = slice m.bytes 24 32 → MsgServed s mb 0x24 9 56 [(16, 1), (24, 32)] m → bits (fieldAt d 27 1) 2 5 = 0 →
      fieldAt d 30 2 = 0 → (bitOf (fieldAt d 27 1) 7 = true → winOk s w d = true ∧ segBusy s (fieldAt d 24 2) = false) →
      ∃ t, exec (.windowSet mb) s = .next t ∧ (∀ i, i < 8 → reg t (winOff w + 4 * i) = BitVec.ofNat 32 (fieldAt d (4 * i) 4)) ∧
      w ∉ t.hm.winDisabled ∧ Replied t mb m stOk 0 [] ∧ BoxOnly mb s t ∧
      RegsOnly (((List.range 8).map fun i => winOff w + 4 * i) ++ replyRegs) s t ∧ OnlyIn [.hm, .regs, .log] s t)

/-- 08 R209 R215 R216: REPLICA_CREATE gives each copy a PENDING segment of its own in a memory-interface group of its own; a load from a
window leaves the set ready at its new generation, or it answers FAULTED; a load from a source sends its first request; an export is
switched; a release frees the copies and forgets the set. -/
def Obligations.ReplicaMessagesAct : Prop :=
  ∀ (s : State) (mb : Nat) (m : Msg), s.canonical = true →
    (∀ n len, n = mf m 18 1 → len = copyLen (mf m 19 1) (mf m 24 8) →
      MsgServed s mb 0x28 9 84 [(18, 1), (19, 1), (24, 8), (40, 4), (48, 8), (56, 1), (80, 3)] m → 1 ≤ n → n ≤ 3 → 1 ≤ mf m 19 1 →
      mf m 19 1 ≤ 2 → 0 < mf m 24 8 → mf m 24 8 % 65536 = 0 → mf m 40 4 < 2 ^ 21 →
      (∀ i, i < n → memIndexOk false (mf m (80 + i) 1) = true) → (∃ i, i < 65535 ∧ s.rset i = none) →
      (∃ i j k, i < j ∧ j < k ∧ k < 65535 ∧ sidFree s i = true ∧ sidFree s j = true ∧ sidFree s k = true) →
      (∀ g, g < 8 → ∃ k, k < 72 ∧ mifOf k = g ∧ unreachable s (memUnit k) = false ∧ segFits s k 0 len = true) →
      ∃ t rsid x, exec (.replicaCreate mb) s = .next t ∧ s.rset rsid = none ∧ rsid < 65535 ∧ t.rset rsid = some x ∧ x.copies = n ∧
      x.phases = mf m 19 1 ∧ x.dlen = mf m 24 8 ∧ x.gen = 0 ∧ x.ready = false ∧ x.suspects = [] ∧ x.seg.length = 3 ∧
      (∀ i, i < n → sidFree s (x.seg.getD i 0) = true ∧ (t.seg (x.seg.getD i 0)).st = 4 ∧ (t.seg (x.seg.getD i 0)).tierB = false ∧
        (t.seg (x.seg.getD i 0)).rsid = BitVec.ofNat 16 rsid ∧ (t.seg (x.seg.getD i 0)).len = len ∧
        segFits s (t.seg (x.seg.getD i 0)).mem (t.seg (x.seg.getD i 0)).base len = true) ∧
      (∀ i j, i < j → j < n → x.seg.getD i 0 ≠ x.seg.getD j 0 ∧
        mifOf (t.seg (x.seg.getD i 0)).mem ≠ mifOf (t.seg (x.seg.getD j 0)).mem) ∧
      (∀ i, n ≤ i → i < 3 → x.seg.getD i 0 = 0xFFFF) ∧ (∀ i, i ∉ x.seg → t.seg i = s.seg i) ∧
      (∀ i, i ≠ rsid → t.rset i = s.rset i) ∧ Replied t mb m stOk 0 (leBytes 2 rsid ++ (x.seg.map (leBytes 2)).flatten) ∧
      BoxOnly mb s t ∧ RegsOnly replyRegs s t ∧ OnlyIn [.segs, .sets, .free, .hm, .regs, .log] s t) ∧
    (∀ rsid x, rsid = mf m 16 2 → MsgServed s mb 0x29 9 40 [(16, 2), (18, 2), (20, 1), (21, 1), (22, 1), (24, 4), (32, 8)] m →
      s.rset rsid = some x → x.load = none → mf m 24 4 < 2 ^ 21 → mf m 20 1 ≤ 2 →
      (mf m 20 1 = 0 → winOn s (mf m 21 1) = true ∧ mf m 21 1 ∈ winsOf s (x.seg.getD 0 0xFFFF)) →
      (mf m 22 1 = 1 → x.gen = BitVec.ofNat 16 (mf m 18 2) → x.suspects = [] →
        ∃ t, exec (.replicaLoad mb) s = .next t ∧ t.rset rsid = some x ∧ Replied t mb m stOk 0 [] ∧ BoxOnly mb s t ∧
        RegsOnly replyRegs s t ∧ OnlyIn [.sets, .hm, .regs, .log] s t) ∧
      (mf m 22 1 = 0 → x.ready = false ∨ (BitVec.ofNat 16 (mf m 18 2) - x.gen).toNat ≠ 32768 → setMappers s x = [] → mf m 20 1 = 0 →
        ∃ t y st, exec (.replicaLoad mb) s = .next t ∧ t.rset rsid = some y ∧ y.load = none ∧ Replied t mb m st 0 [] ∧
        (st = stOk ∧ y.gen = BitVec.ofNat 16 (mf m 18 2) ∧ y.ready = true ∧ y.suspects = [] ∨ st = stFaulted ∧ y.ready = false) ∧
        BoxOnly mb s t ∧ OnlyIn [.mem, .ueBlocks, .sets, .segs, .cores, .engines, .voyages, .hm, .regs, .log] s t) ∧
      (∀ o vcx, mf m 22 1 = 0 → x.ready = false ∨ (BitVec.ofNat 16 (mf m 18 2) - x.gen).toNat ≠ 32768 → setMappers s x = [] →
        mf m 20 1 ≠ 0 → epOut s (ownerMem s x) (BitVec.ofNat 21 (mf m 24 4)) = some (o, vcx) → sealedOff s (portUnit o) = false →
        ∃ t y l, exec (.replicaLoad mb) s = .next t ∧ t.rset rsid = some y ∧ y.load = some l ∧ y.ready = false ∧ l.pos = 0 ∧
        l.asked = some (s.engine (ownerMem s x)).nextPidx ∧
        PacketSent s t (fun k => k.ty = 1 ∧ k.dst = BitVec.ofNat 21 (mf m 24 4) ∧ k.len = 64 ∧ k.unit = portUnit o) ∧ Begun t mb m ∧
        BoxOnly mb s t ∧ OnlyIn [.sets, .engines, .routers, .fabric, .hm] s t)) ∧
    (∀ rsid x, rsid = mf m 16 2 → MsgServed s mb 0x2A 9 24 [(16, 2), (18, 1), (20, 4)] m → s.rset rsid = some x → mf m 18 1 ≤ 1 →
      ∃ t, exec (.replicaExport mb) s = .next t ∧
      t.rset rsid = some { x with exported := decide (mf m 18 1 = 1), cap := if mf m 20 4 = 0 then 7200 else mf m 20 4 } ∧
      (∀ i, i ≠ rsid → t.rset i = s.rset i) ∧ Replied t mb m stOk 0 [] ∧ BoxOnly mb s t ∧ RegsOnly replyRegs s t ∧
      OnlyIn [.sets, .hm, .regs, .log] s t) ∧
    (∀ rsid x, rsid = mf m 16 2 → MsgServed s mb 0x2B 9 20 [(16, 2)] m → s.rset rsid = some x → setMappers s x = [] → x.load = none →
      (∀ p ∈ copiesOf x, segBusy s p.2 = false) →
      ∃ t, exec (.replicaRelease mb) s = .next t ∧ t.rset rsid = none ∧ (∀ p ∈ copiesOf x, (t.seg p.2).st = 0) ∧
      (∀ i, (∀ p ∈ copiesOf x, i ≠ p.2) → t.seg i = s.seg i) ∧ (∀ i, i ≠ rsid → t.rset i = s.rset i) ∧
      Replied t mb m stOk 0 [] ∧ BoxOnly mb s t ∧ OnlyIn [.sets, .segs, .mem, .ueBlocks, .hm, .regs, .log] s t)

/-! ## Partition and voyage messages (10 Table 10-13) -/

/-- 01 R15, 06 R146, 10 R254: PARTITION_CREATE takes basins that nothing holds and that are lit; PARTITION_RELEASE lets them go once no voyage
is left, after the scrub that runs; VOYAGE_LOAD reads the image from the host buffer, answers with the first check that fails, and
else the voyage is LOADED under a free VID. -/
def Obligations.PartitionsAndLoads : Prop :=
  ∀ (s : State) (mb : Nat) (m : Msg), s.canonical = true →
    (MsgServed s mb 0x30 9 24 [(16, 4), (20, 4)] m → mf m 16 4 ≠ 0 → mf m 16 4 < 2 ^ 24 → mf m 20 4 < 2 ^ 24 →
      mf m 16 4 &&& mf m 20 4 = 0 →
      (∀ b, b < 24 → bitOf (mf m 16 4) b = true ∨ bitOf (mf m 20 4) b = true → partOfBasin s b = none ∧ isDark s b = false) →
      (∃ i, i < 24 ∧ s.part i = none) →
      ∃ t i, exec (.partitionCreate mb) s = .next t ∧ i < 24 ∧ s.part i = none ∧
      t.part i = some ⟨BitVec.ofNat 24 (mf m 16 4), BitVec.ofNat 24 (mf m 20 4), false, false⟩ ∧
      (∀ j, j ≠ i → t.part j = s.part j) ∧
      (∃ d, Replied t mb m stOk 0 (leBytes 2 i ++
        leBytes 2 ((coresOfBasins s (BitVec.ofNat 24 (mf m 16 4))).filter (coreActive s)).length ++ leBytes 2 d)) ∧
      BoxOnly mb s t ∧ RegsOnly replyRegs s t ∧ OnlyIn [.parts, .free, .hm, .regs, .log] s t) ∧
    (∀ b, MsgServed s mb 0x30 9 24 [(16, 4), (20, 4)] m → mf m 16 4 ≠ 0 → mf m 16 4 < 2 ^ 24 → mf m 20 4 < 2 ^ 24 →
      mf m 16 4 &&& mf m 20 4 = 0 → b < 24 → bitOf (mf m 16 4) b = true → (partOfBasin s b).isSome = true →
      ∃ t, exec (.partitionCreate mb) s = .next t ∧ Replied t mb m stBusy 0 [] ∧ BoxOnly mb s t ∧ RegsOnly replyRegs s t ∧
      OnlyIn [.hm, .regs, .log] s t) ∧
    (∀ p, MsgServed s mb 0x31 9 20 [(16, 1)] m → s.part (mf m 16 1) = some p → p.releasing = false →
      voyagesIn s (mf m 16 1) [vLoaded, vRunning, vSaving, vPreempted, vHeld] = [] →
      ∃ t, exec (.partitionRelease mb) s = .next t ∧
      t.part (mf m 16 1) = (if p.scrubbing then some { p with releasing := true } else none) ∧
      (∀ j, j ≠ mf m 16 1 → t.part j = s.part j) ∧ Replied t mb m stOk 0 [] ∧ BoxOnly mb s t ∧ RegsOnly replyRegs s t ∧
      OnlyIn [.parts, .hm, .regs, .log] s t) ∧
    (∀ p, MsgServed s mb 0x32 9 40 [(16, 1), (24, 8), (32, 8)] m → s.part (mf m 16 1) = some p → p.releasing = false →
      (∃ i, i < 65534 ∧ s.voyage (i + 1) = none) →
      ∃ t, exec (.voyageLoad mb) s = .next t ∧ BoxOnly mb s t ∧ RegsOnly replyRegs s t ∧
      (if (hostFails s).2 = true then Replied t mb m stFaulted 4 [] ∧ OnlyIn [.free, .hm, .regs, .log] s t
        else match imageBad (hostFails s).1 (mf m 24 8) (mf m 32 8) p with
          | some r => Replied t mb m r.1 r.2.1 r.2.2 ∧ OnlyIn [.free, .hm, .regs, .log] s t
          | none => ∃ vid, 1 ≤ vid ∧ vid ≤ 0xFFFE ∧ s.voyage vid = none ∧
              t.voyage vid = some (newVoyage (mf m 16 1) (readImage s (mf m 24 8) (mf m 32 8))) ∧ VoyageOnly vid s t ∧
              Replied t mb m stOk 0 (leBytes 2 vid) ∧
              OnlyIn [.voyages, .engines, .routers, .segs, .free, .hm, .regs, .log] s t))

/-- 02 R23, 04 R112, 10 R256: VOYAGE_LAUNCH starts every core that a CORE record names at its ENTRY, ends the others of the partition, and the
voyage is RUNNING; RESUME runs a PREEMPTED voyage again and says whether it goes on at its step boundary. -/
def Obligations.VoyagesLaunchAndResume : Prop :=
  ∀ (s : State) (mb : Nat) (m : Msg) (vid : Nat) (v : Voyage), s.canonical = true → vid = mf m 16 2 → s.voyage vid = some v →
    (MsgServed s mb 0x33 9 36 [(16, 2), (18, 2), (20, 4), (24, 8), (32, 4)] m → mf m 20 4 ≤ 1 → (mf m 20 4 = 1 → licensed s 4 = true) →
      v.st = vLoaded → occupied s v.pid vid = false → s.thermal.emergency = none → setsLoading s v.img = false → v.moved = [] →
      v.img.dtab = reg s (fabBase + 0x1C) → coresOf s (BitVec.ofNat 16 vid) = [] →
      updateTooFar s vid v = false → (∀ c ∈ voyagePositions s v, darkAt s c = false ∧ (s.core c).misc.failed = false) →
      ∃ t w, exec (.voyageLaunch mb) s = .next t ∧ t.voyage vid = some w ∧ w.st = vRunning ∧ w.launchTick = s.tide ∧
      w.race = BitVec.ofNat 16 (mf m 18 2) ∧ w.retain = decide (mf m 20 4 = 1) ∧ w.seed = BitVec.ofNat 64 (mf m 24 8) ∧
      w.stmo = (if mf m 32 4 = 0 then 250000000 else mf m 32 4) ∧ w.img = v.img ∧ w.due = v.due ∧
      (∀ c ∈ voyagePositions s v, (t.core c).misc.vid = BitVec.ofNat 16 vid ∧
        (coreRec v.img c = none → (t.core c).sync.run = .ended) ∧
        (∀ r, coreRec v.img c = some r → (t.core c).sync.run = .running ∧ (t.core c).seq.mp = r.entry.setWidth 13 ∧
          (t.core c).seq.stack = [] ∧ (t.core c).seq.ordinal = 0 ∧ (t.core c).regs.p = [] ∧ (t.core c).regs.v = [])) ∧
      (∀ c, c ∉ voyagePositions s v → t.core c = s.core c) ∧
      Replied t mb m stOk 0 (leBytes 4 v.img.dtab.toNat ++ leBytes 4 v.img.dtab.toNat ++ leBytes 8 s.tide.toNat) ∧
      BoxOnly mb s t ∧ RegsOnly replyRegs s t ∧ OnlyIn [.cores, .engines, .voyages, .hm, .regs, .log] s t) ∧
    (∀ p g l, MsgServed s mb 0x35 9 20 [(16, 2), (18, 1)] m → s.part (mf m 18 1) = some p → p.releasing = false → v.save = some g →
      v.st = vPreempted → occupied s (mf m 18 1) vid = false → s.thermal.emergency = none →
      seats s v p (homeBasins s v) [] = some l → treesFit (replant (seatVoyage s vid (mf m 18 1) v p g l) vid) = true →
      evtHeld s < 1024 →
      ∃ t w k, exec (.resume mb) s = .next t ∧ t.voyage vid = some w ∧ w.st = vRunning ∧ w.save = none ∧ w.pid = mf m 18 1 ∧
      w.ordinal = v.ordinal ∧ w.img = v.img ∧
      k = b2n (atBoundary (seatVoyage s vid (mf m 18 1) v p g l) { v with pid := mf m 18 1, moved := seated s v l } g) ∧
      Replied t mb m stOk 0 [BitVec.ofNat 8 k] ∧
      EventPut s t (voyageEvent s vid { v with pid := mf m 18 1 } 0x0D stOk v.ordinal.toNat 0) ∧ VoyageOnly vid s t ∧
      BoxOnly mb s t ∧ RegsOnly (eventRegs s ++ replyRegs) s t ∧
      OnlyIn [.cores, .routers, .engines, .voyages, .parts, .sets, .hm, .regs, .log] s t)

/-- 09 R228, 10 R255 R259: PREEMPT of a RUNNING voyage starts its save, of a HELD one saves it at once, of a LOADED, PREEMPTED or ENDED one is
BUSY; KILL cancels the waiting lower messages about the voyage and forgets it, or, where it was running,
ends it and scrubs its cores; VOYAGE_STATS
answers with the record. -/
def Obligations.VoyagesStopOnRequest : Prop :=
  ∀ (s : State) (mb : Nat) (m : Msg) (vid : Nat) (v : Voyage), s.canonical = true → vid = mf m 16 2 → s.voyage vid = some v →
    (∀ q : PreemptReq, MsgServed s mb 0x34 9 24 [(16, 2), (18, 1), (19, 1), (20, 4)] m → mf m 18 1 ≤ 1 → mf m 19 1 ≤ 1 →
      q = ⟨some (askerOf mb m (some vid)), decide (mf m 18 1 = 1), decide (mf m 19 1 = 1),
        if mf m 20 4 = 0 then none else some (m.tick + mf m 20 4)⟩ →
      (v.st = vRunning → ∃ t, exec (.preempt mb) s = .next t ∧
        t.voyage vid = some { v with
          st := vSaving
          preempt := some q
          savePhase := if mf m 18 1 = 1 then max 1 v.savePhase else v.savePhase } ∧
        Begun t mb m ∧ VoyageOnly vid s t ∧ BoxOnly mb s t ∧ OnlyIn [.voyages, .hm] s t) ∧
      (v.st = vLoaded ∨ v.st = vPreempted ∨ v.st = vEnded → ∃ t, exec (.preempt mb) s = .next t ∧ Replied t mb m stBusy 0 [] ∧
        BoxOnly mb s t ∧ RegsOnly replyRegs s t ∧ OnlyIn [.hm, .regs, .log] s t) ∧
      (∀ l, v.st = vHeld → vid < 65535 → recordsOf s v (BitVec.ofNat 16 vid) (lostPositions s v (BitVec.ofNat 16 vid)) = some l →
        ∃ t w, exec (.preempt mb) s = .next t ∧ t.voyage vid = some w ∧ w.st = vPreempted ∧ w.save.isSome = true ∧
        w.preempt = none ∧ Replied t mb m stOk 0 [0, 0, 0, 0])) ∧
    (MsgServed s mb 0x36 9 20 [(16, 2)] m → v.st = vLoaded ∨ v.st = vPreempted → evtHeld s < 1024 →
      ∃ t, exec (.kill mb) s = .next t ∧ t.voyage vid = none ∧ Replied t mb m stOk 0 [] ∧
        EventPut s t (voyageEvent s vid v 0x04 stCancelled 0 0) ∧
        (∀ b mm, b < boxCount → b ∈ lower s vid → (s.box b).msg = some mm → Replied t b mm stCancelled 5 []) ∧
        (∀ b, b ≠ mb → b ∉ lower s vid → t.box b = s.box b) ∧ VoyageOnly vid s t) ∧
    (∀ p, MsgServed s mb 0x36 9 20 [(16, 2)] m → vid < 65535 → v.st = vRunning ∨ v.st = vHeld → v.preempt = none →
      s.part v.pid = some p → ∃ t w, exec (.kill mb) s = .next t ∧ t.voyage vid = some w ∧ w.st = vEnded ∧
        w.killer = v.killer ++ [askerOf mb m (some vid)] ∧ Begun t mb m ∧
        (∀ c ∈ coresOf s (BitVec.ofNat 16 vid), (t.core c).misc.scrubbing = true ∧ (t.core c).sync.run = .stopped)) ∧
    (MsgServed s mb 0x37 9 20 [(16, 2)] m → ∃ t, exec (.voyageStats mb) s = .next t ∧ Replied t mb m stOk 0 (statsBody v) ∧
      BoxOnly mb s t ∧ RegsOnly replyRegs s t ∧ OnlyIn [.hm, .regs, .log] s t)

/-! ## The host's registers (00 R6, 10 R239 to R243, R258 to R263) -/

/-- 00 R6, 10 R239 R241, 12 R310 R314, 13 R348: a write of a word takes effect by the field types (RW bits take the value, W1C bits that are written 1
clear but for those that an event of the running cycle sets, every other bit stays); one that is not aligned changes nothing; a write into a
mailbox's request slot is a write of that slot; a read returns the register and clears its RC bits but for the events of the running
cycle; any read that is not aligned returns zero; HM_TIDE's halves are consistent. -/
def Obligations.RegistersFollowTheirTypes : Prop :=
  ∀ s : State,
    (∀ off v, 0x20000 ≤ off → off + 4 ≤ barSize → off % 4 = 0 →
      off ∉ [evtRdOff, irqBase + 0x10, thmBase + 0x1C, thmBase + 0x24, vecCtrlOff] → portCtrlAt off = none →
      ∃ t, exec (.registerWrite off 4 v) s = .next t ∧
      (∀ i, i < 32 → (reg t off).getLsbD i =
        if (regDef off).rw.getLsbD i then v.getLsbD i
        else if (regDef off).w1c.getLsbD i && v.getLsbD i && !(eventsAt s off).getLsbD i then false else (reg s off).getLsbD i) ∧
      RegsOnly [off, off + 8] s t ∧ OnlyIn [.regs] s t) ∧
    (∀ g leaf v, 2 ≤ g → g ≤ 25 → leaf < 252 → reg s (leafOff g leaf) &&& ~~~(v.setWidth 32 &&& 0x7FFF#32) = 0 →
      eventsAt s (leafOff g leaf) = 0 →
      ∃ t, exec (.registerWrite (leafOff g leaf) 4 v) s = .next t ∧ reg t (leafOff g leaf) = 0 ∧
      bitOf (reg t (leafOff g leaf + 8)).toNat 19 = false ∧ RegsOnly [leafOff g leaf, leafOff g leaf + 8] s t ∧ OnlyIn [.regs] s t) ∧
    (∀ off width v, 0x20000 ≤ off → off + width ≤ barSize → 0 < width → off % width ≠ 0 →
      exec (.registerWrite off width v) s = .next s) ∧
    (∀ off width v, off < 0x20000 → off + width ≤ barSize → off % 0x2000 < 0x1000 →
      exec (.registerWrite off width v) s =
        exec (.mailboxSubmit (off / 0x2000) (off % 0x2000) (leBytes width v.toNat)) s) ∧
    (∀ off, off + 4 ≤ barSize → off % 4 = 0 → off ≠ hmBase + 8 → off ≠ hmBase + 0xC →
      ∃ t, exec (.rcRead off 4) s = .next t ∧ t.readData = leBytes 4 (readWord s off).toNat ∧
      reg t off = (reg s off &&& ~~~(regDef off).rc) ||| (eventsAt s off &&& (regDef off).rc) ∧ RegsOnly [off] s t ∧ OnlyIn [.regs, .readData] s t) ∧
    (∀ off width, off + width ≤ barSize → ¬(width = 4 ∧ off % 4 = 0) → ¬(width = 8 ∧ off % 8 = 0) →
      exec (.rcRead off width) s = .next { s with readData := zeros width }) ∧
    (∃ t u : State, exec (.hmTideRead false) s = .next t ∧ t.readData = leBytes 4 (s.tide.toNat % 2 ^ 32) ∧ OnlyIn [.hm, .readData] s t ∧
      ∀ later : BitVec 64, exec (.hmTideRead true) { t with tide := later } = .next { u with tide := later } ∧
        u.readData = leBytes 4 (s.tide.toNat / 2 ^ 32) ∧ u.hm.tideLatch = none) ∧
    (∃ t, exec (.rcRead (hmBase + 8) 8) s = .next t ∧
      t.readData = leBytes 4 (s.tide.toNat % 2 ^ 32) ++ leBytes 4 (s.tide.toNat / 2 ^ 32) ∧ RegsOnly [] s t ∧ OnlyIn [.regs, .readData] s t)

/-- 10 R258: a write of HM_EVT_RD that leaves 1,024 records or fewer takes effect and lets the oldest backlogged event into the ring; any
other is ignored and raises EVT_RD_INVALID. 10 R262, Table 10-21: bit g of IRQ_SUMMARY reads 1 exactly when some defined leaf of group g that the group's mask lets through has a
cause bit set that its own mask lets through. 10 R263: the message goes out once the condition has held for DELAY while ARMED, and clears ARMED; a masked vector sets the PBA bit instead,
and unmasking sends the pending message; IRQ_REARM sets ARMED, and a condition that holds sends at once. -/
def Obligations.EventsAndInterrupts : Prop :=
  (∀ (s : State) (v : Word),
    ((reg s evtWrOff - v).toNat ≤ 1024 → s.hm.backlog = [] → ∃ t, exec (.evtRdWrite v) s = .next t ∧ reg t evtRdOff = v ∧
      RegsOnly [evtRdOff] s t ∧ OnlyIn [.regs] s t) ∧
    (∀ e, (reg s evtWrOff - v).toNat < 1024 → s.hm.backlog = [e] → ∃ t, exec (.evtRdWrite v) s = .next t ∧ reg t evtRdOff = v ∧
      EventPut s t e ∧ t.hm.backlog = [] ∧ RegsOnly (evtRdOff :: eventRegs s) s t ∧ OnlyIn [.regs, .hm, .log] s t) ∧
    (1024 < (reg s evtWrOff - v).toNat → ∃ t, exec (.evtRdWrite v) s = .next t ∧ reg t evtRdOff = reg s evtRdOff ∧
      causeSet t 1 0 3 ∧ RegsOnly (causeRegs 1 0) s t ∧ OnlyIn [.regs, .log] s t)) ∧
  (∀ (s : State) (g : Nat), g < 51 →
    ((irqSummary s).getLsbD g = true ↔
      ∃ leaf, leaf < 256 ∧ bitOf (groupLeaves g (leaf / 32)).toNat (leaf % 32) = true ∧
        bitOf (grpMask s g (leaf / 32)).toNat (leaf % 32) = true ∧
        ∃ i, i < 32 ∧ bitOf (reg s (leafOff g leaf)).toNat i = true ∧ bitOf (reg s (leafOff g leaf + 4)).toNat i = true)) ∧
  (∀ s : State,
    (armed s = true → irqCond s = true → s.hm.condSince.getD s.tide.toNat + getField s coalOff 0 16 ≤ s.tide.toNat →
      ∃ t, exec .msixSend s = .next t ∧ armed t = false ∧
      (vecMasked s = false → t.hm.msixSent = s.hm.msixSent + 1 ∧ RegsOnly [coalOff] s t) ∧
      (vecMasked s = true → reg t pbaOff = 1 ∧ t.hm = s.hm ∧ RegsOnly [coalOff, pbaOff] s t) ∧ OnlyIn [.regs, .hm] s t) ∧
    (armed s = false ∨ irqCond s = false → exec .msixSend s = .next s) ∧
    (∀ v : BitVec 64, v.getLsbD 0 = true → irqCond s = false → ∃ t, exec (.irqRearm v) s = .next t ∧ armed t = true ∧
      RegsOnly [coalOff] s t ∧ OnlyIn [.regs] s t) ∧
    (∀ v : BitVec 64, v.getLsbD 0 = true → irqCond s = true → vecMasked s = false → ∃ t, exec (.irqRearm v) s = .next t ∧
      armed t = false ∧ t.hm.msixSent = s.hm.msixSent + 1 ∧ RegsOnly [coalOff] s t ∧ OnlyIn [.regs, .hm] s t) ∧
    (reg s pbaOff ≠ 0 → ∃ t, exec .msixUnmask s = .next t ∧ vecMasked t = false ∧ reg t pbaOff = 0 ∧
      t.hm.msixSent = s.hm.msixSent + 1 ∧ armed t = armed s ∧ RegsOnly [vecCtrlOff, pbaOff] s t ∧ OnlyIn [.regs, .hm] s t) ∧
    (reg s pbaOff = 0 → ∃ t, exec .msixUnmask s = .next t ∧ vecMasked t = false ∧ RegsOnly [vecCtrlOff] s t ∧ OnlyIn [.regs] s t))

/-- 00 R6, 13 R349: raising a cause sets its bit and no other of its register, as an event of the running cycle, and logs it: a record of its CODE and unit, or one more count of the newest
record, which is of the same CODE and SOURCE and not older than 1 ms. -/
def Obligations.CausesAreLogged : Prop :=
  ∀ (s : State) (g leaf bit : Nat) (o : LogInfo), g < 51 → bit < 32 → s.log.recs.length < 262144 →
    causeSet (raise s g leaf bit o) g leaf bit ∧
    bitOf (eventsAt (raise s g leaf bit o) (leafOff g leaf)).toNat bit = true ∧
    (∀ i, i < 32 → i ≠ bit → bitOf (reg (raise s g leaf bit o) (leafOff g leaf)).toNat i = bitOf (reg s (leafOff g leaf)).toNat i) ∧
    RegsOnly [leafOff g leaf] s (raise s g leaf bit o) ∧ OnlyIn [.regs, .log] s (raise s g leaf bit o) ∧
    ∃ r, (raise s g leaf bit o).log.recs.getLast? = some r ∧ r.code = BitVec.ofNat 16 (256 * g + bit) ∧
      r.source = BitVec.ofNat 32 (o.unit + 8192 * strapOf s o.unit) ∧
      ((raise s g leaf bit o).log.recs = s.log.recs ++ [r] ∧ r.tick = s.tide ∧ r.vid = o.vid ∧ r.ordinal = o.ordinal ∧
          r.sev = BitVec.ofNat 8 (sevOf g bit) ∧ r.seq = s.log.nextSeq ∧ r.rep = 0 ∨
        (raise s g leaf bit o).log.recs.length = s.log.recs.length ∧ s.tide.toNat ≤ r.tick.toNat + 250000 ∧
          (raise s g leaf bit o).log.recs.dropLast = s.log.recs.dropLast ∧ 0 < r.rep.toNat)

/-- 10 R242 R243, Table 10-5: bytes of BAR2 under a window of a segment in place are read from and written to that segment; bytes that no window
covers read zero, writes of them are dropped, and the access raises its cause. 10 R260, 12 R319, 02 R51: after 100 us of idleness the device enters the state that is chosen, and a wake leaves it; the fold of the health
counters adds every core's counters to the totals and zeroes them. -/
def Obligations.WindowsAndIdleStates : Prop :=
  (∀ (s : State) (off n m a : Nat), s.hm.idle.state = 0 → 0 < n → off + n ≤ 2 ^ 37 →
    ((∀ i, i < n → winRow s (off + i) false = .data m (a + i) ∧ lostIn s m (a + i) 1 = false) → errsIn s m a n = [] →
      lostIn s m a n = false →
      ∃ t, exec (.bar2Access off n false []) s = .next t ∧ t.readData = memRead s m a n ∧ OnlyIn [.readData, .hm] s t) ∧
    (∀ data : Bytes, data.length = n → (∀ i, i < n → winRow s (off + i) true = .data m (a + i)) → copyAt s m a = none →
      ∃ t, exec (.bar2Access off 0 true data) s = .next t ∧ memRead t m a n = data ∧ MemOnly m a n s t ∧
      OnlyIn [.mem, .ueBlocks, .hm] s t) ∧
    ((∀ i, i < n → winRow s (off + i) false = .unmapped) →
      ∃ t, exec (.bar2Access off n false []) s = .next t ∧ t.readData = zeros n ∧ causeSet t 49 0 2 ∧
      OnlyIn [.readData, .hm, .regs, .log] s t) ∧
    (∀ data : Bytes, data.length = n → (∀ i, i < n → winRow s (off + i) true = .unmapped) →
      ∃ t, exec (.bar2Access off 0 true data) s = .next t ∧ causeSet t 49 0 2 ∧ OnlyIn [.hm, .regs, .log] s t)) ∧
  (∀ s : State,
    (stage s = 9 → s.hm.idle.state = 0 → busyNow s = false → s.hm.idle.idleSince + 25000 ≤ s.tide.toNat → idleChoice s ≠ 0 →
      ∃ t, exec .idleEntry s = .next t ∧ t.hm.idle.state = idleChoice s ∧ getField t (hmBase + 0x10) 0 3 = idleChoice s ∧
      (idleChoice s = 4 → ∀ m, m < memCount → isDark s (engineBasin m) = false → (t.engine m).selfRefresh = true) ∧
      (∀ c, (t.core c).tierS = (s.core c).tierS ∧ (t.core c).regs = (s.core c).regs) ∧
      OnlyIn [.hm, .regs, .cores, .engines, .free] s t) ∧
    (s.hm.idle.state ≠ 0 → ∃ t, exec .idleWake s = .next t ∧ t.hm.idle.state = 0 ∧ t.hm.pcie.linkPower = 0 ∧ getField t (hmBase + 0x10) 0 3 = 0 ∧
      (∀ c, (t.core c).tierS = (s.core c).tierS ∧ (t.core c).regs = (s.core c).regs) ∧
      OnlyIn [.hm, .regs, .cores, .engines] s t) ∧
    (s.canonical = true → (∀ p ∈ s.cores, SMap.wf 0 p.2.regs.counters = true) →
      ∃ t, exec .healthFold s = .next t ∧ t.hm.healthTick = s.tide ∧ (∀ c, (t.core c).regs.counters = []) ∧
      (∀ e, look 0 t.hm.health e =
        s.cores.foldl (fun a p => a + (look 0 p.2.regs.counters e).setWidth 64) (look 0 s.hm.health e)) ∧
      (∀ c, t.core c = { s.core c with regs := { (s.core c).regs with counters := [] } }) ∧
      OnlyIn [.hm, .cores, .voyages] s t))

/-! ## Scale-out ports (11 R267 to R281) -/

/-- 11 R272 R273 R275 R276, Table 11-9: training. A port that is DOWN starts at DETECT, when its group is powered, its cable comes, its retry is due, or
RETRAIN or the end of DISABLE asks for it; each state that succeeds leads to the next; IDENT leads to ACTIVE and LINK_UP, from idle state I4 with
transit disabled to the low-power state; a state that fails leaves the port DOWN for 100 ms. -/
def Obligations.PortsTrain : Prop :=
  ∀ (s : State) (p : Nat), p < portCount →
    (portState s p = pDown → ∃ t, exec (.portTrainStart p) s = .next t ∧ portState t p = pDetect ∧
      t.port p = { s.port p with retryAt := none } ∧ PortOnly p s t ∧ RegsOnly [portOff p] s t ∧ OnlyIn [.ports, .regs] s t) ∧
    (∀ d, (s.port p).retryAt = some d → d ≤ s.tide.toNat → portState s p = pDown →
      ∃ t, exec (.trainRetry p) s = .next t ∧ portState t p = pDetect ∧ t.port p = { s.port p with retryAt := none } ∧
      PortOnly p s t ∧ RegsOnly [portOff p] s t ∧ OnlyIn [.ports, .regs] s t) ∧
    (portState s p = pDown → ∃ t, exec (.cablePresence p true) s = .next t ∧ portState t p = pDetect ∧
      t.port p = { s.port p with cable := true, retryAt := none } ∧ PortOnly p s t ∧ RegsOnly [portOff p] s t ∧
      OnlyIn [.ports, .regs] s t) ∧
    (∃ t, exec (.cablePresence p false) s = .next t ∧ t.port p = { s.port p with cable := false } ∧ PortOnly p s t ∧
      OnlyIn [.ports] s t) ∧
    (portState s p = pDown → ∃ t, exec (.retrain p) s = .next t ∧ portState t p = pDetect ∧ PortOnly p s t ∧
      RegsOnly [portOff p] s t ∧ OnlyIn [.ports, .regs] s t) ∧
    (portState s p = pDisabled → ∃ t, exec (.disable p false) s = .next t ∧ portState t p = pDetect ∧
      getField t (portOff p + 4) 1 1 = 0 ∧ PortOnly p s t ∧ RegsOnly [portOff p, portOff p + 4] s t ∧ OnlyIn [.ports, .regs] s t) ∧
    (portState s p = pDown → ∃ t, exec (.disable p true) s = .next t ∧ portState t p = pDisabled ∧
      getField t (portOff p + 4) 1 1 = 1 ∧ (t.port p).replay = [] ∧ (t.port p).lossAt = none ∧ PortOnly p s t) ∧
    (∀ o : TrainObs, portState s p = pDetect → o.ok = true → ∃ t, exec (.portTrainStageDone p o) s = .next t ∧
      portState t p = pEq ∧ t.ports = s.ports ∧ RegsOnly [portOff p] s t ∧ OnlyIn [.regs] s t) ∧
    (∀ o : TrainObs, portState s p = pEq → o.ok = true → ∃ t, exec (.portTrainStageDone p o) s = .next t ∧
      portState t p = pLanemap ∧ getField t (portOff p) 8 1 = b2n (o.stored && (s.port p).eq) ∧
      t.port p = { s.port p with eq := true } ∧ PortOnly p s t ∧ RegsOnly [portOff p] s t ∧ OnlyIn [.ports, .regs] s t) ∧
    (∀ o : TrainObs, portState s p = pLanemap → o.ok = true → 4 ≤ laneCount o.lanes →
      ∃ t, exec (.portTrainStageDone p o) s = .next t ∧ portState t p = pIdent ∧ goodLanes t p = o.lanes ∧
      getField t (portOff p + 0xC) 16 16 = (lanesUsed o.lanes).toNat ∧
      getField t (portOff p) 4 2 = widthFor (laneCount o.lanes) / 4 - 1 ∧ t.ports = s.ports ∧
      RegsOnly [portOff p, portOff p + 0xC] s t ∧ OnlyIn [.regs] s t) ∧
    (∀ o : TrainObs, portState s p = pLanemap → o.ok = false ∨ laneCount o.lanes < 4 →
      ∃ t, exec (.portTrainStageDone p o) s = .next t ∧ portState t p = pDown ∧
      t.port p = { s.port p with retryAt := some (s.tide.toNat + 25000000) } ∧
      causeSet t (34 + p / 2 % 8) (p / 16) (8 * (p % 2) + 4) ∧ PortOnly p s t ∧ OnlyIn [.ports, .regs, .log] s t) ∧
    (∀ o : TrainObs, portState s p = pDetect ∨ portState s p = pEq ∨ portState s p = pIdent → o.ok = false →
      ∃ t, exec (.portTrainStageDone p o) s = .next t ∧ portState t p = pDown ∧
      t.port p = { s.port p with retryAt := some (s.tide.toNat + 25000000) } ∧ PortOnly p s t ∧ RegsOnly [portOff p] s t ∧
      OnlyIn [.ports, .regs] s t) ∧
    (∀ o : TrainObs, portState s p = pIdent → o.ok = true → (s.port p).prevPeer = none → heldPackets (s.port p) = [] →
      s.hm.idle.state = 4 → transitOn s p = false → ∃ t, exec (.portTrainStageDone p o) s = .next t ∧ portState t p = pLowPower ∧
      (t.port p).prevPeer = some o.peer ∧ PortOnly p s t ∧ OnlyIn [.ports, .regs, .log] s t) ∧
    (∀ o : TrainObs, portState s p = pIdent → o.ok = true → (s.port p).prevPeer = none → heldPackets (s.port p) = [] →
      s.hm.idle.state ≠ 4 ∨ transitOn s p = true → ∃ t, exec (.portTrainStageDone p o) s = .next t ∧ portState t p = pActive ∧ portUp t p = true ∧
      (t.port p).prevPeer = some o.peer ∧ (t.port p).txSeq = 0 ∧ (t.port p).rxSeq = 0 ∧
      (t.port p).credits = [512, 512, 512, 512] ∧
      reg t (portOff p + 8) = BitVec.ofNat 32 (o.peer.panel.toNat + 256 * o.peer.port.toNat + 16384 * b2n o.peer.gateway + 65536) ∧
      causeSet t (34 + p / 2 % 8) (p / 16) (8 * (p % 2)) ∧ PortOnly p s t ∧ OnlyIn [.ports, .regs, .log] s t) ∧
    (∀ o : TrainObs, ∀ q l, portState s p = pIdent → o.ok = true → (s.port p).prevPeer = some q → samePeer q o.peer = true →
      q.session = o.peer.session → (s.port p).lossAt = some l → s.tide.toNat ≤ l + 2500000 →
      s.hm.idle.state ≠ 4 ∨ transitOn s p = true →
      ∃ t, exec (.portTrainStageDone p o) s = .next t ∧ portState t p = pActive ∧ portUp t p = true ∧
      (t.port p).replay = unacked (s.port p).replay o.peer.lastFseq ∧ (t.port p).replaying = (t.port p).replay.length ∧
      (t.port p).txSeq = (s.port p).txSeq ∧ (t.port p).rxSeq = (s.port p).rxSeq ∧ (t.port p).lossAt = none ∧
      PortOnly p s t ∧ OnlyIn [.ports, .regs, .log] s t) ∧
    (∀ o : TrainObs, ∀ q, portState s p = pIdent → o.ok = true → (s.port p).prevPeer = some q → samePeer q o.peer = false →
      heldPackets (s.port p) = [] → s.hm.idle.state ≠ 4 ∨ transitOn s p = true →
      ∃ t, exec (.portTrainStageDone p o) s = .next t ∧ portState t p = pActive ∧ portUp t p = false ∧
      causeSet t (34 + p / 2 % 8) (p / 16) (8 * (p % 2) + 5) ∧ PortOnly p s t ∧ OnlyIn [.ports, .regs, .log] s t)

/-- 11 R268 R269 R271: a port that is up sends the next frame with the next FSEQ, what it acknowledges and the slots it has freed, each slot of it costs a
credit of its channel, and it is kept for replay; a frame in order and intact is taken, acknowledged frames leave the replay buffer, and a
NAK starts their replay; a frame with an uncorrected codeword, a wrong FCRC or one out of order is discarded, and the next frame sent
carries the NAK; symbols corrected are counted. -/
def Obligations.FramesAreSequenced : Prop :=
  ∀ (s : State) (p : Nat), p < portCount → portUp s p = true →
    ((s.port p).replaying = 0 → (s.port p).replay.length < 512 → ∃ (t : State) (f : SentFrame), exec (.portFrameSend p) s = .next t ∧
      (t.port p).replay = (s.port p).replay ++ [f] ∧ f.frame.fseq = (s.port p).txSeq + 1 ∧ (t.port p).txSeq = (s.port p).txSeq + 1 ∧
      f.frame.ackseq = (s.port p).rxSeq ∧ f.frame.ackValid = true ∧ f.frame.nak = !(s.port p).rxGood ∧ f.frame.credit = (s.port p).freed ∧
      (t.port p).freed = [0, 0, 0, 0] ∧ f.frame.slots.length = f.pkts.length ∧ f.pkts.length ≤ 4 ∧ (∀ k ∈ f.pkts, k ∈ (s.port p).outq) ∧
      (∀ k ∈ (s.port p).outq, k ∈ f.pkts ∨ k ∈ (t.port p).outq) ∧
      (∀ (i : Nat) (x : FrameSlot) (k : Packet), f.frame.slots[i]? = some x → f.pkts[i]? = some k → ∃ j, x = slotAt k j) ∧
      (∀ ch, ch < 4 → (t.port p).credits.getD ch 0 + (f.frame.slots.filter fun x => decide (x.vc.toNat = ch)).length =
        (s.port p).credits.getD ch 0) ∧
      PortOnly p s t ∧ OnlyIn [.ports] s t) ∧
    (0 < (s.port p).replaying → ∃ t, exec (.portFrameSend p) s = .next t ∧
      t.port p = { s.port p with replaying := (s.port p).replaying - 1 } ∧ PortOnly p s t ∧ OnlyIn [.ports] s t) ∧
    (∀ (f : PortFrame) (fcrc : BitVec 32) (errs : List Nat), frameIntact f fcrc errs = true → f.fseq = (s.port p).rxSeq + 1 → f.nak = false →
      ∃ t, exec (.portFrameReceive p f fcrc errs) s = .next t ∧ (t.port p).rxSeq = f.fseq ∧ (t.port p).rxGood = true ∧
      (t.port p).txSeq = (s.port p).txSeq ∧
      (t.port p).replay = (if f.ackValid then unacked (s.port p).replay f.ackseq else (s.port p).replay) ∧
      ((∀ x ∈ f.slots, x.kind = 0) →
        (t.port p).credits = ((List.range 4).map fun i => min 512 ((s.port p).credits.getD i 0 + f.credit.getD i 0)) ∧
        PortOnly p s t ∧ RegsOnly [portOff p + 0x10] s t ∧ OnlyIn [.ports, .regs] s t)) ∧
    (∀ (f : PortFrame) (fcrc : BitVec 32) (errs : List Nat), frameIntact f fcrc errs = true → f.fseq = (s.port p).rxSeq + 1 → f.nak = true →
      f.ackValid = false → (s.port p).replay ≠ [] → (s.port p).replays < 8 →
      ∃ t, exec (.portFrameReceive p f fcrc errs) s = .next t ∧ (t.port p).rxSeq = f.fseq ∧
      (t.port p).replay = (s.port p).replay ∧ (t.port p).replaying = (s.port p).replay.length ∧
      (t.port p).replays = (s.port p).replays + 1) ∧
    (∀ (f : PortFrame) (fcrc : BitVec 32) (errs : List Nat), frameIntact f fcrc errs = false ∨
        f.fseq ≠ (s.port p).rxSeq + 1 ∧ ((s.port p).rxSeq - f.fseq).toNat ≥ 2 ^ 31 →
      ∃ t, exec (.portFrameReceive p f fcrc errs) s = .next t ∧ t.port p = { s.port p with rxGood := false } ∧
      getField t (portOff p + 0x14) 0 16 = min 65535 (getField s (portOff p + 0x14) 0 16 + 1) ∧
      (reg t (portOff p + 0x10)).toNat = min (2 ^ 32 - 1) ((reg s (portOff p + 0x10)).toNat + symbolsCorrected errs) ∧
      RegsOnly [portOff p + 0x10, portOff p + 0x14] s t ∧ PortOnly p s t ∧ OnlyIn [.ports, .regs] s t)

/-- 11 R274 R275, Tables 11-9 and 11-10: in service. A bad lane takes the port to WIDTH_CHANGE, from which it goes on at the width of its good lanes; a
loss takes it down at once, moves what is queued and not partly sent, and after 10 ms without return answers the held frames and starts the
sequence anew;
DISABLE, FORGET_EQ and ACCEPT_PEER do what the control register says; a wake leaves the low-power state. -/
def Obligations.PortsInService : Prop :=
  ∀ (s : State) (p : Nat), p < portCount →
    (∀ (lane : BitVec 4) (byC : Bool), portState s p = pActive → (goodLanes s p).getLsbD lane.toNat = true →
      ∃ t, exec (.laneBad p lane byC) s = .next t ∧ portState t p = pWidthChange ∧
      (∀ i, i < 16 → (goodLanes t p).getLsbD i = (decide (i ≠ lane.toNat) && (goodLanes s p).getLsbD i)) ∧
      (byC = true → causeSet t (34 + p / 2 % 8) (p / 16) (8 * (p % 2) + 6)) ∧ t.ports = s.ports ∧ OnlyIn [.regs, .log] s t) ∧
    (portState s p = pWidthChange → 4 ≤ laneCount (goodLanes s p) → ∃ t, exec (.widthChangeDone p) s = .next t ∧
      portState t p = pActive ∧ getField t (portOff p) 4 2 = widthFor (laneCount (goodLanes s p)) / 4 - 1 ∧
      t.port p = { s.port p with replaying := (s.port p).replay.length } ∧
      causeSet t (34 + p / 2 % 8) (p / 16) (8 * (p % 2) + 2) ∧ PortOnly p s t ∧ OnlyIn [.ports, .regs, .log] s t) ∧
    (∀ why, hasLink s p = true → (why = .replayLimit → 8 ≤ (s.port p).replays) → ∃ t, exec (.linkLoss p why) s = .next t ∧
      portState t p = (if why = .groupOff then pDown else pDetect) ∧ (t.port p).lossAt = some s.tide.toNat ∧
      (t.port p).outq = ((s.port p).outq.zipIdx.filter fun x => slotsOut (s.port p) x.2 x.1).map (·.1) ∧
      (t.port p).replay = (s.port p).replay ∧ causeSet t (34 + p / 2 % 8) (p / 16) (8 * (p % 2) + 1) ∧
      (why = .replayLimit → causeSet t (34 + p / 2 % 8) (p / 16) (8 * (p % 2) + 3)) ∧
      (∀ d, d / 2 ≠ p / 2 → t.port d = s.port d) ∧ ((s.port p).outq = [] → PortOnly p s t) ∧
      OnlyIn [.ports, .routers, .fabric, .regs, .log] s t) ∧
    (∀ l, (s.port p).lossAt = some l → l + 2500000 ≤ s.tide.toNat → ∃ t, exec (.linkLossTimeout p) s = .next t ∧
      (t.port p).lossAt = none ∧ (t.port p).replay = [] ∧ (t.port p).txSeq = 0 ∧ (t.port p).rxSeq = 0 ∧
      (t.port p).outq = ((s.port p).outq.zipIdx.filter fun x => !slotsOut (s.port p) x.2 x.1).map (·.1) ∧
      portState t p = portState s p ∧ PortOnly p s t ∧
      OnlyIn [.ports, .routers, .fabric, .regs, .log] s t) ∧
    (hasLink s p = true → ∃ t, exec (.retrain p) s = .next t ∧ portState t p = pDetect ∧
      (t.port p).lossAt = some s.tide.toNat ∧ causeSet t (34 + p / 2 % 8) (p / 16) (8 * (p % 2) + 1) ∧
      (∀ d, d / 2 ≠ p / 2 → t.port d = s.port d)) ∧
    (hasLink s p = true → ∃ t, exec (.disable p true) s = .next t ∧ portState t p = pDisabled ∧ (t.port p).replay = [] ∧
      (t.port p).lossAt = none ∧ causeSet t (34 + p / 2 % 8) (p / 16) (8 * (p % 2) + 1) ∧
      (∀ d, d / 2 ≠ p / 2 → t.port d = s.port d)) ∧
    exec (.forgetEq p) s = .next (s.setPort p { s.port p with eq := false }) ∧
    (∃ t, exec (.acceptPeer p) s = .next t ∧ getField t (portOff p) 9 1 = 0 ∧ (portState s p = pActive → portUp t p = true) ∧
      RegsOnly [portOff p] s t ∧ OnlyIn [.regs] s t) ∧
    (portState s p = pLowPower → ∃ t, exec (.portWake p) s = .next t ∧ portState t p = pActive ∧ RegsOnly [portOff p] s t ∧
      OnlyIn [.regs] s t)

/-- 11 R289: an admitted partner's packet that its FUNC allows goes on with the adapter's SRC, and another is answered with PROTECTION
and raises SITE_PROT; a mainband that goes down takes the site to LINK_DOWN, and one that retrains back to ADMITTED. -/
def Obligations.OpenSitesInService : Prop :=
  ∀ (s : State) (i : Nat), i < siteCount →
    (∀ k : Packet, siteState s i = 3 → partnerMay s i { k with src := homeId s (siteUnit i), dunit := 5 } = true →
      ettEntry s k.dst % 4 = 1 → Reached s (localUnit (ettEntry s k.dst)) →
      ∃ t, exec (.partnerPacket i k) s = .next t ∧
      PacketSent s t (fun x => x.src = homeId s (siteUnit i) ∧ x.unit = localUnit (ettEntry s k.dst) ∧ x.payload = k.payload ∧
        x.ref = k.ref ∧ x.ty = k.ty) ∧ OnlyIn [.routers, .sites] s t) ∧
    (∀ k : Packet, siteState s i = 3 → partnerMay s i { k with src := homeId s (siteUnit i), dunit := 5 } = false →
      ∃ t x, exec (.partnerPacket i k) s = .next t ∧ (t.site i).outq = (s.site i).outq ++ [x] ∧ x.ty = 3 ∧
      bits x.ref.toNat 0 8 = 2 ∧ causeSet t 50 i 5 ∧ t.routers = s.routers ∧ OnlyIn [.sites, .regs, .log] s t) ∧
    (siteState s i = 3 → ∃ t, exec (.partnerLinkDown i) s = .next t ∧ siteState t i = 5 ∧ causeSet t 50 i 2 ∧
      RegsOnly (siteOff i :: causeRegs 50 i) s t ∧ OnlyIn [.regs, .log] s t) ∧
    (siteState s i = 5 → ∃ t, exec (.mainbandRetrained i) s = .next t ∧ siteState t i = 3 ∧ causeSet t 50 i 4 ∧
      RegsOnly (siteOff i :: causeRegs 50 i) s t ∧ OnlyIn [.regs, .log] s t) ∧
    (siteState s i = 3 → ∃ t, exec (.laneRepair i) s = .next t ∧ siteState t i = 3 ∧ causeSet t 50 i 3 ∧
      RegsOnly (causeRegs 50 i) s t ∧ OnlyIn [.regs, .log] s t)

/-! ## Power, clocks and heat (12 R291 to R318) -/

/-- 12 R291 R292 R293 R295 R297 R298 R299 R316: an input that leaves 40 to 48 V is told, below 38 V it is an emergency, outside 36 to 52 V the switched
domains lose it, and the logs keep their newest 4,096 records of severity 3 and 4; a failed converter lowers the module limit and the cap; phases and a sustained stretch are counted and told, and the periods that a
droop stretches are due;
a short makes its basin dark. (The learned margin is free within 10 to 30 mV: log entry 1.) -/
def Obligations.PowerSupplies : Prop :=
  ∀ s : State,
    (∀ mv, inputBand mv = s.power.inputMode → ∃ t, exec (.inputVoltageChange mv) s = .next t ∧ inputMv t = min 65535 mv ∧
      RegsOnly [pwrInputOff] s t ∧ OnlyIn [.regs] s t) ∧
    (∀ mv, 40000 ≤ mv → mv ≤ 48000 → ∃ t, exec (.inputVoltageChange mv) s = .next t ∧ inputMv t = mv ∧ t.power = { s.power with inputMode := 0 } ∧
      RegsOnly [pwrInputOff] s t ∧ OnlyIn [.regs, .power] s t) ∧
    (∀ mv, 38000 ≤ mv → mv < 40000 → s.power.inputMode ≠ 1 → ∃ t, exec (.inputVoltageChange mv) s = .next t ∧ inputMv t = mv ∧
      causeSet t 43 0 5 ∧ t.power = { s.power with inputMode := 1 } ∧ RegsOnly (pwrInputOff :: causeRegs 43 0) s t ∧
      OnlyIn [.regs, .power, .log] s t) ∧
    (∀ mv, 48000 < mv → mv ≤ 52000 → s.power.inputMode ≠ 4 → ∃ t, exec (.inputVoltageChange mv) s = .next t ∧ inputMv t = mv ∧
      causeSet t 43 0 6 ∧ t.power = { s.power with inputMode := 4 } ∧ RegsOnly (pwrInputOff :: causeRegs 43 0) s t ∧
      OnlyIn [.regs, .power, .log] s t) ∧
    (∀ mv, 36000 ≤ mv → mv < 38000 → s.power.inputMode ≠ 2 → s.thermal.emergency = none →
      ∃ t, exec (.inputVoltageChange mv) s = .next t ∧ inputMv t = mv ∧ causeSet t 43 0 5 ∧ t.power.inputMode = 2 ∧
      EmergencyBegun s t 5 ∧ OnlyIn [.regs, .power, .thermal, .voyages, .hm, .log] s t) ∧
    (∀ mv, mv < 36000 ∨ 52000 < mv → inputBand mv ≠ s.power.inputMode → ∃ t, exec (.inputVoltageChange mv) s = .next t ∧
      causeSet t 43 0 (if mv < 36000 then 5 else 6) ∧ t.power.off = true ∧ reg t (pwrBase + 0x30) = 0 ∧ reg t (pwrBase + 0x34) = 0 ∧
      (∀ m, m < memCount → (t.engine m).selfRefresh = true) ∧ (∀ b, b < basinCount → isDark t b = true) ∧
      (∀ b c, b < basinCount → isDark s b = false → c ∈ coresOfBasin s b → (t.core c).tierS = []) ∧
      (∃ l, l = (raise s 43 0 (if mv < 36000 then 5 else 6)).log.recs.filter (fun r => decide (3 ≤ r.sev.toNat)) ∧
        t.log.saved = l.drop (l.length - 4096)) ∧
      OnlyIn [.regs, .power, .engines, .log, .cores, .routers, .ports, .fabric] s t) ∧
    (∀ q, q < 4 → ∃ t, exec (.convFail q) s = .next t ∧ look 0 t.power.convFailed q = min 12 (look 0 s.power.convFailed q + 1) ∧
      (∀ p, p ≠ q → look 0 t.power.convFailed p = look 0 s.power.convFailed p) ∧ causeSet t 43 0 3 ∧
      moduleLimit t ≤ 4 * 900 * (12 - look 0 t.power.convFailed q) ∧ getField t pwrCapOff 0 16 = capFor t / 10 ∧
      RegsOnly (pwrCapOff :: causeRegs 43 0) s t ∧ OnlyIn [.regs, .power, .log] s t) ∧
    (∃ t, exec .capRecompute s = .next t ∧ getField t pwrCapOff 0 16 = capFor s / 10 ∧
      getField t pwrCapOff 16 1 = 1 - getField s thmRthOff 24 1 ∧ RegsOnly [pwrCapOff] s t ∧ OnlyIn [.regs] s t) ∧
    (∀ b j row ld, b < basinCount → dieInBasin s b j = some (row, ld) →
      (look 0 s.power.phaseDie (7 * b + j) ≠ 2 → getField s (pwrBase + 0x80 + 4 * b) 0 8 ≠ 1 →
        ∃ t, exec (.phaseFail b j) s = .next t ∧
        getField t (pwrBase + 0x80 + 4 * b) 0 8 = min 255 (getField s (pwrBase + 0x80 + 4 * b) 0 8 + 1) ∧ causeSet t 43 0 0 ∧
        t.power = { s.power with phaseDie := put 0 s.power.phaseDie (7 * b + j) (look 0 s.power.phaseDie (7 * b + j) + 1) } ∧
        RegsOnly ((pwrBase + 0x80 + 4 * b) :: causeRegs 43 0) s t ∧ OnlyIn [.regs, .power, .log] s t) ∧
      (look 0 s.power.phaseDie (7 * b + j) ≠ 2 → getField s (pwrBase + 0x80 + 4 * b) 0 8 = 1 → b ∉ s.power.limited →
        ∃ t, exec (.phaseFail b j) s = .next t ∧ getField t (pwrBase + 0x80 + 4 * b) 0 8 = 2 ∧ causeSet t 43 0 0 ∧ causeSet t 43 0 1 ∧
        t.power.limited = s.power.limited ++ [b] ∧ (evtHeld s < 1024 → EventPut s t (deviceEvent s 0x0C 4)) ∧
        OnlyIn [.regs, .power, .hm, .log] s t) ∧
      (look 0 s.power.phaseDie (7 * b + j) = 2 → ∃ t, exec (.phaseFail b j) s = .next t ∧ causeSet t 43 0 0 ∧ causeSet t 43 0 2 ∧ causeSet t 47 0 1)) ∧
    (∀ b n, b < basinCount → ∀ absorbed : Bool, ∃ t, exec (.droop b absorbed n) s = .next t ∧
      (look 0 t.power.margin b = look 0 s.power.margin b ∨ 10 ≤ look 0 t.power.margin b ∧ look 0 t.power.margin b ≤ 30) ∧
      (∀ d, look 0 t.power.stretchDue d = look 0 s.power.stretchDue d + if absorbed = false ∧ d = b then n else 0) ∧
      OnlyIn [.free, .power] s t) ∧
    (∀ b, b < basinCount → ∃ t, exec (.stretchSustained b) s = .next t ∧ causeSet t 45 0 5 ∧
      t.power = { s.power with slower := min 7 (s.power.slower + 1) } ∧ RegsOnly (causeRegs 45 0) s t ∧ OnlyIn [.regs, .power, .log] s t) ∧
    (∀ b, b < basinCount → b ∉ s.power.efuseOpen → isDark s b = false → ∃ t, exec (.basinShort b) s = .next t ∧ causeSet t 43 0 4 ∧
      b ∈ t.power.efuseOpen ∧ GoneDark s t b ∧ (evtHeld s < 1024 → EventPut s t (deviceEvent s 0x0C 3)))

/-- 12 R301 R302 R305 R306 R307: the master PLL follows a valid reference and holds over without one; a basin whose PLL unlocks goes dark; the
lighthouse weighs the point every ms, schedules a change 2,048 ticks ahead, and the basins hold at T_op and run at the new point
16 ticks later; the storm point is entered at its armed tick. -/
def Obligations.ClocksAndOperatingPoints : Prop :=
  ∀ s : State,
    (∀ isB, ∃ t, exec (.refLost isB) s = .next t ∧ refValid t isB = false ∧ causeSet t 45 0 (b2n isB) ∧
      getField t clkStatusOff 0 2 =
        (if getField s clkStatusOff 0 2 = b2n isB ∧ refValid s (!isB) = true then b2n (!isB) else getField s clkStatusOff 0 2) ∧
      RegsOnly (clkStatusOff :: causeRegs 45 0) s t ∧ OnlyIn [.regs, .log] s t) ∧
    (∀ isB, ∃ t, exec (.refRestored isB) s = .next t ∧ refValid t isB = true ∧ causeSet t 45 0 3 ∧
      getField t clkStatusOff 0 2 = (if getField s clkStatusOff 0 2 = 2 then b2n isB else getField s clkStatusOff 0 2) ∧
      RegsOnly (clkStatusOff :: causeRegs 45 0) s t ∧ OnlyIn [.regs, .log] s t) ∧
    (refValid s false = false → refValid s true = false → getField s clkStatusOff 0 2 ≠ 2 → ∃ t, exec .holdover s = .next t ∧
      getField t clkStatusOff 0 2 = 2 ∧ causeSet t 45 0 2 ∧ (evtHeld s < 1024 → EventPut s t (deviceEvent s 0x0C 6)) ∧
      OnlyIn [.regs, .hm, .log] s t) ∧
    (∀ b, b < basinCount → isDark s b = false → ∃ t, exec (.pllUnlock b) s = .next t ∧ getField t clkStatusOff (4 + b) 1 = 1 ∧
      causeSet t 45 0 4 ∧ GoneDark s t b ∧ (evtHeld s < 1024 → EventPut s t (deviceEvent s 0x0C 7))) ∧
    (∀ v : BitVec 32, ∃ t, exec (.pwrOpReqWrite v) s = .next t ∧ getField t opReqOff 0 3 = v.toNat % 8 ∧ RegsOnly [opReqOff] s t ∧
      OnlyIn [.regs] s t) ∧
    (∀ w ov mw, s.tide.toNat < 2 ^ 63 → stage s = 9 → opPending s = false → s.power.stormTick = none → stormOn s = false →
      max (opNow s) (opLimit s) < 7 → capW s < w ∨ 0 < s.power.slower → s.power.limited = [] →
      ∃ t, exec (.opEvaluate w ov mw) s = .next t ∧ panelPower t = w % 2 ^ 32 ∧
      opLimit t = min 7 (max (opNow s) (opLimit s) + s.power.slower + b2n (decide (capW s < w))) ∧ t.power.slower = 0 ∧ opPending t = true ∧
      opNext t = max (getField s opReqOff 0 3) (opLimit t) ∧ t.power.pendingOp = some (opNext t) ∧
      s.tide.toNat + 2048 ≤ (reg64 t opTickOff).toNat ∧ opNow t = opNow s ∧ OnlyIn [.free, .regs, .power] s t) ∧
    (∀ w ov mw, stage s = 9 → opPending s = false → s.power.stormTick = none → stormOn s = false →
      max (opNow s) (opLimit s) = 7 → capW s < w → ∃ t, exec (.opEvaluate w ov mw) s = .next t ∧ causeSet t 43 0 8 ∧ opLimit t = 7 ∧
      opPending t = false ∧ OnlyIn [.free, .regs, .power, .log] s t) ∧
    (∀ w ov mw k, s.tide.toNat < 2 ^ 63 → stage s = 9 → opPending s = false → s.power.stormTick = none → stormOn s = false →
      s.power.slower = 0 → s.power.limited = [] → w ≤ capW s → 10 * w ≤ 9 * capW s → s.power.belowSince = some k →
      k + 25000000 ≤ s.tide.toNat → s.thermal.hotSince = none → 0 < opLimit s →
      ∃ t, exec (.opEvaluate w ov mw) s = .next t ∧ opLimit t = opLimit s - 1 ∧ t.power.belowSince = some s.tide.toNat ∧
      (max (getField s opReqOff 0 3) (opLimit s - 1) ≠ opNow s → opPending t = true ∧
        opNext t = max (getField s opReqOff 0 3) (opLimit s - 1) ∧ s.tide.toNat + 2048 ≤ (reg64 t opTickOff).toNat) ∧
      OnlyIn [.free, .regs, .power] s t) ∧
    (∀ w ov mw, stage s < 9 ∨ opPending s = true ∨ s.power.stormTick.isSome = true ∨ stormOn s = true →
      ∃ t, exec (.opEvaluate w ov mw) s = .next t ∧ panelPower t = w % 2 ^ 32 ∧ reg t opStatusOff = reg s opStatusOff ∧
      (∀ d, d < 64 → reg t (pwrBase + 0x100 + 4 * d) = BitVec.ofNat 32 (mw.getD d 0)) ∧ inputMv t = inputMv s ∧
      (0 < inputMv s → getField t pwrInputOff 16 16 = min 65535 (10000 * w / inputMv s)) ∧ t.power.slower = s.power.slower ∧ OnlyIn [.free, .regs, .power] s t) ∧
    (∀ op, s.power.pendingOp = some op → s.power.holding = none → (reg64 s opTickOff).toNat ≤ s.tide.toNat →
      exec .opChangeHold s = .next { s with power := { s.power with holding := some s.tide.toNat } }) ∧
    (∀ op, s.power.pendingOp = some op → s.power.holding = none → s.tide.toNat < (reg64 s opTickOff).toNat → exec .opChangeHold s = .next s) ∧
    (∀ h op, s.power.holding = some h → s.power.pendingOp = some op → op < 8 → h + 16 ≤ s.tide.toNat → ∃ t, exec .opChanged s = .next t ∧
      opNow t = op ∧ opPending t = false ∧ t.power.pendingOp = none ∧ t.power.holding = none ∧ causeSet t 43 0 7 ∧
      (op ≠ 7 → t.thermal = s.thermal ∧ stormOn t = stormOn s) ∧
      (∀ k, op = 7 → s.power.stormTick = some k → k ≤ h → stormOn t = true ∧ t.power.stormTick = none ∧ t.thermal.stormAt = some s.tide.toNat) ∧
      RegsOnly (opStatusOff :: causeRegs 43 0) s t ∧ OnlyIn [.regs, .power, .thermal, .log] s t) ∧
    (∀ k, s.power.stormTick = some k → k ≤ s.tide.toNat → s.power.holding = none → s.power.pendingOp = none → ∃ t, exec .stormEntry s = .next t ∧
      t.power.pendingOp = some 7 ∧ t.power.holding = some s.tide.toNat ∧ opNext t = 7 ∧ opPending t = true ∧
      reg64 t opTickOff = BitVec.ofNat 64 k ∧ OnlyIn [.regs, .power] s t)

/-- 12 R309 to R315 R317 R318: samples are averaged over 1 ms, a good pair gives its mean within 4 degrees and the higher value above; the limits of R311
act on every reading; coolant and resistance are read; an emergency starts without flow, powers compute off 1 ms after the storm point
took effect and at 105 degrees, and ends after 1 s of flow below 70 degrees. (The resistance filter's value is free between the last
one and the quotient: log entry 1.) -/
def Obligations.HeatIsControlled : Prop :=
  ∀ s : State,
    (∀ i ring (temp : Int), i < spotCount → spotSpared s i = false → ∃ t, exec (.sensorSample i ring temp) s = .next t ∧
      (sensor t (2 * i + b2n ring)).last = temp ∧ (sensor t (2 * i + b2n ring)).sum = (sensor s (2 * i + b2n ring)).sum + temp ∧
      (sensor t (2 * i + b2n ring)).n = (sensor s (2 * i + b2n ring)).n + 1 ∧
      (∀ k, k ≠ 2 * i + b2n ring → sensor t k = sensor s k) ∧ OnlyIn [.thermal] s t) ∧
    (∃ t, exec .thermalReading s = .next t ∧ t.thermal.prev = s.thermal.ctrl ∧
      (∀ i, SpotRead s i → PairGood s i → look 0 t.thermal.ctrl i =
        if (meanOf s (2 * i) - meanOf s (2 * i + 1)).natAbs ≤ 400 then (meanOf s (2 * i) + meanOf s (2 * i + 1)) / 2
        else max (meanOf s (2 * i)) (meanOf s (2 * i + 1))) ∧
      (∀ i, SpotRead s i → PairGood s i → 400 < (meanOf s (2 * i) - meanOf s (2 * i + 1)).natAbs → causeSet t 44 0 0) ∧
      (∀ i, 9500 ≤ look 0 t.thermal.ctrl i → reg t thmDemandOff = 900) ∧
      (∀ i, 10000 ≤ look 0 t.thermal.ctrl i → causeSet t 44 0 2 ∧
        (s.thermal.hotSince = none → t.power.slower = min 7 (s.power.slower + 1) ∧ t.thermal.hotSince = some s.tide.toNat)) ∧
      (∀ i, 10500 ≤ look 0 t.thermal.ctrl i → t.thermal.emergency.isSome = true) ∧
      (∀ i, 11000 ≤ look 0 t.thermal.ctrl i → causeSet t 44 0 3)) ∧
    (∀ o : CoolantObs, ptGood o.inA = true → ptGood o.inB = true → ptGood o.outA = true → ptGood o.outB = true →
      ∃ t flow, exec (.coolantRead o) s = .next t ∧ flow = min 65535 (600 * o.pulses / max 1 (getField s (thmBase + 0x1C) 0 16)) ∧
      reg t (thmBase + 0x10) = BitVec.ofInt 16 (max o.outA o.outB) ++ BitVec.ofInt 16 (max o.inA o.inB) ∧
      reg t (thmBase + 0x18) = BitVec.ofNat 32 flow ∧ reg t thmDemandOff = BitVec.ofNat 32 (demandFor s) ∧
      (100 < (o.inA - o.inB).natAbs ∨ 100 < (o.outA - o.outB).natAbs → causeSet t 44 0 8) ∧
      (max o.inA o.inB < 1800 ∨ 4000 < max o.inA o.inB → causeSet t 44 0 7) ∧
      (flow < 700 → causeSet t 44 0 6 ∧ t.thermal.flowSince = none) ∧
      (700 ≤ flow → t.bring.flowProven = true ∧ t.thermal.flowSince = some (s.thermal.flowSince.getD s.tide.toNat)) ∧
      RegsOnly ((thmBase + 0x10) :: (thmBase + 0x18) :: thmDemandOff :: causeRegs 44 0) s t ∧
      OnlyIn [.free, .regs, .thermal, .bring, .log] s t) ∧
    (∀ o : CoolantObs, ptGood o.inA = false → ptGood o.inB = false → ∃ t, exec (.coolantRead o) s = .next t ∧
      getField t (thmBase + 0x10) 0 16 = 4000 ∧ causeSet t 44 0 8) ∧
    (panelPower s < 7200 → exec .rthUpdate s = .next s) ∧
    (7200 ≤ panelPower s → ∃ t, exec .rthUpdate s = .next t ∧ t.thermal.loadSecs = s.thermal.loadSecs + 1 ∧
      min (if s.thermal.loadSecs = 0 then 2500 else s.thermal.rthQ) (rthQuotient s) ≤ t.thermal.rthQ ∧
      t.thermal.rthQ ≤ max (if s.thermal.loadSecs = 0 then 2500 else s.thermal.rthQ) (rthQuotient s) ∧
      (s.thermal.loadSecs < 9 → t.regs = s.regs) ∧
      (9 ≤ s.thermal.loadSecs → rthNow t = min (2 ^ 24 - 1) t.thermal.rthQ ∧ getField t thmRthOff 24 1 = 1) ∧
      (s.thermal.loadSecs = 9 → causeSet t 44 0 9) ∧ OnlyIn [.free, .regs, .thermal, .log] s t) ∧
    (s.thermal.emergency = none → ∃ t, exec .flowAbsent s = .next t ∧ causeSet t 44 0 5 ∧ t.thermal.flowSince = none ∧
      EmergencyBegun s t 1 ∧ OnlyIn [.regs, .power, .thermal, .voyages, .hm, .log] s t) ∧
    (∀ e k, s.thermal.emergency = some e → s.thermal.stormAt = some k → k + 250000 ≤ s.tide.toNat → anyAbove s 10500 = true →
      s.thermal.computeOff = false → ∃ t, exec .emergencyComputeOff s = .next t ∧ t.thermal.computeOff = true ∧
      (∀ b, b < basinCount → isDark s b = false → b ∈ t.thermal.offBasins ∧
        getField t (pwrBase + 0x30 + 4 * ((24 + b) / 32)) ((24 + b) % 32) 1 = 0 ∧ ∀ c ∈ coresOfBasin s b, (t.core c).tierS = []) ∧
      (∀ vid v, s.voyage vid = some v → v.st = vRunning ∨ v.st = vSaving ∨ v.st = vHeld → GoesOn t vid fun w => w.st = vEnded)) ∧
    (∀ e k, s.thermal.emergency = some e → s.thermal.flowSince = some k → k + 250000000 ≤ s.tide.toNat → anyAbove s 7000 = false →
      s.power.stormTick = none → s.power.holding = none → s.power.inputMode ≠ 2 → s.power.inputMode ≠ 3 →
      ∃ t, exec .emergencyClear s = .next t ∧ t.thermal.emergency = none ∧
      (∀ b ∈ s.thermal.offBasins, b < basinCount → isDark t b = false) ∧ t.thermal.computeOff = false ∧ t.thermal.offBasins = [] ∧
      stormOn t = false ∧ getField t opStatusOff 11 1 = 0 ∧ causeSet t 44 0 11 ∧
      (evtHeld s < 1024 → EventPut s t (deviceEvent s 0x0C 0x10)) ∧ OnlyIn [.regs, .power, .thermal, .cores, .hm, .log] s t)

/-! ## Failures, replay and reset (13 R327 to R346, 14 R352 to R358) -/

/-- 13 R327 R328 R333 R334 R335 R345, 11 R285: a failed core stops and is fenced, and its voyage's replay is due; outside a running voyage its spare takes
over at once; a failed die is replaced by its row's spare die, or its basin goes dark; a lost stack, a link's retries and a lockstep
pair are handled as their rules say. -/
def Obligations.FailuresAreIsolated : Prop :=
  ∀ s : State,
    (∀ c v, c < coreCount → (s.core c).misc.failed = false → s.voyage (s.core c).misc.vid.toNat = some v → v.st = vRunning →
      ∃ t, exec (.coreFailed c) s = .next t ∧ (t.core c).misc.failed = true ∧ (t.core c).misc.fenced = true ∧
      (∀ d, (s.core d).misc.vid = (s.core c).misc.vid → (t.core d).sync.run ≠ .running) ∧ causeSet t 47 0 0 ∧
      GoesOn t (s.core c).misc.vid.toNat (fun w => 1#8 ∈ w.due ∧ dieKey c ∈ w.coreFails ∧ w.st = v.st) ∧
      OnlyIn [.cores, .regs, .log, .bring, .voyages] s t) ∧
    (∀ c, c < coreCount → (s.core c).misc.failed = false → inRun s c = false →
      coreSpareFree s (coreY c / 6) (physCol s (coreY c / 6) (coreX c / 6)) (coreY c % 6) = true →
      ∃ t, exec (.coreFailed c) s = .next t ∧ causeSet t 47 0 0 ∧ causeSet t 47 0 2 ∧
      spareCore t (coreY c / 6) (physCol s (coreY c / 6) (coreX c / 6)) (coreY c % 6) =
        siteAt (spareCore s (coreY c / 6) (physCol s (coreY c / 6) (coreX c / 6)) (coreY c % 6)) (coreX c % 6) ∧
      coreSpareFree t (coreY c / 6) (physCol s (coreY c / 6) (coreX c / 6)) (coreY c % 6) = false ∧
      (evtHeld s < 1024 → EventPut s t (deviceEvent s 0x07 (basinOf s c)))) ∧
    (∀ row ld c v, row < 12 → ld < 12 → c ∈ coresOfDie row ld → s.voyage (s.core c).misc.vid.toNat = some v → v.st = vRunning →
      ∃ t, exec (.dieFailed row ld) s = .next t ∧ causeSet t 47 0 1 ∧ (row, ld) ∈ t.bring.failedDies ∧
      (∀ d ∈ coresOfDie row ld, (t.core d).misc.failed = true ∧ (t.core d).misc.fenced = true ∧ (t.core d).sync.run ≠ .running) ∧
      GoesOn t (s.core c).misc.vid.toNat (fun w => 2#8 ∈ w.due) ∧ OnlyIn [.cores, .routers, .regs, .log, .bring, .voyages] s t) ∧
    (∀ row ld, row < 12 → ld < 12 → s.voyages = [] → dieSpareFree s row = true →
      ∃ t, exec (.dieFailed row ld) s = .next t ∧ causeSet t 47 0 1 ∧ causeSet t 47 0 2 ∧ spareSite t row = siteAt (spareSite s row) ld ∧
      dieSpareFree t row = false ∧ t.voyages = []) ∧
    (∀ row ld, row < 12 → ld < 12 → s.voyages = [] → dieSpareFree s row = false → isDark s (basinOf s (432 * row + 6 * ld)) = false →
      ∃ t, exec (.dieFailed row ld) s = .next t ∧ causeSet t 47 0 1 ∧ causeSet t 47 0 3 ∧ GoneDark s t (basinOf s (432 * row + 6 * ld))) ∧
    (∀ m, m < memCount → (s.engine m).lost = false → ∃ t, exec (.stackLost m) s = .next t ∧ (t.engine m).lost = true ∧ causeSet t 47 0 7) ∧
    (∀ m, m < memCount → (s.engine m).lost = true → exec (.stackLost m) s = .next s) ∧
    (∀ link bad, linkOk link = true → ∃ t, exec (.d2dRetry link true bad) s = .next t ∧ look 0 t.fabric.linkRetries link = 0 ∧
      t.fabric = { s.fabric with linkRetries := t.fabric.linkRetries } ∧ OnlyIn [.fabric] s t) ∧
    (∀ link bad, linkOk link = true → look 0 s.fabric.linkRetries link < 3 → ∃ t, exec (.d2dRetry link false bad) s = .next t ∧
      look 0 t.fabric.linkRetries link = look 0 s.fabric.linkRetries link + 1 ∧
      t.fabric = { s.fabric with linkRetries := t.fabric.linkRetries } ∧ OnlyIn [.fabric] s t) ∧
    (∀ link bad now, linkOk link = true → 3 ≤ look 0 s.fabric.linkRetries link →
      now = max (look 0 s.fabric.linkWidth link) (widthCode (linkSerial s link) (look 0 s.fabric.linkBad link + bad)) → now < 3 →
      ∃ t, exec (.d2dRetry link false bad) s = .next t ∧ look 0 t.fabric.linkRetries link = 0 ∧ look 0 t.fabric.linkWidth link = now ∧
      look 0 t.fabric.linkBad link = look 0 s.fabric.linkBad link + bad ∧
      (look 0 s.fabric.linkWidth link < now → causeSet t 42 0 8 ∧ reg t (fabBase + 0x1C) = reg s (fabBase + 0x1C) + 1) ∧
      OnlyIn [.fabric, .regs, .log, .bring] s t) ∧
    (∀ pair, pair < 10 → 0 < s.hm.sparePairs → ∃ t, exec (.pairSwap pair) s = .next t ∧ causeSet t 47 0 12 ∧
      t.hm = { s.hm with sparePairs := s.hm.sparePairs - 1 } ∧ OnlyIn [.hm, .regs, .log] s t) ∧
    (∀ pair, pair < 10 → s.hm.sparePairs = 0 → 5 ≤ s.hm.pairs → ∃ t, exec (.pairSwap pair) s = .next t ∧ causeSet t 47 0 13 ∧
      t.hm = { s.hm with pairs := s.hm.pairs - 1 } ∧ OnlyIn [.hm, .regs, .log] s t) ∧
    (∀ pair, pair < 10 → s.hm.sparePairs = 0 → s.hm.pairs ≤ 4 → ∃ t, exec (.pairSwap pair) s = .next t ∧ WasReset s t)

/-- 13 R330 to R332 R337 to R342: a due replay waits at Quiesce until every injected packet is answered, then puts every core back to the
last mooring point, with Tier S as it is; the work of a dark basin moves to its reserve, with its quay manifests and segments at the copies, or the voyage is held; a segment that does not end in time
resets the compute part, and a replay is due. -/
def Obligations.VoyagesReplay : Prop :=
  ∀ (s : State) (vid : Nat) (v : Voyage), s.canonical = true →
    (∀ cause, ReplayDue s vid v cause → 7#8 ∉ v.due → quiet (quiesceVoyage s (BitVec.ofNat 16 vid)) (BitVec.ofNat 16 vid) = false →
      exec (.replay vid cause) s = .next (quiesceVoyage s (BitVec.ofNat 16 vid))) ∧
    (∀ cause s1, ReplayDue s vid v cause → 7#8 ∉ v.due → s1 = quiesceVoyage s (BitVec.ofNat 16 vid) → quiet s1 (BitVec.ofNat 16 vid) = true →
      s.bring.failedDies = [] → (∀ c ∈ coresOf s1 (BitVec.ofNat 16 vid), (s1.core c).misc.failed = false) →
      RecordsThere s1 vid (lostPositions s1 v (BitVec.ofNat 16 vid)) →
      ∃ t w, exec (.replay vid cause) s = .next t ∧ s1.voyage vid = some w ∧ w.img = v.img ∧
      t.voyage vid = some { w with due := [], replays := v.replays + 1, ordReplays := v.ordReplays + 1, ordTimeouts := v.ordTimeouts + b2n (decide (cause.toNat = 5)), segStart := s.tide.toNat, savePhase := 0 } ∧
      (v.ordinal = 0 → v.moved = [] → ∀ c r, c ∈ voyagePositions s v → coreRec v.img c = some r →
        (t.core c).seq.mp = r.entry.setWidth 13 ∧ (t.core c).sync.run = .running ∧ (t.core c).tierS = (s1.core c).tierS) ∧
      causeSet t 47 0 4 ∧ (evtHeld s < 1024 → EventPut s t (voyageEvent s vid v 0x05 0 v.ordinal.toNat cause.toNat))) ∧
    (∀ b r s1 s2, b < basinCount → ReplayDue s vid v 7 → isDark s b = true → reserveFor v b = some r →
      mayReplace s v (BitVec.ofNat 16 vid) b r = true → s1 = quiesceVoyage s (BitVec.ofNat 16 vid) → quiet s1 (BitVec.ofNat 16 vid) = true →
      rehomed s1 vid b r = some s2 → partDark s2 vid = false → s2.bring.failedDies = [] →
      (∀ c ∈ coresOf s2 (BitVec.ofNat 16 vid), (s2.core c).misc.failed = false) →
      (∀ w, s2.voyage vid = some w → RecordsThere s2 vid (lostPositions s2 w (BitVec.ofNat 16 vid))) →
      ∃ t, exec (.replaced vid b) s = .next t ∧ GoesOn t vid (fun w => w.due = [] ∧ w.replays = v.replays + 1 ∧ w.st = vRunning) ∧
      (∃ p, t.part v.pid = some p ∧ p.basins.getLsbD r = true ∧ p.reserve.getLsbD r = false) ∧ causeSet t 47 0 4 ∧ causeSet t 47 0 5) ∧
    (∀ b, b < basinCount → s.hm.hung = none → vid < 65535 → s.voyage vid = some v → v.st = vRunning → v.preempt = none → 7#8 ∈ v.due →
      reserveFor v b = none → ∃ t, exec (.capacityLost vid b) s = .next t ∧ GoesOn t vid (fun w => w.st = vHeld ∧ w.due = []) ∧
      causeSet t 47 0 6 ∧ (∀ c, (s.core c).misc.vid = BitVec.ofNat 16 vid → (t.core c).sync.run ≠ .running) ∧
      (evtHeld s < 1024 → EventPut s t (voyageEvent s vid v 0x08 stCapacityLost b 0))) ∧
    (vid < 65535 → s.hm.hung = none → s.voyage vid = some v → v.st = vRunning → v.segHeld = false → v.savePhase = 0 → v.due = [] →
      v.segStart + v.stmo < s.tide.toNat → replaysOut v 5 = false → ∃ t, exec (.segTimeout vid) s = .next t ∧
      GoesOn t vid (fun w => w.due = [5#8] ∧ w.st = vRunning) ∧ causeSet t 47 0 9 ∧ causeSet t 47 0 10 ∧
      (∀ c, (s.core c).misc.vid = BitVec.ofNat 16 vid → (t.core c).tierS = [] ∧ (t.core c).sync.run ≠ .running) ∧
      (evtHeld s < 1024 → EventPut s t (voyageEvent s vid v 0x0B stTimeout v.ordinal.toNat 0)))

/-- 13 R343 R344 R346, 14 R352 R372: a full device reset, a loss of lock of the master PLL and a failed compute-part reset start S0 anew and are counted;
power-up does the same with an empty log; a hang waits for the restart image, which answers what was in progress with TIMEOUT and
makes a replay due for every running voyage; the reset pin and a link that goes down stop the IDE stream. -/
def Obligations.ResetsAndRestarts : Prop :=
  ∀ s : State,
    (∀ c : Instr, c = .fullDeviceReset ∨ c = .masterPllUnlock → ∃ t, exec c s = .next t ∧ WasReset s t ∧ causeSet t 48 0 2 ∧
      getField t lhCountOff 16 16 = min 65535 (getField s lhCountOff 16 16 + 1)) ∧
    (∀ pid, pid < 24 → (s.part pid).isSome = true → ∃ t, exec (.partResetFail pid) s = .next t ∧ WasReset s t ∧ causeSet t 48 0 2) ∧
    (s.bring.powered = false ∨ s.power.off = true → ∃ t, exec .powerUp s = .next t ∧ WasReset s t ∧ t.log.recs = [] ∧ t.log.saved = s.log.saved ∧
      t.bring.powered = true ∧ t.bring.configServed = false) ∧
    (s.bring.powered = true → s.power.off = false → exec .powerUp s = .next s) ∧
    (s.hm.hung = none → s.hm.restartedAt = none → s.sec.restartImage.isSome = true → ∃ t, exec .hmHang s = .next t ∧
      t.hm = { s.hm with hung := some s.tide.toNat } ∧ causeSet t 48 0 0 ∧ OnlyIn [.hm, .regs, .log, .free, .sec] s t) ∧
    (s.hm.hung = none → s.sec.restartImage = none → ∃ t, exec .hmHang s = .next t ∧ WasReset s t ∧ causeSet t 48 0 0 ∧ causeSet t 48 0 2) ∧
    (∀ k, s.hm.hung = none → s.hm.restartedAt = some k → s.tide.toNat < k + 250000000 → ∃ t, exec .hmHang s = .next t ∧ WasReset s t) ∧
    (s.hm.hung.isSome = true → ∃ t, exec (.hmRestarted false) s = .next t ∧ WasReset s t) ∧
    (s.hm.hung.isSome = true →
      (∀ mb m, mb < boxCount → (s.box mb).msg = some m → m.begun = true ∨ (msgType m.ty.toNat).any (·.2) = false) →
      ∃ t, exec (.hmRestarted true) s = .next t ∧ t.hm.hung = none ∧ t.hm.restartedAt = some s.tide.toNat ∧ t.hm.altImage = true ∧
      causeSet t 48 0 1 ∧ getField t lhCountOff 0 16 = min 65535 (getField s lhCountOff 0 16 + 1) ∧
      (∀ mb m, mb < boxCount → (s.box mb).msg = some m → Replied t mb m stTimeout 0 []) ∧
      (∀ vid v, vid < 65536 → s.voyage vid = some v → v.st = vRunning → GoesOn t vid fun w => 6#8 ∈ w.due)) ∧
    (∀ link, ∃ t, exec (.perstN true link) s = .next t ∧ t.sec.ideKeys = [] ∧ t.sec.ideSet = none ∧ t.bring.pcieUp = false ∧
      t.hm = { s.hm with pcie := {} } ∧
      (∀ o, msixBase ≤ o → o < msixBase + 0x1000 → reg t o = (regDef o).reset) ∧
      (s.sec.ideKeys ≠ [] ∨ s.sec.ideSet.isSome = true → causeSet t 46 0 9) ∧ OnlyIn [.regs, .sec, .bring, .log, .hm] s t) ∧
    (∀ link, ∃ t, exec (.perstN false link) s = .next t ∧ t.bring = { s.bring with pcieUp := true } ∧ PcieTrained t link ∧
      RegsOnly (causeRegs 49 0) s t ∧ OnlyIn [.regs, .log, .bring, .hm] s t) ∧
    (∀ link, ∃ t, exec (.pcieLinkDown link) s = .next t ∧ t.sec.ideKeys = [] ∧ t.sec.ideSet = none ∧ PcieTrained t link ∧
      (s.sec.ideKeys ≠ [] ∨ s.sec.ideSet.isSome = true → causeSet t 46 0 9 ∧ getField t secStatusOff 2 1 = 0) ∧
      OnlyIn [.regs, .sec, .log, .hm] s t) ∧
    (s.bring.configServed = false → stage s < 2 → ∀ req, exec (.configurationRequest req) s = .next s) ∧
    (s.bring.configServed = true ∨ 2 ≤ stage s →
      (∃ t, exec (.configurationRequest .identity) s = .next t ∧ t.bring.configServed = true ∧
        t.readData.drop 2 = leBytes 2 0x5184 ++ leBytes 3 0x120000 ∧ OnlyIn [.free, .readData, .bring] s t) ∧
      (∀ c : BitVec 3, ∃ t, exec (.configurationRequest (.payload c)) s = .next t ∧ t.bring.configServed = true ∧
        t.hm.pcie = { s.hm.pcie with payload := if c.toNat ≤ 2 then c.toNat else s.hm.pcie.payload } ∧ OnlyIn [.hm, .bring] s t) ∧
      (∀ c : BitVec 3, ∃ t, exec (.configurationRequest (.readRequest c)) s = .next t ∧ t.bring.configServed = true ∧
        t.hm.pcie = { s.hm.pcie with readRequest := if c.toNat ≤ 5 then c.toNat else s.hm.pcie.readRequest } ∧ OnlyIn [.hm, .bring] s t) ∧
      (∀ d, ∃ t, exec (.configurationRequest (.power d)) s = .next t ∧ t.bring.configServed = true ∧
        t.hm.pcie = { s.hm.pcie with d3hot := d } ∧ OnlyIn [.hm, .bring] s t) ∧
      (∃ t, exec (.configurationRequest .other) s = .next t ∧ t.bring.configServed = true ∧ OnlyIn [.bring] s t))

/-- 14 R354 R355 R356 R357 R358, Tables 14-1 to 14-3: a stage that ends without a Fatal finding does its work and the next begins, S9 READY; a Fatal finding stops
bring-up in its stage and shows its code and place; a Degraded one is shown and bring-up goes on; S2 waits for proven flow and S2 to S8 for the end of an
emergency; S2 is tried again when the input is good. -/
def Obligations.BringupStages : Prop :=
  ∀ (s : State) (found : List StageFinding) (obs : StageObs),
    (StageRuns s → (∀ f ∈ stageFindings s found obs, f.code.toNat ∉ fatalCodes) →
      ∃ t, exec (.bringupStageEnd found obs) s = .next t ∧ stage t = stage s + 1 ∧ (stage s = 8 → stageState t = 1)) ∧
    (∀ f, StageRuns s → stageFindings s found obs = [f] → f.code.toNat ∈ fatalCodes →
      ∃ t, exec (.bringupStageEnd found obs) s = .next t ∧ stage t = stage s ∧ stageState t = 2 ∧ stageCode t = f.code.toNat ∧
      getField t stageOff 16 16 = f.loc.toNat ∧ t.bring.reports = s.bring.reports ++ [(f.code, f.loc)]) ∧
    (∀ f, StageRuns s → stageFindings s found obs = [f] → f.code.toNat ∈ degradedCodes → obs.sites = [] →
      ∃ t, exec (.bringupStageEnd found obs) s = .next t ∧ stage t = stage s + 1 ∧ getField t stageOff 6 1 = 1 ∧ stageCode t = f.code.toNat ∧
      getField t stageOff 16 16 = f.loc.toNat ∧ t.bring.reports = s.bring.reports ++ [(f.code, f.loc)]) ∧
    (stageState s = 0 → stage s = 2 → s.bring.flowProven = false → ∃ t, exec (.bringupStageEnd found obs) s = .next t ∧ causeSet t 44 0 6 ∧
      RegsOnly (causeRegs 44 0) s t ∧ OnlyIn [.regs, .log] s t) ∧
    (stageState s = 0 → 2 ≤ stage s → stage s < 9 → s.bring.flowProven = true → s.thermal.emergency.isSome = true →
      exec (.bringupStageEnd found obs) s = .next s) ∧
    (stageState s ≠ 0 ∨ 9 ≤ stage s → exec (.bringupStageEnd found obs) s = .next s) ∧
    (StageRuns s → stage s = 0 → s.sec.zeroiseDue = false → ∃ t, exec (.bringupStageEnd [] {}) s = .next t ∧
      moduleState t = (if s.sec.identity then 1 else 3) ∧ RegsOnly [stageOff, secStatusOff, secBase + 0x14] s t ∧ OnlyIn [.regs] s t) ∧
    (StageRuns s → stage s = 0 → s.sec.zeroiseDue = true → ∃ t, exec (.bringupStageEnd [] {}) s = .next t ∧ Zeroised s t ∧
      t.sec.zeroiseDue = false) ∧
    (StageRuns s → stage s = 1 → stageFindings s [] obs = [] → ∃ t, exec (.bringupStageEnd [] obs) s = .next t ∧ t.bring.pcieUp = true ∧
      t.sec.restartImage = some (fwSlot s 1 (1 - activeSlot s 1)).image ∧ (∀ l, obs.pcie = some l → PcieTrained t l) ∧
      look [] t.sec.measurements 2 = Config.sha256 (slotImage s 0 (activeSlot s 0)) ∧
      look [] t.sec.measurements 3 = Config.sha256 (slotImage s 1 (activeSlot s 1))) ∧
    (StageRuns s → stage s = 2 → ∃ t, exec (.bringupStageEnd [] obs) s = .next t ∧ reg t (pwrBase + 0x30) = 0xFFFFFFFF ∧
      reg t (pwrBase + 0x34) = 0xFFFFFFFF ∧
      (∀ p, p < portCount → portState t p = if bitOf (storedFeatures s) 2 || decide (p % 2 = 0) then pDetect else pUnlicensed)) ∧
    (StageRuns s → stage s = 3 → stageFindings s [] obs = [] → ∃ t, exec (.bringupStageEnd [] obs) s = .next t ∧
      t.bring.spareSite = s.bring.fuses.spareSite ∧ t.bring.spareCore = t.bring.fuses.spareCore ∧ t.bring.usedSite = [] ∧ t.bring.usedCore = [] ∧
      (∀ o ∈ obs.dies, ∀ w, agreed o = some w → look [] t.bring.dies w = o.record) ∧
      (∀ w r, strapType w = 1 → r ∈ rowRepairs (look [] t.bring.dies w) → look 0 t.bring.repairs (repairKey w r) ≠ 0)) ∧
    (StageRuns s → stage s = 4 → stageFindings s [] obs = [] → ∃ t, exec (.bringupStageEnd [] obs) s = .next t ∧
      (∀ l ∈ allLinks, l < 6 * coreCount → look 0 t.fabric.linkWidth l = widthCode (linkSerial s l)
        (badLanes s (linkEnds s l).1 (linkEnds s l).2.1 (linkEnds s l).2.2 + ((obs.wires.filter fun x => x.1 = l).map (·.2)).sum)) ∧
      (∀ o, obs.sites = [o] → o.site < siteCount → failCode s o = 0 → siteState t o.site = 3 ∧ causeSet t 50 o.site 0 ∧
        (t.site o.site).descriptor = o.descriptor) ∧
      (∀ o, obs.sites = [o] → o.site < siteCount → failCode s o ≠ 0 → siteState t o.site = (if failCode s o = 1 then 0 else 4) ∧
        causeSet t 50 o.site 1 ∧ getField t (siteOff o.site) 8 8 = failCode s o)) ∧
    (StageRuns s → stage s = 6 → stageFindings s [] obs = [] → ∃ t, exec (.bringupStageEnd [] obs) s = .next t ∧
      t.fabric.bank0 = homeBlock [] (panelId s) ∧ t.fabric.bank1 = homeBlock [] (panelId s) ∧ causeSet t 42 0 9 ∧
      reg t (fabBase + 0x1C) = reg s (fabBase + 0x1C) + 1) ∧
    (StageRuns s → stage s = 7 → ∃ t, exec (.bringupStageEnd [] {}) s = .next t ∧
      ∀ c, (t.core c).tierS = [] ∧ (t.core c).misc.vid = noVoyage ∧ (t.core c).seq = {} ∧ (t.core c).misc.failed = (s.core c).misc.failed) ∧
    (StageRuns s → stage s = 8 → s.sec.licence ≠ [] → s.sec.stagedLicence = none →
      ∃ t, exec (.bringupStageEnd [] {}) s = .next t ∧ stageState t = 1 ∧
      (if licenceSound s s.sec.licence = true then reg t (secBase + 0xC) = BitVec.ofNat 32 (storedFeatures s)
        else reg t (secBase + 0xC) = 0 ∧ stageCode t = 0x81 ∧ causeSet t 46 0 5)) ∧
    (∀ mv, recovery s = true → stageCode s = 0x21 → 40000 ≤ mv → mv ≤ 48000 → ∃ t, exec (.s2Retry mv) s = .next t ∧
      stageState t = 0 ∧ stageCode t = 0 ∧ getField t stageOff 16 16 = 0 ∧ stage t = stage s ∧ inputMv t = mv ∧
      RegsOnly [pwrInputOff, stageOff] s t ∧ OnlyIn [.regs] s t) ∧
    (∀ mv, recovery s = true → stageCode s = 0x21 → mv < 40000 ∨ 48000 < mv → ∃ t, exec (.s2Retry mv) s = .next t ∧
      inputMv t = min 65535 mv ∧ recovery t = true ∧ RegsOnly [pwrInputOff] s t ∧ OnlyIn [.regs] s t) ∧
    (∀ mv, recovery s = false → exec (.s2Retry mv) s = .next s)

/-- 10 Table 10-3, 10 R262 R263, 11 Table 11-9, 12 Table 12-6 and 12-9, 02 Table 2-1: what reset leaves in the registers whose reset value the spec's tables state. Every map is in canonical form at reset. -/
def Obligations.ResetIsAsStated : Prop :=
  (reg State.reset hmBase = 0x5184 ∧ reg State.reset (hmBase + 4) = 0 ∧ State.reset.tide = 0 ∧ reg State.reset (hmBase + 0x10) = 8 ∧
    reg State.reset evtWrOff = 0 ∧ reg State.reset evtRdOff = 0 ∧ armed State.reset = true ∧ getField State.reset coalOff 0 16 = 0 ∧
    reg State.reset (irqBase + 0x44) = 0xFFFFFFFF ∧ reg State.reset (irqBase + 8) = 0 ∧
    (∀ g, g < 51 → 34 ≤ g → reg State.reset (irqBase + 0x1000 + 0x40 * g + 0x20) = groupLeaves g 0) ∧
    opNow State.reset = 5 ∧ opNext State.reset = 5 ∧ opPending State.reset = false ∧ opLimit State.reset = 0 ∧
    reg State.reset thmDemandOff = 1000 ∧ rthNow State.reset = 2500 ∧ capW State.reset = 0 ∧
    (∀ p, p < portCount → portState State.reset p = pDown) ∧
    (∀ c, (State.reset.core c).sync.run = .idle ∧ (State.reset.core c).tierS = [] ∧ (State.reset.core c).misc.vid = noVoyage) ∧
    State.reset.pending = [] ∧ State.reset.voyages = [] ∧ State.reset.segs = []) ∧
  (State.reset.canonical = true)

/-! ## The module and the management buses (14 R363 to R376) -/

/-- 14 R363 R364 R366 R368 R369 R373 R374: an authenticated service has its effect when its nonce and signature hold in the role that it asks for, and counts a failed
authentication when they do not; self-tests, entropy failure, reseeding, zeroisation, which
during S0 waits for the end of the self-tests (15 Table 15-8), and the end of a suspension. -/
def Obligations.ModuleServices : Prop :=
  ∀ s : State,
    (¬ (stage s = 0 ∧ stageState s = 0) → ∃ t, exec .zeroizeN s = .next t ∧ Zeroised s t ∧ OnlyIn [.regs, .sec, .mgmt, .log] s t) ∧
    (stage s = 0 → stageState s = 0 → exec .zeroizeN s = .next { s with sec := { s.sec with zeroiseDue := true } }) ∧
    (∃ t, exec (.selftestPeriodic true) s = .next t ∧ t.sec = { s.sec with lastKat := s.tide.toNat } ∧ OnlyIn [.sec] s t) ∧
    (∃ t, exec (.selftestPeriodic false) s = .next t ∧ InError t 0 ∧ OnlyIn [.regs, .sec, .log] s t) ∧
    (∃ t, exec (.selftestOnDemand true) s = .next t ∧ moduleState t = (if s.sec.identity then 1 else 3) ∧
      t.sec = { s.sec with lastKat := s.tide.toNat } ∧ RegsOnly [secStatusOff] s t ∧ OnlyIn [.regs, .sec] s t) ∧
    (∃ t, exec (.selftestOnDemand false) s = .next t ∧ InError t 0 ∧ OnlyIn [.regs, .sec, .log] s t) ∧
    (∃ t, exec .entropyFail s = .next t ∧ InError t 1 ∧ OnlyIn [.regs, .sec, .log] s t) ∧
    (2 ^ 20 ≤ s.sec.draws → exec .drbgReseed s = .next { s with sec := { s.sec with reseeds := s.sec.reseeds + 1, draws := 0 } }) ∧
    (s.sec.draws < 2 ^ 20 → exec .drbgReseed s = .next s) ∧
    (∀ k, s.sec.suspendedUntil = some k → k ≤ s.tide.toNat →
      exec .authSuspendEnd s = .next { s with sec := { s.sec with suspendedUntil := none } }) ∧
    (∀ a : AuthReq, AuthServed s → ∃ t, exec (.authFail a) s = .next t ∧ (authOk s a a.role = true → t = s) ∧
      (authOk s a a.role = false → AuthFailed s t a ∧ OnlyIn [.regs, .sec, .log] s t)) ∧
    (∀ a : AuthReq, AuthServed s → ∃ t, exec (.zeroise a) s = .next t ∧ (authOk s a true = true → Zeroised s t) ∧
      (authOk s a true = false → AuthFailed s t a) ∧ OnlyIn [.regs, .sec, .mgmt, .log] s t) ∧
    (∀ a : AuthReq, ∀ harbour, AuthServed s → ∃ t, exec (.commitSvn a harbour) s = .next t ∧
      (authOk s a true = true → stage s = 9 → svnOf t (b2n harbour) =
        max (svnOf s (b2n harbour)) (fieldAt (slotImage s (b2n harbour) (activeSlot s (b2n harbour))) 6 2) ∧
        getField t (secBase + 0x14) (8 * b2n harbour) 8 = svnOf t (b2n harbour) % 256 ∧ causeSet t 46 0 11) ∧
      (authOk s a true = true → stage s < 9 → t.regs = s.regs ∧ t.sec.svnLh = s.sec.svnLh ∧ t.sec.svnHm = s.sec.svnHm) ∧
      (authOk s a true = false → AuthFailed s t a) ∧ OnlyIn [.regs, .sec, .log] s t) ∧
    (∀ a : AuthReq, ∀ p : BitVec 2, p.toNat < 3 → AuthServed s → ∃ t, exec (.keyRevoke a p) s = .next t ∧
      (authOk s a true = true → p.toNat ∈ t.sec.revoked ∧ getField t (secBase + 0x14) (16 + p.toNat) 1 = 1 ∧ liveKey t p.toNat = Config.romKey p.toNat 1) ∧
      (authOk s a true = false → AuthFailed s t a ∧ t.sec.revoked = s.sec.revoked) ∧ OnlyIn [.regs, .sec, .log] s t) ∧
    (∀ a : AuthReq, ∀ user slot key, AuthServed s → ∃ t, exec (.keyManagement a user slot key) s = .next t ∧
      (authOk s a true = true → look [] (if user then t.sec.userKeys else t.sec.officerKeys) slot.toNat = key ∧ t.regs = s.regs) ∧
      (authOk s a true = false → AuthFailed s t a ∧ t.sec.userKeys = s.sec.userKeys ∧ t.sec.officerKeys = s.sec.officerKeys) ∧
      OnlyIn [.regs, .sec, .log] s t) ∧
    (∀ a : AuthReq, AuthServed s → ∃ t, exec (.recipientSet a) s = .next t ∧
      (authOk s a true = true → t.sec.recipient = a.body ∧ t.sec.dumpKey = s.sec.dumpKey + 1 ∧ t.sec.dumpHeld = true) ∧
      (authOk s a true = false → AuthFailed s t a ∧ t.sec.recipient = s.sec.recipient ∧ t.sec.dumpKey = s.sec.dumpKey) ∧
      OnlyIn [.regs, .sec, .log] s t) ∧
    (∀ a : AuthReq, AuthServed s → ∃ t, exec (.dumpKeyExport a) s = .next t ∧
      (authOk s a true = true → s.sec.dumpHeld = true → t.sec.answer =
        Config.kemCipher (if s.sec.recipient = [] then Config.serviceKey else s.sec.recipient) (Config.drbg s.sec.reseeds s.sec.draws)) ∧
      (authOk s a true = false → AuthFailed s t a ∧ t.sec.answer = s.sec.answer) ∧ OnlyIn [.regs, .sec, .log] s t)

/-- 14 R364 R365 R370 R371 R372 R375 R376: what a management bus returns and does. (The answer code and the sensor numbers are the model's own: log entry 14;
the bytes of the keys, signatures and reports are free: log entry 1.) -/
def Obligations.ManagementBuses : Prop :=
  ∀ (s : State) (bus : Nat), bus < busCount →
    (served s = true → ∃ t, exec (.getNonce bus) s = .next t ∧ BusGave t bus 0 (Config.drbg s.sec.reseeds s.sec.draws) ∧
      t.sec = { s.sec with draws := s.sec.draws + 1, nonces := s.sec.nonces ++ [(Config.drbg s.sec.reseeds s.sec.draws, s.tide.toNat)] } ∧
      BusOnly bus s t ∧ OnlyIn [.sec, .mgmt] s t) ∧
    (∀ a : AuthReq, attests s = true → s.sec.suspendedUntil = none → ∃ t, exec (.kemExchange bus a) s = .next t ∧
      (authOk s a false = true → (t.bus bus).session = some (Config.kemSecret a.body (Config.drbg s.sec.reseeds s.sec.draws)) ∧
        ∃ c, c = Config.kemCipher a.body (Config.drbg s.sec.reseeds s.sec.draws) ∧ BusGave t bus 0 (c ++ Config.identitySign (a.body ++ c))) ∧
      (authOk s a false = false → AuthFailed s t a ∧ BusGave t bus 1 [] ∧ (t.bus bus).session = (s.bus bus).session) ∧
      BusOnly bus s t ∧ OnlyIn [.regs, .sec, .mgmt, .log] s t) ∧
    (attests s = true → (s.bus bus).session.isSome = true → ∃ t, exec (.endSession bus) s = .next t ∧ (t.bus bus).session = none ∧
      BusGave t bus 0 [] ∧ BusOnly bus s t ∧ OnlyIn [.mgmt] s t) ∧
    (inSession s bus = true → ∃ t, exec (.ideKmQuery bus) s = .next t ∧ BusGave t bus 0 (Config.layout 2 [(b2n s.sec.ideSet.isSome : Int)]) ∧
      BusOnly bus s t ∧ OnlyIn [.mgmt] s t) ∧
    (∀ keySet (sub : BitVec 2) rx key, inSession s bus = true → sub.toNat < 3 → key.length = 32 →
      ∃ t, exec (.keyProg bus keySet sub rx key) s = .next t ∧ look [] t.sec.ideKeys (ideKey keySet sub.toNat rx) = key ∧
      (∀ i, i ≠ ideKey keySet sub.toNat rx → look [] t.sec.ideKeys i = look [] s.sec.ideKeys i) ∧ BusGave t bus 0 [] ∧
      BusOnly bus s t ∧ OnlyIn [.sec, .mgmt] s t) ∧
    (∀ keySet, inSession s bus = true → setWhole s keySet = true → ∃ t, exec (.kSetGo bus keySet) s = .next t ∧
      t.sec = { s.sec with ideSet := some keySet } ∧ getField t secStatusOff 2 1 = 1 ∧ causeSet t 46 0 8 ∧ BusGave t bus 0 [] ∧
      RegsOnly (secStatusOff :: causeRegs 46 0) s t ∧ BusOnly bus s t ∧ OnlyIn [.regs, .sec, .mgmt, .log] s t) ∧
    (∀ keySet, setWhole s keySet = false → ∃ t, exec (.kSetGo bus keySet) s = .next t ∧ BusGave t bus 1 [] ∧ OnlyIn [.mgmt] s t) ∧
    (inSession s bus = true → ∃ t, exec (.kSetStop bus) s = .next t ∧ t.sec.ideKeys = [] ∧ t.sec.ideSet = none ∧ BusGave t bus 0 [] ∧
      (s.sec.ideSet.isSome = true → getField t secStatusOff 2 1 = 0 ∧ causeSet t 46 0 9) ∧ BusOnly bus s t ∧ OnlyIn [.regs, .sec, .mgmt, .log] s t) ∧
    (attests s = true → ∃ t, exec (.getMeasurements bus) s = .next t ∧
      BusGave t bus 0 (allMeasurements s ++ Config.identitySign (allMeasurements s)) ∧ BusOnly bus s t ∧ OnlyIn [.mgmt] s t) ∧
    (∀ nonce b, attests s = true → b = Config.sha256 Config.certChain ++ Config.sha256 (allMeasurements s) ++ nonce →
      ∃ t, exec (.challenge bus nonce) s = .next t ∧ BusGave t bus 0 (b ++ Config.identitySign b) ∧ BusOnly bus s t ∧ OnlyIn [.mgmt] s t) ∧
    (attests s = true → ∃ t, exec (.getCertificate bus) s = .next t ∧ BusGave t bus 0 Config.certChain ∧ BusOnly bus s t ∧ OnlyIn [.mgmt] s t) ∧
    (busServes s = true → s.sec.update = none → ∃ t, exec (.requestUpdate bus) s = .next t ∧
      t.sec = { s.sec with update := some ⟨bus, none, [], 0, false⟩ } ∧ BusGave t bus 0 [] ∧ BusOnly bus s t ∧ OnlyIn [.sec, .mgmt] s t) ∧
    (∀ u, busServes s = true → s.sec.update = some u → ∃ t, exec (.requestUpdate bus) s = .next t ∧ BusGave t bus 0x80 [] ∧
      BusOnly bus s t ∧ OnlyIn [.mgmt] s t) ∧
    (∀ u cls off data, busServes s = true → s.sec.update = some u → u.bus = bus → 1 ≤ cls.toNat → cls.toNat ≤ 4 →
      ∃ t w, exec (.updateComponent bus cls off data) s = .next t ∧ t.sec.update = some w ∧ w.cls = some cls ∧ w.verified = false ∧
      w.data = putList 0 (if u.cls = some cls then u.data else []) off data ∧
      w.size = max (if u.cls = some cls then u.size else 0) (off + data.length) ∧
      (cls.toNat ≤ 2 → (look {} t.sec.slots (spareSlot s cls.toNat)).invalid = true) ∧ BusGave t bus 0 [] ∧ BusOnly bus s t ∧
      OnlyIn [.sec, .mgmt] s t) ∧
    (∀ u c, busServes s = true → moduleState s ≠ 2 → s.sec.update = some u → u.bus = bus → u.cls = some c → c.toNat ≤ 4 →
      ∃ t, exec (.verifyComplete bus) s = .next t ∧
      (headerOk s c.toNat (updateImage u) = true → rolledBack s c.toNat (updateImage u) = false →
        (c.toNat = 4 → (fuseBody s (updateImage u)).isSome = true) →
        t.sec.update = some { u with verified := true } ∧ causeSet t 46 0 10 ∧
        (c.toNat ≤ 2 → look {} t.sec.slots (spareSlot s c.toNat) = ⟨updateImage u, false⟩) ∧ BusGave t bus 0 []) ∧
      (headerOk s c.toNat (updateImage u) = false ∨ c.toNat = 4 ∧ fuseBody s (updateImage u) = none → t.sec = s.sec ∧ causeSet t 46 0 2 ∧ BusGave t bus 1 []) ∧
      (headerOk s c.toNat (updateImage u) = true → rolledBack s c.toNat (updateImage u) = true →
        t.sec = s.sec ∧ causeSet t 46 0 2 ∧ causeSet t 46 0 3 ∧ BusGave t bus 1 []) ∧ BusOnly bus s t ∧ OnlyIn [.regs, .sec, .mgmt, .log] s t) ∧
    (∀ u c, busServes s = true → s.sec.update = some u → u.bus = bus → u.verified = true → u.cls = some c → c.toNat = 1 ∨ c.toNat = 2 →
      ∃ t, exec (.activateFirmware bus) s = .next t ∧ t.sec.update = none ∧ c ∈ t.sec.staged ∧ getField t secStatusOff 5 1 = 1 ∧
      (∀ comp, activeSlot t comp = activeSlot s comp) ∧ BusGave t bus 0 [] ∧ RegsOnly [secStatusOff] s t ∧ BusOnly bus s t ∧
      OnlyIn [.regs, .sec, .mgmt] s t) ∧
    (∀ u l, busServes s = true → s.sec.update = some u → u.bus = bus → u.verified = true → u.cls = some 3 → l = (updateImage u).drop 7920 →
      ∃ t, exec (.activateFirmware bus) s = .next t ∧ t.sec.update = none ∧ BusGave t bus 0 [] ∧
      (stage s = 8 → stageState s = 0 → t.sec.stagedLicence = some l ∧ t.sec.licence = s.sec.licence) ∧
      (¬ (stage s = 8 ∧ stageState s = 0) → licenceSound s l = true → storedIssue s < fieldAt l 24 4 →
        t.sec.licence = l ∧ reg t (secBase + 0xC) = BitVec.ofNat 32 (mergedFeatures s (fieldAt l 28 4)) ∧ causeSet t 46 0 4) ∧
      (¬ (stage s = 8 ∧ stageState s = 0) → licenceSound s l = false ∨ fieldAt l 24 4 ≤ storedIssue s →
        t.sec.licence = s.sec.licence ∧ reg t (secBase + 0xC) = reg s (secBase + 0xC) ∧ causeSet t 46 0 5)) ∧
    (∀ u m, busServes s = true → s.sec.update = some u → u.bus = bus → u.verified = true → u.cls = some 4 → fuseBody s (updateImage u) = some m →
      ∃ t, exec (.activateFirmware bus) s = .next t ∧ t.sec.update = none ∧ t.bring.fuses = m ∧ BusGave t bus 0 [] ∧
      BusOnly bus s t ∧ OnlyIn [.sec, .bring, .mgmt] s t) ∧
    (∀ first count, busServes s = true → ∃ t, exec (.logRead bus first count) s = .next t ∧
      BusGave t bus 0 (((s.log.recs.drop first).take count).map logBytes).flatten ∧ BusOnly bus s t ∧ OnlyIn [.mgmt] s t) ∧
    (∀ k d, busServes s = true → s.log.dumps[k]? = some d → ∃ t, exec (.dumpRead bus k) s = .next t ∧ BusGave t bus 0 (dumpFile d) ∧
      t.log.dumps[k]? = some { d with read := true } ∧ t.log.recs = s.log.recs ∧ BusOnly bus s t ∧ OnlyIn [.log, .mgmt] s t) ∧
    (busServes s = true → ∃ t, exec (.topologyRead bus) s = .next t ∧ BusGave t bus 0 s.bring.topology ∧ BusOnly bus s t ∧ OnlyIn [.mgmt] s t) ∧
    (busServes s = true → ∃ t b, exec (.sensorDetail bus) s = .next t ∧ BusGave t bus 0 b ∧ BusOnly bus s t ∧ OnlyIn [.mgmt] s t) ∧
    (∀ n x, busServes s = true → sensorValue s n = some x → ∃ t, exec (.getSensorReading bus n) s = .next t ∧
      BusGave t bus 0 (leBytes 4 (BitVec.ofInt 32 x).toNat) ∧ BusOnly bus s t ∧ OnlyIn [.mgmt] s t) ∧
    (∀ eid, busServes s = true → ∃ t, exec (.setEndpointId bus eid) s = .next t ∧ (t.bus bus).eid = eid ∧ BusGave t bus 0 [] ∧
      BusOnly bus s t ∧ OnlyIn [.mgmt] s t)
end

