-- ==== Sys2Proof/Laws/Sparse.lean ====
section
/-! SUPPORT. Laws of the sparse maps: a read after a write, and that every operation keeps the canonical form. -/

namespace Sys2Proof.Machine

open Sys2Proof

variable {α : Type}

/-! ## Reading after writing -/

theorem look_dropKey (d : α) (m : SMap α) (i j : Nat) :
    look d (dropKey m i) j = if j = i then d else look d m j := by
  induction m with
  | nil => simp [dropKey, look]
  | cons p r ih =>
    obtain ⟨k, v⟩ := p
    by_cases h : i = k
    · subst h
      by_cases hj : j = i
      · subst hj
        simpa [dropKey] using ih
      · simp [dropKey, look, ih, hj]
    · by_cases hj : j = k
      · subst hj
        simp [dropKey, look, h, Ne.symm h]
      · simp [dropKey, look, h, hj, ih]

theorem look_mem {α : Type} (d : α) (m : SMap α) (k : Nat) : look d m k = d ∨ (k, look d m k) ∈ m := by
  induction m with
  | nil => exact .inl rfl
  | cons p r ih =>
    obtain ⟨a, v⟩ := p
    simp only [look]
    split
    · rename_i h; subst h; exact .inr (by simp)
    · exact ih.imp id (List.mem_cons_of_mem _)

theorem look_put [DecidableEq α] (d : α) (m : SMap α) (i j : Nat) (x : α) :
    look d (put d m i x) j = if j = i then x else look d m j := by
  induction m with
  | nil => by_cases h : x = d <;> by_cases hj : j = i <;> simp [put, look, h, hj]
  | cons p r ih =>
    obtain ⟨k, v⟩ := p
    by_cases hlt : i < k
    · by_cases h : x = d
      · by_cases hj : j = k
        · subst hj
          simp [put, look, hlt, h, Nat.ne_of_gt hlt]
        · simp [put, look, hlt, h, hj, look_dropKey]
      · simp [put, look, hlt, h]
    · by_cases hik : i = k
      · subst hik
        by_cases h : x = d
        · by_cases hj : j = i <;> simp [put, look, h, hj, look_dropKey]
        · by_cases hj : j = i <;> simp [put, look, h, hj]
      · by_cases hj : j = k
        · subst hj
          simp [put, look, hlt, hik, Ne.symm hik]
        · simp [put, look, hlt, hik, hj, ih]

@[simp] theorem look_put_same [DecidableEq α] (d : α) (m : SMap α) (i : Nat) (x : α) :
    look d (put d m i x) i = x := by simp [look_put]

theorem look_put_other [DecidableEq α] (d : α) (m : SMap α) {i j : Nat} (x : α) (h : j ≠ i) :
    look d (put d m i x) j = look d m j := by simp [look_put, h]

theorem look_upd [DecidableEq α] (d : α) (m : SMap α) (i j : Nat) (g : α → α) :
    look d (upd d m i g) j = if j = i then g (look d m i) else look d m j := by simp [upd, look_put]

theorem look_putList [DecidableEq α] (d : α) (l : List α) (m : SMap α) (i j : Nat) :
    look d (putList d m i l) j = if h : i ≤ j ∧ j < i + l.length then l[j - i]'(by omega) else look d m j := by
  induction l generalizing m i with
  | nil => simp [putList] <;> omega
  | cons x r ih =>
    rw [putList, ih, look_put]
    by_cases hj : j = i
    · subst hj
      rw [dif_neg (by omega), if_pos rfl, dif_pos (by simp)]
      simp
    · by_cases h : i + 1 ≤ j ∧ j < i + 1 + r.length
      · have h' : i ≤ j ∧ j < i + (x :: r).length := by simp; omega
        obtain ⟨n, rfl⟩ : ∃ n, j = i + 1 + n := ⟨j - (i + 1), by omega⟩
        rw [dif_pos h, dif_pos h']
        have e1 : i + 1 + n - (i + 1) = n := by omega
        have e2 : i + 1 + n - i = n + 1 := by omega
        simp [e1, e2]
      · have h' : ¬(i ≤ j ∧ j < i + (x :: r).length) := by simp; omega
        rw [dif_neg h, dif_neg h', if_neg hj]

theorem look_putList_outside [DecidableEq α] (d : α) (l : List α) (m : SMap α) (i j : Nat)
    (h : j < i ∨ i + l.length ≤ j) : look d (putList d m i l) j = look d m j := by
  rw [look_putList, dif_neg (by omega)]

/-- What was stored at consecutive keys is read back. -/
theorem lookRange_putList [DecidableEq α] (d : α) (l : List α) (m : SMap α) (i : Nat) :
    lookRange d (putList d m i l) i l.length = l := by
  apply List.ext_getElem (by simp [lookRange])
  intro k h1 h2
  simp [lookRange, look_putList, h2]

theorem look_putRange [DecidableEq α] (d : α) (m : SMap α) (base : Nat) (f : Nat → α) (n j : Nat) :
    look d (putRange d m base f n) j = if base ≤ j ∧ j < base + n then f (j - base) else look d m j := by
  induction n with
  | zero => simp [putRange] <;> omega
  | succ n ih =>
    rw [putRange, look_put, ih]
    by_cases hj : j = base + n
    · subst hj; simp
    · by_cases h : base ≤ j ∧ j < base + n
      · rw [if_neg hj, if_pos h, if_pos (by omega)]
      · rw [if_neg hj, if_neg h, if_neg (by omega)]

/-! ## The canonical form -/

theorem wfFrom_mono [DecidableEq α] {d : α} {lo lo' : Nat} {m : SMap α} (h : lo ≤ lo')
    (hw : wfFrom d lo' m = true) : wfFrom d lo m = true := by
  cases m with
  | nil => rfl
  | cons p r =>
    obtain ⟨k, v⟩ := p
    simp only [wfFrom, Bool.and_eq_true, decide_eq_true_eq] at hw ⊢
    exact ⟨⟨by omega, hw.1.2⟩, hw.2⟩

theorem wfFrom_cons [DecidableEq α] {d : α} {lo k : Nat} {v : α} {r : SMap α} :
    wfFrom d lo ((k, v) :: r) = true ↔ lo ≤ k ∧ v ≠ d ∧ wfFrom d (k + 1) r = true := by
  simp [wfFrom, and_assoc]

theorem wfFrom_dropKey [DecidableEq α] {d : α} {m : SMap α} {lo : Nat} (i : Nat)
    (h : wfFrom d lo m = true) : wfFrom d lo (dropKey m i) = true := by
  induction m generalizing lo with
  | nil => rfl
  | cons p r ih =>
    obtain ⟨k, v⟩ := p
    rw [wfFrom_cons] at h
    by_cases hk : i = k
    · simpa [dropKey, hk] using wfFrom_mono (by omega) (ih h.2.2)
    · simpa [dropKey, hk, wfFrom_cons] using ⟨h.1, h.2.1, ih h.2.2⟩

theorem wfFrom_put [DecidableEq α] {d : α} {m : SMap α} {lo : Nat} (i : Nat) (x : α) (hi : lo ≤ i)
    (h : wfFrom d lo m = true) : wfFrom d lo (put d m i x) = true := by
  induction m generalizing lo with
  | nil => by_cases hx : x = d <;> simp [put, hx, wfFrom, hi]
  | cons p r ih =>
    obtain ⟨k, v⟩ := p
    rw [wfFrom_cons] at h
    by_cases hlt : i < k
    · by_cases hx : x = d
      · simpa [put, hlt, hx, wfFrom_cons] using ⟨h.1, h.2.1, wfFrom_dropKey i h.2.2⟩
      · simp only [put, hlt, hx, if_true, if_false, wfFrom_cons]
        exact ⟨hi, hx, by omega, h.2.1, h.2.2⟩
    · by_cases hik : i = k
      · subst hik
        by_cases hx : x = d
        · simpa [put, hx] using wfFrom_mono (by omega) (wfFrom_dropKey i h.2.2)
        · simp only [put, hlt, hx, if_true, if_false, wfFrom_cons]
          exact ⟨hi, hx, h.2.2⟩
      · simp only [put, hlt, hik, if_false, wfFrom_cons]
        exact ⟨h.1, h.2.1, ih (by omega) h.2.2⟩

theorem wfFrom_filter [DecidableEq α] {d : α} {m : SMap α} {lo : Nat} (q : Nat × α → Bool)
    (h : wfFrom d lo m = true) : wfFrom d lo (m.filter q) = true := by
  induction m generalizing lo with
  | nil => rfl
  | cons p r ih =>
    obtain ⟨k, v⟩ := p
    rw [wfFrom_cons] at h
    by_cases hq : q (k, v) = true
    · rw [List.filter_cons_of_pos hq, wfFrom_cons]
      exact ⟨h.1, h.2.1, ih h.2.2⟩
    · rw [List.filter_cons_of_neg hq]
      exact wfFrom_mono (by omega) (ih h.2.2)

theorem put_wf [DecidableEq α] {d : α} {m : SMap α} (i : Nat) (x : α) (h : SMap.wf d m = true) :
    SMap.wf d (put d m i x) = true := wfFrom_put i x (Nat.zero_le i) h

theorem upd_wf [DecidableEq α] {d : α} {m : SMap α} (i : Nat) (g : α → α) (h : SMap.wf d m = true) :
    SMap.wf d (upd d m i g) = true := put_wf i _ h

theorem putList_wf [DecidableEq α] {d : α} {m : SMap α} (i : Nat) (l : List α) (h : SMap.wf d m = true) :
    SMap.wf d (putList d m i l) = true := by
  induction l generalizing m i with
  | nil => exact h
  | cons x r ih => exact ih (i + 1) (put_wf i x h)

theorem putRange_wf [DecidableEq α] {d : α} {m : SMap α} (base : Nat) (f : Nat → α) (n : Nat)
    (h : SMap.wf d m = true) : SMap.wf d (putRange d m base f n) = true := by
  induction n with
  | zero => exact h
  | succ n ih => exact put_wf _ _ ih

theorem filter_wf [DecidableEq α] {d : α} {m : SMap α} (q : Nat × α → Bool) (h : SMap.wf d m = true) :
    SMap.wf d (m.filter q) = true := wfFrom_filter q h

/-- Equal memories are equal data: two maps in canonical form that read the same are the same. -/
theorem wfFrom_look_below [DecidableEq α] {d : α} {m : SMap α} {lo i : Nat} (h : wfFrom d lo m = true)
    (hi : i < lo) : look d m i = d := by
  induction m generalizing lo with
  | nil => rfl
  | cons p r ih =>
    obtain ⟨k, v⟩ := p
    rw [wfFrom_cons] at h
    rw [look, if_neg (by omega), ih h.2.2 (by omega)]

theorem wfFrom_ext [DecidableEq α] {d : α} {m m' : SMap α} {lo lo' : Nat} (h : wfFrom d lo m = true)
    (h' : wfFrom d lo' m' = true) (he : ∀ i, look d m i = look d m' i) : m = m' := by
  induction m generalizing m' lo lo' with
  | nil =>
    cases m' with
    | nil => rfl
    | cons p r =>
      obtain ⟨k, v⟩ := p
      rw [wfFrom_cons] at h'
      have := he k
      simp [look] at this
      exact absurd this.symm h'.2.1
  | cons p r ih =>
    obtain ⟨k, v⟩ := p
    rw [wfFrom_cons] at h
    cases m' with
    | nil =>
      have := he k
      simp [look] at this
      exact absurd this h.2.1
    | cons p' r' =>
      obtain ⟨k', v'⟩ := p'
      rw [wfFrom_cons] at h'
      have hk : k = k' := by
        rcases Nat.lt_trichotomy k k' with hlt | heq | hgt
        · have := he k
          rw [look, if_pos rfl, look, if_neg (by omega), wfFrom_look_below h'.2.2 (by omega)] at this
          exact absurd this h.2.1
        · exact heq
        · have := he k'
          rw [look, if_neg (by omega), wfFrom_look_below h.2.2 (by omega), look, if_pos rfl] at this
          exact absurd this.symm h'.2.1
      subst hk
      have hv : v = v' := by simpa [look] using he k
      subst hv
      congr 1
      refine ih h.2.2 h'.2.2 fun i => ?_
      by_cases hi : i = k
      · subst hi
        rw [wfFrom_look_below h.2.2 (by omega), wfFrom_look_below h'.2.2 (by omega)]
      · simpa [look, hi] using he i

theorem wf_ext [DecidableEq α] {d : α} {m m' : SMap α} (h : SMap.wf d m = true) (h' : SMap.wf d m' = true)
    (he : ∀ i, look d m i = look d m' i) : m = m' := wfFrom_ext h h' he

end Sys2Proof.Machine
end

