-- ==== Sys2Proof/Laws/Regs.lean ====
section
/-! SUPPORT. Registers, fields and byte strings: what a read gives after a write, and lengths. -/

namespace Sys2Proof.Machine

open Sys2Proof

/-! ## Lengths of byte strings -/

@[simp] theorem length_zeros (n : Nat) : (zeros n).length = n := by simp [zeros]

@[simp] theorem length_slice (b : Bytes) (off n : Nat) : (slice b off n).length = n := by
  simp [slice] <;> omega

/-! ## Registers -/

theorem reg_setReg (s : State) (o p : Nat) (x : Word) : reg (setReg s o x) p = if p = o then x else reg s p := by
  unfold reg setReg
  by_cases h : p = o
  · subst h; simp [BitVec.xor_assoc]
  · simp [h, look_put_other]

@[simp] theorem reg_setReg_same (s : State) (o : Nat) (x : Word) : reg (setReg s o x) o = x := by simp [reg_setReg]

theorem reg_setReg_other (s : State) {o p : Nat} (x : Word) (h : p ≠ o) : reg (setReg s o x) p = reg s p := by
  simp [reg_setReg, h]

@[simp] theorem reg_noteEvent (s : State) (o p : Nat) (g : Word → Word) : reg (noteEvent s o g) p = reg s p := rfl

theorem reg_orReg (s : State) (o p : Nat) (m : Word) : reg (orReg s o m) p = if p = o then reg s o ||| m else reg s p := by
  simp [orReg, reg_setReg]

theorem reg_putField_other (s : State) {o p : Nat} (lo n x : Nat) (h : p ≠ o) : reg (putField s o lo n x) p = reg s p := by
  simp [putField, reg_setReg, h]

end Sys2Proof.Machine
end

