-- ==== Sys2Proof/Laws/State.lean ====
section
/-! SUPPORT. Laws of State: one lemma for each field and each update of a part, and what each part reads as after an update. -/

namespace Sys2Proof.Machine

open Sys2Proof

namespace State

variable (s : State)

/-! ## setCore -/

@[simp] theorem setCore_pending (c : Nat) (k : Core) : (s.setCore c k).pending = s.pending := rfl
@[simp] theorem setCore_free (c : Nat) (k : Core) : (s.setCore c k).free = s.free := rfl
@[simp] theorem setCore_cc (c : Nat) (k : Core) : (s.setCore c k).cc = s.cc := rfl
@[simp] theorem setCore_ccPhase (c : Nat) (k : Core) : (s.setCore c k).ccPhase = s.ccPhase := rfl
@[simp] theorem setCore_tide (c : Nat) (k : Core) : (s.setCore c k).tide = s.tide := rfl
@[simp] theorem setCore_regs (c : Nat) (k : Core) : (s.setCore c k).regs = s.regs := rfl
@[simp] theorem setCore_events (c : Nat) (k : Core) : (s.setCore c k).events = s.events := rfl
@[simp] theorem setCore_readData (c : Nat) (k : Core) : (s.setCore c k).readData = s.readData := rfl
@[simp] theorem setCore_cores (c : Nat) (k : Core) : (s.setCore c k).cores = put {} s.cores c k := rfl
@[simp] theorem setCore_routers (c : Nat) (k : Core) : (s.setCore c k).routers = s.routers := rfl
@[simp] theorem setCore_engines (c : Nat) (k : Core) : (s.setCore c k).engines = s.engines := rfl
@[simp] theorem setCore_mem (c : Nat) (k : Core) : (s.setCore c k).mem = s.mem := rfl
@[simp] theorem setCore_ueBlocks (c : Nat) (k : Core) : (s.setCore c k).ueBlocks = s.ueBlocks := rfl
@[simp] theorem setCore_host (c : Nat) (k : Core) : (s.setCore c k).host = s.host := rfl
@[simp] theorem setCore_segs (c : Nat) (k : Core) : (s.setCore c k).segs = s.segs := rfl
@[simp] theorem setCore_sets (c : Nat) (k : Core) : (s.setCore c k).sets = s.sets := rfl
@[simp] theorem setCore_parts (c : Nat) (k : Core) : (s.setCore c k).parts = s.parts := rfl
@[simp] theorem setCore_voyages (c : Nat) (k : Core) : (s.setCore c k).voyages = s.voyages := rfl
@[simp] theorem setCore_hm (c : Nat) (k : Core) : (s.setCore c k).hm = s.hm := rfl
@[simp] theorem setCore_fabric (c : Nat) (k : Core) : (s.setCore c k).fabric = s.fabric := rfl
@[simp] theorem setCore_ports (c : Nat) (k : Core) : (s.setCore c k).ports = s.ports := rfl
@[simp] theorem setCore_sites (c : Nat) (k : Core) : (s.setCore c k).sites = s.sites := rfl
@[simp] theorem setCore_power (c : Nat) (k : Core) : (s.setCore c k).power = s.power := rfl
@[simp] theorem setCore_thermal (c : Nat) (k : Core) : (s.setCore c k).thermal = s.thermal := rfl
@[simp] theorem setCore_sec (c : Nat) (k : Core) : (s.setCore c k).sec = s.sec := rfl
@[simp] theorem setCore_mgmt (c : Nat) (k : Core) : (s.setCore c k).mgmt = s.mgmt := rfl
@[simp] theorem setCore_log (c : Nat) (k : Core) : (s.setCore c k).log = s.log := rfl
@[simp] theorem setCore_bring (c : Nat) (k : Core) : (s.setCore c k).bring = s.bring := rfl

/-! ## setRouter -/

@[simp] theorem setRouter_pending (r : Nat) (k : Router) : (s.setRouter r k).pending = s.pending := rfl
@[simp] theorem setRouter_free (r : Nat) (k : Router) : (s.setRouter r k).free = s.free := rfl
@[simp] theorem setRouter_cc (r : Nat) (k : Router) : (s.setRouter r k).cc = s.cc := rfl
@[simp] theorem setRouter_ccPhase (r : Nat) (k : Router) : (s.setRouter r k).ccPhase = s.ccPhase := rfl
@[simp] theorem setRouter_tide (r : Nat) (k : Router) : (s.setRouter r k).tide = s.tide := rfl
@[simp] theorem setRouter_regs (r : Nat) (k : Router) : (s.setRouter r k).regs = s.regs := rfl
@[simp] theorem setRouter_events (r : Nat) (k : Router) : (s.setRouter r k).events = s.events := rfl
@[simp] theorem setRouter_readData (r : Nat) (k : Router) : (s.setRouter r k).readData = s.readData := rfl
@[simp] theorem setRouter_cores (r : Nat) (k : Router) : (s.setRouter r k).cores = s.cores := rfl
@[simp] theorem setRouter_routers (r : Nat) (k : Router) : (s.setRouter r k).routers = put {} s.routers r k := rfl
@[simp] theorem setRouter_engines (r : Nat) (k : Router) : (s.setRouter r k).engines = s.engines := rfl
@[simp] theorem setRouter_mem (r : Nat) (k : Router) : (s.setRouter r k).mem = s.mem := rfl
@[simp] theorem setRouter_ueBlocks (r : Nat) (k : Router) : (s.setRouter r k).ueBlocks = s.ueBlocks := rfl
@[simp] theorem setRouter_host (r : Nat) (k : Router) : (s.setRouter r k).host = s.host := rfl
@[simp] theorem setRouter_segs (r : Nat) (k : Router) : (s.setRouter r k).segs = s.segs := rfl
@[simp] theorem setRouter_sets (r : Nat) (k : Router) : (s.setRouter r k).sets = s.sets := rfl
@[simp] theorem setRouter_parts (r : Nat) (k : Router) : (s.setRouter r k).parts = s.parts := rfl
@[simp] theorem setRouter_voyages (r : Nat) (k : Router) : (s.setRouter r k).voyages = s.voyages := rfl
@[simp] theorem setRouter_hm (r : Nat) (k : Router) : (s.setRouter r k).hm = s.hm := rfl
@[simp] theorem setRouter_fabric (r : Nat) (k : Router) : (s.setRouter r k).fabric = s.fabric := rfl
@[simp] theorem setRouter_ports (r : Nat) (k : Router) : (s.setRouter r k).ports = s.ports := rfl
@[simp] theorem setRouter_sites (r : Nat) (k : Router) : (s.setRouter r k).sites = s.sites := rfl
@[simp] theorem setRouter_power (r : Nat) (k : Router) : (s.setRouter r k).power = s.power := rfl
@[simp] theorem setRouter_thermal (r : Nat) (k : Router) : (s.setRouter r k).thermal = s.thermal := rfl
@[simp] theorem setRouter_sec (r : Nat) (k : Router) : (s.setRouter r k).sec = s.sec := rfl
@[simp] theorem setRouter_mgmt (r : Nat) (k : Router) : (s.setRouter r k).mgmt = s.mgmt := rfl
@[simp] theorem setRouter_log (r : Nat) (k : Router) : (s.setRouter r k).log = s.log := rfl
@[simp] theorem setRouter_bring (r : Nat) (k : Router) : (s.setRouter r k).bring = s.bring := rfl

/-! ## setEngine -/

@[simp] theorem setEngine_pending (m : Nat) (k : Engine) : (s.setEngine m k).pending = s.pending := rfl
@[simp] theorem setEngine_free (m : Nat) (k : Engine) : (s.setEngine m k).free = s.free := rfl
@[simp] theorem setEngine_cc (m : Nat) (k : Engine) : (s.setEngine m k).cc = s.cc := rfl
@[simp] theorem setEngine_ccPhase (m : Nat) (k : Engine) : (s.setEngine m k).ccPhase = s.ccPhase := rfl
@[simp] theorem setEngine_tide (m : Nat) (k : Engine) : (s.setEngine m k).tide = s.tide := rfl
@[simp] theorem setEngine_regs (m : Nat) (k : Engine) : (s.setEngine m k).regs = s.regs := rfl
@[simp] theorem setEngine_events (m : Nat) (k : Engine) : (s.setEngine m k).events = s.events := rfl
@[simp] theorem setEngine_readData (m : Nat) (k : Engine) : (s.setEngine m k).readData = s.readData := rfl
@[simp] theorem setEngine_cores (m : Nat) (k : Engine) : (s.setEngine m k).cores = s.cores := rfl
@[simp] theorem setEngine_routers (m : Nat) (k : Engine) : (s.setEngine m k).routers = s.routers := rfl
@[simp] theorem setEngine_engines (m : Nat) (k : Engine) : (s.setEngine m k).engines = put {} s.engines m k := rfl
@[simp] theorem setEngine_mem (m : Nat) (k : Engine) : (s.setEngine m k).mem = s.mem := rfl
@[simp] theorem setEngine_ueBlocks (m : Nat) (k : Engine) : (s.setEngine m k).ueBlocks = s.ueBlocks := rfl
@[simp] theorem setEngine_host (m : Nat) (k : Engine) : (s.setEngine m k).host = s.host := rfl
@[simp] theorem setEngine_segs (m : Nat) (k : Engine) : (s.setEngine m k).segs = s.segs := rfl
@[simp] theorem setEngine_sets (m : Nat) (k : Engine) : (s.setEngine m k).sets = s.sets := rfl
@[simp] theorem setEngine_parts (m : Nat) (k : Engine) : (s.setEngine m k).parts = s.parts := rfl
@[simp] theorem setEngine_voyages (m : Nat) (k : Engine) : (s.setEngine m k).voyages = s.voyages := rfl
@[simp] theorem setEngine_hm (m : Nat) (k : Engine) : (s.setEngine m k).hm = s.hm := rfl
@[simp] theorem setEngine_fabric (m : Nat) (k : Engine) : (s.setEngine m k).fabric = s.fabric := rfl
@[simp] theorem setEngine_ports (m : Nat) (k : Engine) : (s.setEngine m k).ports = s.ports := rfl
@[simp] theorem setEngine_sites (m : Nat) (k : Engine) : (s.setEngine m k).sites = s.sites := rfl
@[simp] theorem setEngine_power (m : Nat) (k : Engine) : (s.setEngine m k).power = s.power := rfl
@[simp] theorem setEngine_thermal (m : Nat) (k : Engine) : (s.setEngine m k).thermal = s.thermal := rfl
@[simp] theorem setEngine_sec (m : Nat) (k : Engine) : (s.setEngine m k).sec = s.sec := rfl
@[simp] theorem setEngine_mgmt (m : Nat) (k : Engine) : (s.setEngine m k).mgmt = s.mgmt := rfl
@[simp] theorem setEngine_log (m : Nat) (k : Engine) : (s.setEngine m k).log = s.log := rfl
@[simp] theorem setEngine_bring (m : Nat) (k : Engine) : (s.setEngine m k).bring = s.bring := rfl

/-! ## setPort -/

@[simp] theorem setPort_pending (p : Nat) (k : Port) : (s.setPort p k).pending = s.pending := rfl
@[simp] theorem setPort_free (p : Nat) (k : Port) : (s.setPort p k).free = s.free := rfl
@[simp] theorem setPort_cc (p : Nat) (k : Port) : (s.setPort p k).cc = s.cc := rfl
@[simp] theorem setPort_ccPhase (p : Nat) (k : Port) : (s.setPort p k).ccPhase = s.ccPhase := rfl
@[simp] theorem setPort_tide (p : Nat) (k : Port) : (s.setPort p k).tide = s.tide := rfl
@[simp] theorem setPort_regs (p : Nat) (k : Port) : (s.setPort p k).regs = s.regs := rfl
@[simp] theorem setPort_events (p : Nat) (k : Port) : (s.setPort p k).events = s.events := rfl
@[simp] theorem setPort_readData (p : Nat) (k : Port) : (s.setPort p k).readData = s.readData := rfl
@[simp] theorem setPort_cores (p : Nat) (k : Port) : (s.setPort p k).cores = s.cores := rfl
@[simp] theorem setPort_routers (p : Nat) (k : Port) : (s.setPort p k).routers = s.routers := rfl
@[simp] theorem setPort_engines (p : Nat) (k : Port) : (s.setPort p k).engines = s.engines := rfl
@[simp] theorem setPort_mem (p : Nat) (k : Port) : (s.setPort p k).mem = s.mem := rfl
@[simp] theorem setPort_ueBlocks (p : Nat) (k : Port) : (s.setPort p k).ueBlocks = s.ueBlocks := rfl
@[simp] theorem setPort_host (p : Nat) (k : Port) : (s.setPort p k).host = s.host := rfl
@[simp] theorem setPort_segs (p : Nat) (k : Port) : (s.setPort p k).segs = s.segs := rfl
@[simp] theorem setPort_sets (p : Nat) (k : Port) : (s.setPort p k).sets = s.sets := rfl
@[simp] theorem setPort_parts (p : Nat) (k : Port) : (s.setPort p k).parts = s.parts := rfl
@[simp] theorem setPort_voyages (p : Nat) (k : Port) : (s.setPort p k).voyages = s.voyages := rfl
@[simp] theorem setPort_hm (p : Nat) (k : Port) : (s.setPort p k).hm = s.hm := rfl
@[simp] theorem setPort_fabric (p : Nat) (k : Port) : (s.setPort p k).fabric = s.fabric := rfl
@[simp] theorem setPort_ports (p : Nat) (k : Port) : (s.setPort p k).ports = put {} s.ports p k := rfl
@[simp] theorem setPort_sites (p : Nat) (k : Port) : (s.setPort p k).sites = s.sites := rfl
@[simp] theorem setPort_power (p : Nat) (k : Port) : (s.setPort p k).power = s.power := rfl
@[simp] theorem setPort_thermal (p : Nat) (k : Port) : (s.setPort p k).thermal = s.thermal := rfl
@[simp] theorem setPort_sec (p : Nat) (k : Port) : (s.setPort p k).sec = s.sec := rfl
@[simp] theorem setPort_mgmt (p : Nat) (k : Port) : (s.setPort p k).mgmt = s.mgmt := rfl
@[simp] theorem setPort_log (p : Nat) (k : Port) : (s.setPort p k).log = s.log := rfl
@[simp] theorem setPort_bring (p : Nat) (k : Port) : (s.setPort p k).bring = s.bring := rfl

/-! ## setSite -/

@[simp] theorem setSite_pending (i : Nat) (k : OpenSite) : (s.setSite i k).pending = s.pending := rfl
@[simp] theorem setSite_free (i : Nat) (k : OpenSite) : (s.setSite i k).free = s.free := rfl
@[simp] theorem setSite_cc (i : Nat) (k : OpenSite) : (s.setSite i k).cc = s.cc := rfl
@[simp] theorem setSite_ccPhase (i : Nat) (k : OpenSite) : (s.setSite i k).ccPhase = s.ccPhase := rfl
@[simp] theorem setSite_tide (i : Nat) (k : OpenSite) : (s.setSite i k).tide = s.tide := rfl
@[simp] theorem setSite_regs (i : Nat) (k : OpenSite) : (s.setSite i k).regs = s.regs := rfl
@[simp] theorem setSite_events (i : Nat) (k : OpenSite) : (s.setSite i k).events = s.events := rfl
@[simp] theorem setSite_readData (i : Nat) (k : OpenSite) : (s.setSite i k).readData = s.readData := rfl
@[simp] theorem setSite_cores (i : Nat) (k : OpenSite) : (s.setSite i k).cores = s.cores := rfl
@[simp] theorem setSite_routers (i : Nat) (k : OpenSite) : (s.setSite i k).routers = s.routers := rfl
@[simp] theorem setSite_engines (i : Nat) (k : OpenSite) : (s.setSite i k).engines = s.engines := rfl
@[simp] theorem setSite_mem (i : Nat) (k : OpenSite) : (s.setSite i k).mem = s.mem := rfl
@[simp] theorem setSite_ueBlocks (i : Nat) (k : OpenSite) : (s.setSite i k).ueBlocks = s.ueBlocks := rfl
@[simp] theorem setSite_host (i : Nat) (k : OpenSite) : (s.setSite i k).host = s.host := rfl
@[simp] theorem setSite_segs (i : Nat) (k : OpenSite) : (s.setSite i k).segs = s.segs := rfl
@[simp] theorem setSite_sets (i : Nat) (k : OpenSite) : (s.setSite i k).sets = s.sets := rfl
@[simp] theorem setSite_parts (i : Nat) (k : OpenSite) : (s.setSite i k).parts = s.parts := rfl
@[simp] theorem setSite_voyages (i : Nat) (k : OpenSite) : (s.setSite i k).voyages = s.voyages := rfl
@[simp] theorem setSite_hm (i : Nat) (k : OpenSite) : (s.setSite i k).hm = s.hm := rfl
@[simp] theorem setSite_fabric (i : Nat) (k : OpenSite) : (s.setSite i k).fabric = s.fabric := rfl
@[simp] theorem setSite_ports (i : Nat) (k : OpenSite) : (s.setSite i k).ports = s.ports := rfl
@[simp] theorem setSite_sites (i : Nat) (k : OpenSite) : (s.setSite i k).sites = put {} s.sites i k := rfl
@[simp] theorem setSite_power (i : Nat) (k : OpenSite) : (s.setSite i k).power = s.power := rfl
@[simp] theorem setSite_thermal (i : Nat) (k : OpenSite) : (s.setSite i k).thermal = s.thermal := rfl
@[simp] theorem setSite_sec (i : Nat) (k : OpenSite) : (s.setSite i k).sec = s.sec := rfl
@[simp] theorem setSite_mgmt (i : Nat) (k : OpenSite) : (s.setSite i k).mgmt = s.mgmt := rfl
@[simp] theorem setSite_log (i : Nat) (k : OpenSite) : (s.setSite i k).log = s.log := rfl
@[simp] theorem setSite_bring (i : Nat) (k : OpenSite) : (s.setSite i k).bring = s.bring := rfl

/-! ## setSeg -/

@[simp] theorem setSeg_pending (i : Nat) (k : SegRec) : (s.setSeg i k).pending = s.pending := rfl
@[simp] theorem setSeg_free (i : Nat) (k : SegRec) : (s.setSeg i k).free = s.free := rfl
@[simp] theorem setSeg_cc (i : Nat) (k : SegRec) : (s.setSeg i k).cc = s.cc := rfl
@[simp] theorem setSeg_ccPhase (i : Nat) (k : SegRec) : (s.setSeg i k).ccPhase = s.ccPhase := rfl
@[simp] theorem setSeg_tide (i : Nat) (k : SegRec) : (s.setSeg i k).tide = s.tide := rfl
@[simp] theorem setSeg_regs (i : Nat) (k : SegRec) : (s.setSeg i k).regs = s.regs := rfl
@[simp] theorem setSeg_events (i : Nat) (k : SegRec) : (s.setSeg i k).events = s.events := rfl
@[simp] theorem setSeg_readData (i : Nat) (k : SegRec) : (s.setSeg i k).readData = s.readData := rfl
@[simp] theorem setSeg_cores (i : Nat) (k : SegRec) : (s.setSeg i k).cores = s.cores := rfl
@[simp] theorem setSeg_routers (i : Nat) (k : SegRec) : (s.setSeg i k).routers = s.routers := rfl
@[simp] theorem setSeg_engines (i : Nat) (k : SegRec) : (s.setSeg i k).engines = s.engines := rfl
@[simp] theorem setSeg_mem (i : Nat) (k : SegRec) : (s.setSeg i k).mem = s.mem := rfl
@[simp] theorem setSeg_ueBlocks (i : Nat) (k : SegRec) : (s.setSeg i k).ueBlocks = s.ueBlocks := rfl
@[simp] theorem setSeg_host (i : Nat) (k : SegRec) : (s.setSeg i k).host = s.host := rfl
@[simp] theorem setSeg_segs (i : Nat) (k : SegRec) : (s.setSeg i k).segs = put {} s.segs i k := rfl
@[simp] theorem setSeg_sets (i : Nat) (k : SegRec) : (s.setSeg i k).sets = s.sets := rfl
@[simp] theorem setSeg_parts (i : Nat) (k : SegRec) : (s.setSeg i k).parts = s.parts := rfl
@[simp] theorem setSeg_voyages (i : Nat) (k : SegRec) : (s.setSeg i k).voyages = s.voyages := rfl
@[simp] theorem setSeg_hm (i : Nat) (k : SegRec) : (s.setSeg i k).hm = s.hm := rfl
@[simp] theorem setSeg_fabric (i : Nat) (k : SegRec) : (s.setSeg i k).fabric = s.fabric := rfl
@[simp] theorem setSeg_ports (i : Nat) (k : SegRec) : (s.setSeg i k).ports = s.ports := rfl
@[simp] theorem setSeg_sites (i : Nat) (k : SegRec) : (s.setSeg i k).sites = s.sites := rfl
@[simp] theorem setSeg_power (i : Nat) (k : SegRec) : (s.setSeg i k).power = s.power := rfl
@[simp] theorem setSeg_thermal (i : Nat) (k : SegRec) : (s.setSeg i k).thermal = s.thermal := rfl
@[simp] theorem setSeg_sec (i : Nat) (k : SegRec) : (s.setSeg i k).sec = s.sec := rfl
@[simp] theorem setSeg_mgmt (i : Nat) (k : SegRec) : (s.setSeg i k).mgmt = s.mgmt := rfl
@[simp] theorem setSeg_log (i : Nat) (k : SegRec) : (s.setSeg i k).log = s.log := rfl
@[simp] theorem setSeg_bring (i : Nat) (k : SegRec) : (s.setSeg i k).bring = s.bring := rfl

/-! ## setRset -/

@[simp] theorem setRset_pending (i : Nat) (k : Option RepSet) : (s.setRset i k).pending = s.pending := rfl
@[simp] theorem setRset_free (i : Nat) (k : Option RepSet) : (s.setRset i k).free = s.free := rfl
@[simp] theorem setRset_cc (i : Nat) (k : Option RepSet) : (s.setRset i k).cc = s.cc := rfl
@[simp] theorem setRset_ccPhase (i : Nat) (k : Option RepSet) : (s.setRset i k).ccPhase = s.ccPhase := rfl
@[simp] theorem setRset_tide (i : Nat) (k : Option RepSet) : (s.setRset i k).tide = s.tide := rfl
@[simp] theorem setRset_regs (i : Nat) (k : Option RepSet) : (s.setRset i k).regs = s.regs := rfl
@[simp] theorem setRset_events (i : Nat) (k : Option RepSet) : (s.setRset i k).events = s.events := rfl
@[simp] theorem setRset_readData (i : Nat) (k : Option RepSet) : (s.setRset i k).readData = s.readData := rfl
@[simp] theorem setRset_cores (i : Nat) (k : Option RepSet) : (s.setRset i k).cores = s.cores := rfl
@[simp] theorem setRset_routers (i : Nat) (k : Option RepSet) : (s.setRset i k).routers = s.routers := rfl
@[simp] theorem setRset_engines (i : Nat) (k : Option RepSet) : (s.setRset i k).engines = s.engines := rfl
@[simp] theorem setRset_mem (i : Nat) (k : Option RepSet) : (s.setRset i k).mem = s.mem := rfl
@[simp] theorem setRset_ueBlocks (i : Nat) (k : Option RepSet) : (s.setRset i k).ueBlocks = s.ueBlocks := rfl
@[simp] theorem setRset_host (i : Nat) (k : Option RepSet) : (s.setRset i k).host = s.host := rfl
@[simp] theorem setRset_segs (i : Nat) (k : Option RepSet) : (s.setRset i k).segs = s.segs := rfl
@[simp] theorem setRset_sets (i : Nat) (k : Option RepSet) : (s.setRset i k).sets = put none s.sets i k := rfl
@[simp] theorem setRset_parts (i : Nat) (k : Option RepSet) : (s.setRset i k).parts = s.parts := rfl
@[simp] theorem setRset_voyages (i : Nat) (k : Option RepSet) : (s.setRset i k).voyages = s.voyages := rfl
@[simp] theorem setRset_hm (i : Nat) (k : Option RepSet) : (s.setRset i k).hm = s.hm := rfl
@[simp] theorem setRset_fabric (i : Nat) (k : Option RepSet) : (s.setRset i k).fabric = s.fabric := rfl
@[simp] theorem setRset_ports (i : Nat) (k : Option RepSet) : (s.setRset i k).ports = s.ports := rfl
@[simp] theorem setRset_sites (i : Nat) (k : Option RepSet) : (s.setRset i k).sites = s.sites := rfl
@[simp] theorem setRset_power (i : Nat) (k : Option RepSet) : (s.setRset i k).power = s.power := rfl
@[simp] theorem setRset_thermal (i : Nat) (k : Option RepSet) : (s.setRset i k).thermal = s.thermal := rfl
@[simp] theorem setRset_sec (i : Nat) (k : Option RepSet) : (s.setRset i k).sec = s.sec := rfl
@[simp] theorem setRset_mgmt (i : Nat) (k : Option RepSet) : (s.setRset i k).mgmt = s.mgmt := rfl
@[simp] theorem setRset_log (i : Nat) (k : Option RepSet) : (s.setRset i k).log = s.log := rfl
@[simp] theorem setRset_bring (i : Nat) (k : Option RepSet) : (s.setRset i k).bring = s.bring := rfl

/-! ## setPart -/

@[simp] theorem setPart_pending (i : Nat) (k : Option Partition) : (s.setPart i k).pending = s.pending := rfl
@[simp] theorem setPart_free (i : Nat) (k : Option Partition) : (s.setPart i k).free = s.free := rfl
@[simp] theorem setPart_cc (i : Nat) (k : Option Partition) : (s.setPart i k).cc = s.cc := rfl
@[simp] theorem setPart_ccPhase (i : Nat) (k : Option Partition) : (s.setPart i k).ccPhase = s.ccPhase := rfl
@[simp] theorem setPart_tide (i : Nat) (k : Option Partition) : (s.setPart i k).tide = s.tide := rfl
@[simp] theorem setPart_regs (i : Nat) (k : Option Partition) : (s.setPart i k).regs = s.regs := rfl
@[simp] theorem setPart_events (i : Nat) (k : Option Partition) : (s.setPart i k).events = s.events := rfl
@[simp] theorem setPart_readData (i : Nat) (k : Option Partition) : (s.setPart i k).readData = s.readData := rfl
@[simp] theorem setPart_cores (i : Nat) (k : Option Partition) : (s.setPart i k).cores = s.cores := rfl
@[simp] theorem setPart_routers (i : Nat) (k : Option Partition) : (s.setPart i k).routers = s.routers := rfl
@[simp] theorem setPart_engines (i : Nat) (k : Option Partition) : (s.setPart i k).engines = s.engines := rfl
@[simp] theorem setPart_mem (i : Nat) (k : Option Partition) : (s.setPart i k).mem = s.mem := rfl
@[simp] theorem setPart_ueBlocks (i : Nat) (k : Option Partition) : (s.setPart i k).ueBlocks = s.ueBlocks := rfl
@[simp] theorem setPart_host (i : Nat) (k : Option Partition) : (s.setPart i k).host = s.host := rfl
@[simp] theorem setPart_segs (i : Nat) (k : Option Partition) : (s.setPart i k).segs = s.segs := rfl
@[simp] theorem setPart_sets (i : Nat) (k : Option Partition) : (s.setPart i k).sets = s.sets := rfl
@[simp] theorem setPart_parts (i : Nat) (k : Option Partition) : (s.setPart i k).parts = put none s.parts i k := rfl
@[simp] theorem setPart_voyages (i : Nat) (k : Option Partition) : (s.setPart i k).voyages = s.voyages := rfl
@[simp] theorem setPart_hm (i : Nat) (k : Option Partition) : (s.setPart i k).hm = s.hm := rfl
@[simp] theorem setPart_fabric (i : Nat) (k : Option Partition) : (s.setPart i k).fabric = s.fabric := rfl
@[simp] theorem setPart_ports (i : Nat) (k : Option Partition) : (s.setPart i k).ports = s.ports := rfl
@[simp] theorem setPart_sites (i : Nat) (k : Option Partition) : (s.setPart i k).sites = s.sites := rfl
@[simp] theorem setPart_power (i : Nat) (k : Option Partition) : (s.setPart i k).power = s.power := rfl
@[simp] theorem setPart_thermal (i : Nat) (k : Option Partition) : (s.setPart i k).thermal = s.thermal := rfl
@[simp] theorem setPart_sec (i : Nat) (k : Option Partition) : (s.setPart i k).sec = s.sec := rfl
@[simp] theorem setPart_mgmt (i : Nat) (k : Option Partition) : (s.setPart i k).mgmt = s.mgmt := rfl
@[simp] theorem setPart_log (i : Nat) (k : Option Partition) : (s.setPart i k).log = s.log := rfl
@[simp] theorem setPart_bring (i : Nat) (k : Option Partition) : (s.setPart i k).bring = s.bring := rfl

/-! ## setVoyage -/

@[simp] theorem setVoyage_pending (i : Nat) (k : Option Voyage) : (s.setVoyage i k).pending = s.pending := rfl
@[simp] theorem setVoyage_free (i : Nat) (k : Option Voyage) : (s.setVoyage i k).free = s.free := rfl
@[simp] theorem setVoyage_cc (i : Nat) (k : Option Voyage) : (s.setVoyage i k).cc = s.cc := rfl
@[simp] theorem setVoyage_ccPhase (i : Nat) (k : Option Voyage) : (s.setVoyage i k).ccPhase = s.ccPhase := rfl
@[simp] theorem setVoyage_tide (i : Nat) (k : Option Voyage) : (s.setVoyage i k).tide = s.tide := rfl
@[simp] theorem setVoyage_regs (i : Nat) (k : Option Voyage) : (s.setVoyage i k).regs = s.regs := rfl
@[simp] theorem setVoyage_events (i : Nat) (k : Option Voyage) : (s.setVoyage i k).events = s.events := rfl
@[simp] theorem setVoyage_readData (i : Nat) (k : Option Voyage) : (s.setVoyage i k).readData = s.readData := rfl
@[simp] theorem setVoyage_cores (i : Nat) (k : Option Voyage) : (s.setVoyage i k).cores = s.cores := rfl
@[simp] theorem setVoyage_routers (i : Nat) (k : Option Voyage) : (s.setVoyage i k).routers = s.routers := rfl
@[simp] theorem setVoyage_engines (i : Nat) (k : Option Voyage) : (s.setVoyage i k).engines = s.engines := rfl
@[simp] theorem setVoyage_mem (i : Nat) (k : Option Voyage) : (s.setVoyage i k).mem = s.mem := rfl
@[simp] theorem setVoyage_ueBlocks (i : Nat) (k : Option Voyage) : (s.setVoyage i k).ueBlocks = s.ueBlocks := rfl
@[simp] theorem setVoyage_host (i : Nat) (k : Option Voyage) : (s.setVoyage i k).host = s.host := rfl
@[simp] theorem setVoyage_segs (i : Nat) (k : Option Voyage) : (s.setVoyage i k).segs = s.segs := rfl
@[simp] theorem setVoyage_sets (i : Nat) (k : Option Voyage) : (s.setVoyage i k).sets = s.sets := rfl
@[simp] theorem setVoyage_parts (i : Nat) (k : Option Voyage) : (s.setVoyage i k).parts = s.parts := rfl
@[simp] theorem setVoyage_voyages (i : Nat) (k : Option Voyage) : (s.setVoyage i k).voyages = put none s.voyages i k := rfl
@[simp] theorem setVoyage_hm (i : Nat) (k : Option Voyage) : (s.setVoyage i k).hm = s.hm := rfl
@[simp] theorem setVoyage_fabric (i : Nat) (k : Option Voyage) : (s.setVoyage i k).fabric = s.fabric := rfl
@[simp] theorem setVoyage_ports (i : Nat) (k : Option Voyage) : (s.setVoyage i k).ports = s.ports := rfl
@[simp] theorem setVoyage_sites (i : Nat) (k : Option Voyage) : (s.setVoyage i k).sites = s.sites := rfl
@[simp] theorem setVoyage_power (i : Nat) (k : Option Voyage) : (s.setVoyage i k).power = s.power := rfl
@[simp] theorem setVoyage_thermal (i : Nat) (k : Option Voyage) : (s.setVoyage i k).thermal = s.thermal := rfl
@[simp] theorem setVoyage_sec (i : Nat) (k : Option Voyage) : (s.setVoyage i k).sec = s.sec := rfl
@[simp] theorem setVoyage_mgmt (i : Nat) (k : Option Voyage) : (s.setVoyage i k).mgmt = s.mgmt := rfl
@[simp] theorem setVoyage_log (i : Nat) (k : Option Voyage) : (s.setVoyage i k).log = s.log := rfl
@[simp] theorem setVoyage_bring (i : Nat) (k : Option Voyage) : (s.setVoyage i k).bring = s.bring := rfl

/-! ## setBox -/

@[simp] theorem setBox_pending (i : Nat) (k : Mailbox) : (s.setBox i k).pending = s.pending := rfl
@[simp] theorem setBox_free (i : Nat) (k : Mailbox) : (s.setBox i k).free = s.free := rfl
@[simp] theorem setBox_cc (i : Nat) (k : Mailbox) : (s.setBox i k).cc = s.cc := rfl
@[simp] theorem setBox_ccPhase (i : Nat) (k : Mailbox) : (s.setBox i k).ccPhase = s.ccPhase := rfl
@[simp] theorem setBox_tide (i : Nat) (k : Mailbox) : (s.setBox i k).tide = s.tide := rfl
@[simp] theorem setBox_regs (i : Nat) (k : Mailbox) : (s.setBox i k).regs = s.regs := rfl
@[simp] theorem setBox_events (i : Nat) (k : Mailbox) : (s.setBox i k).events = s.events := rfl
@[simp] theorem setBox_readData (i : Nat) (k : Mailbox) : (s.setBox i k).readData = s.readData := rfl
@[simp] theorem setBox_cores (i : Nat) (k : Mailbox) : (s.setBox i k).cores = s.cores := rfl
@[simp] theorem setBox_routers (i : Nat) (k : Mailbox) : (s.setBox i k).routers = s.routers := rfl
@[simp] theorem setBox_engines (i : Nat) (k : Mailbox) : (s.setBox i k).engines = s.engines := rfl
@[simp] theorem setBox_mem (i : Nat) (k : Mailbox) : (s.setBox i k).mem = s.mem := rfl
@[simp] theorem setBox_ueBlocks (i : Nat) (k : Mailbox) : (s.setBox i k).ueBlocks = s.ueBlocks := rfl
@[simp] theorem setBox_host (i : Nat) (k : Mailbox) : (s.setBox i k).host = s.host := rfl
@[simp] theorem setBox_segs (i : Nat) (k : Mailbox) : (s.setBox i k).segs = s.segs := rfl
@[simp] theorem setBox_sets (i : Nat) (k : Mailbox) : (s.setBox i k).sets = s.sets := rfl
@[simp] theorem setBox_parts (i : Nat) (k : Mailbox) : (s.setBox i k).parts = s.parts := rfl
@[simp] theorem setBox_voyages (i : Nat) (k : Mailbox) : (s.setBox i k).voyages = s.voyages := rfl
@[simp] theorem setBox_hm (i : Nat) (k : Mailbox) : (s.setBox i k).hm = { s.hm with boxes := put {} s.hm.boxes i k } := rfl
@[simp] theorem setBox_fabric (i : Nat) (k : Mailbox) : (s.setBox i k).fabric = s.fabric := rfl
@[simp] theorem setBox_ports (i : Nat) (k : Mailbox) : (s.setBox i k).ports = s.ports := rfl
@[simp] theorem setBox_sites (i : Nat) (k : Mailbox) : (s.setBox i k).sites = s.sites := rfl
@[simp] theorem setBox_power (i : Nat) (k : Mailbox) : (s.setBox i k).power = s.power := rfl
@[simp] theorem setBox_thermal (i : Nat) (k : Mailbox) : (s.setBox i k).thermal = s.thermal := rfl
@[simp] theorem setBox_sec (i : Nat) (k : Mailbox) : (s.setBox i k).sec = s.sec := rfl
@[simp] theorem setBox_mgmt (i : Nat) (k : Mailbox) : (s.setBox i k).mgmt = s.mgmt := rfl
@[simp] theorem setBox_log (i : Nat) (k : Mailbox) : (s.setBox i k).log = s.log := rfl
@[simp] theorem setBox_bring (i : Nat) (k : Mailbox) : (s.setBox i k).bring = s.bring := rfl

/-! ## setBus -/

@[simp] theorem setBus_pending (i : Nat) (k : Mgmt) : (s.setBus i k).pending = s.pending := rfl
@[simp] theorem setBus_free (i : Nat) (k : Mgmt) : (s.setBus i k).free = s.free := rfl
@[simp] theorem setBus_cc (i : Nat) (k : Mgmt) : (s.setBus i k).cc = s.cc := rfl
@[simp] theorem setBus_ccPhase (i : Nat) (k : Mgmt) : (s.setBus i k).ccPhase = s.ccPhase := rfl
@[simp] theorem setBus_tide (i : Nat) (k : Mgmt) : (s.setBus i k).tide = s.tide := rfl
@[simp] theorem setBus_regs (i : Nat) (k : Mgmt) : (s.setBus i k).regs = s.regs := rfl
@[simp] theorem setBus_events (i : Nat) (k : Mgmt) : (s.setBus i k).events = s.events := rfl
@[simp] theorem setBus_readData (i : Nat) (k : Mgmt) : (s.setBus i k).readData = s.readData := rfl
@[simp] theorem setBus_cores (i : Nat) (k : Mgmt) : (s.setBus i k).cores = s.cores := rfl
@[simp] theorem setBus_routers (i : Nat) (k : Mgmt) : (s.setBus i k).routers = s.routers := rfl
@[simp] theorem setBus_engines (i : Nat) (k : Mgmt) : (s.setBus i k).engines = s.engines := rfl
@[simp] theorem setBus_mem (i : Nat) (k : Mgmt) : (s.setBus i k).mem = s.mem := rfl
@[simp] theorem setBus_ueBlocks (i : Nat) (k : Mgmt) : (s.setBus i k).ueBlocks = s.ueBlocks := rfl
@[simp] theorem setBus_host (i : Nat) (k : Mgmt) : (s.setBus i k).host = s.host := rfl
@[simp] theorem setBus_segs (i : Nat) (k : Mgmt) : (s.setBus i k).segs = s.segs := rfl
@[simp] theorem setBus_sets (i : Nat) (k : Mgmt) : (s.setBus i k).sets = s.sets := rfl
@[simp] theorem setBus_parts (i : Nat) (k : Mgmt) : (s.setBus i k).parts = s.parts := rfl
@[simp] theorem setBus_voyages (i : Nat) (k : Mgmt) : (s.setBus i k).voyages = s.voyages := rfl
@[simp] theorem setBus_hm (i : Nat) (k : Mgmt) : (s.setBus i k).hm = s.hm := rfl
@[simp] theorem setBus_fabric (i : Nat) (k : Mgmt) : (s.setBus i k).fabric = s.fabric := rfl
@[simp] theorem setBus_ports (i : Nat) (k : Mgmt) : (s.setBus i k).ports = s.ports := rfl
@[simp] theorem setBus_sites (i : Nat) (k : Mgmt) : (s.setBus i k).sites = s.sites := rfl
@[simp] theorem setBus_power (i : Nat) (k : Mgmt) : (s.setBus i k).power = s.power := rfl
@[simp] theorem setBus_thermal (i : Nat) (k : Mgmt) : (s.setBus i k).thermal = s.thermal := rfl
@[simp] theorem setBus_sec (i : Nat) (k : Mgmt) : (s.setBus i k).sec = s.sec := rfl
@[simp] theorem setBus_mgmt (i : Nat) (k : Mgmt) : (s.setBus i k).mgmt = put {} s.mgmt i k := rfl
@[simp] theorem setBus_log (i : Nat) (k : Mgmt) : (s.setBus i k).log = s.log := rfl
@[simp] theorem setBus_bring (i : Nat) (k : Mgmt) : (s.setBus i k).bring = s.bring := rfl

/-! ## updCore -/

@[simp] theorem updCore_pending (c : Nat) (g : Core → Core) : (s.updCore c g).pending = s.pending := rfl
@[simp] theorem updCore_free (c : Nat) (g : Core → Core) : (s.updCore c g).free = s.free := rfl
@[simp] theorem updCore_cc (c : Nat) (g : Core → Core) : (s.updCore c g).cc = s.cc := rfl
@[simp] theorem updCore_ccPhase (c : Nat) (g : Core → Core) : (s.updCore c g).ccPhase = s.ccPhase := rfl
@[simp] theorem updCore_tide (c : Nat) (g : Core → Core) : (s.updCore c g).tide = s.tide := rfl
@[simp] theorem updCore_regs (c : Nat) (g : Core → Core) : (s.updCore c g).regs = s.regs := rfl
@[simp] theorem updCore_events (c : Nat) (g : Core → Core) : (s.updCore c g).events = s.events := rfl
@[simp] theorem updCore_readData (c : Nat) (g : Core → Core) : (s.updCore c g).readData = s.readData := rfl
@[simp] theorem updCore_cores (c : Nat) (g : Core → Core) : (s.updCore c g).cores = put {} s.cores c (g (s.core c)) := rfl
@[simp] theorem updCore_routers (c : Nat) (g : Core → Core) : (s.updCore c g).routers = s.routers := rfl
@[simp] theorem updCore_engines (c : Nat) (g : Core → Core) : (s.updCore c g).engines = s.engines := rfl
@[simp] theorem updCore_mem (c : Nat) (g : Core → Core) : (s.updCore c g).mem = s.mem := rfl
@[simp] theorem updCore_ueBlocks (c : Nat) (g : Core → Core) : (s.updCore c g).ueBlocks = s.ueBlocks := rfl
@[simp] theorem updCore_host (c : Nat) (g : Core → Core) : (s.updCore c g).host = s.host := rfl
@[simp] theorem updCore_segs (c : Nat) (g : Core → Core) : (s.updCore c g).segs = s.segs := rfl
@[simp] theorem updCore_sets (c : Nat) (g : Core → Core) : (s.updCore c g).sets = s.sets := rfl
@[simp] theorem updCore_parts (c : Nat) (g : Core → Core) : (s.updCore c g).parts = s.parts := rfl
@[simp] theorem updCore_voyages (c : Nat) (g : Core → Core) : (s.updCore c g).voyages = s.voyages := rfl
@[simp] theorem updCore_hm (c : Nat) (g : Core → Core) : (s.updCore c g).hm = s.hm := rfl
@[simp] theorem updCore_fabric (c : Nat) (g : Core → Core) : (s.updCore c g).fabric = s.fabric := rfl
@[simp] theorem updCore_ports (c : Nat) (g : Core → Core) : (s.updCore c g).ports = s.ports := rfl
@[simp] theorem updCore_sites (c : Nat) (g : Core → Core) : (s.updCore c g).sites = s.sites := rfl
@[simp] theorem updCore_power (c : Nat) (g : Core → Core) : (s.updCore c g).power = s.power := rfl
@[simp] theorem updCore_thermal (c : Nat) (g : Core → Core) : (s.updCore c g).thermal = s.thermal := rfl
@[simp] theorem updCore_sec (c : Nat) (g : Core → Core) : (s.updCore c g).sec = s.sec := rfl
@[simp] theorem updCore_mgmt (c : Nat) (g : Core → Core) : (s.updCore c g).mgmt = s.mgmt := rfl
@[simp] theorem updCore_log (c : Nat) (g : Core → Core) : (s.updCore c g).log = s.log := rfl
@[simp] theorem updCore_bring (c : Nat) (g : Core → Core) : (s.updCore c g).bring = s.bring := rfl

/-! ## updRouter -/

@[simp] theorem updRouter_pending (r : Nat) (g : Router → Router) : (s.updRouter r g).pending = s.pending := rfl
@[simp] theorem updRouter_free (r : Nat) (g : Router → Router) : (s.updRouter r g).free = s.free := rfl
@[simp] theorem updRouter_cc (r : Nat) (g : Router → Router) : (s.updRouter r g).cc = s.cc := rfl
@[simp] theorem updRouter_ccPhase (r : Nat) (g : Router → Router) : (s.updRouter r g).ccPhase = s.ccPhase := rfl
@[simp] theorem updRouter_tide (r : Nat) (g : Router → Router) : (s.updRouter r g).tide = s.tide := rfl
@[simp] theorem updRouter_regs (r : Nat) (g : Router → Router) : (s.updRouter r g).regs = s.regs := rfl
@[simp] theorem updRouter_events (r : Nat) (g : Router → Router) : (s.updRouter r g).events = s.events := rfl
@[simp] theorem updRouter_readData (r : Nat) (g : Router → Router) : (s.updRouter r g).readData = s.readData := rfl
@[simp] theorem updRouter_cores (r : Nat) (g : Router → Router) : (s.updRouter r g).cores = s.cores := rfl
@[simp] theorem updRouter_routers (r : Nat) (g : Router → Router) : (s.updRouter r g).routers = put {} s.routers r (g (s.router r)) := rfl
@[simp] theorem updRouter_engines (r : Nat) (g : Router → Router) : (s.updRouter r g).engines = s.engines := rfl
@[simp] theorem updRouter_mem (r : Nat) (g : Router → Router) : (s.updRouter r g).mem = s.mem := rfl
@[simp] theorem updRouter_ueBlocks (r : Nat) (g : Router → Router) : (s.updRouter r g).ueBlocks = s.ueBlocks := rfl
@[simp] theorem updRouter_host (r : Nat) (g : Router → Router) : (s.updRouter r g).host = s.host := rfl
@[simp] theorem updRouter_segs (r : Nat) (g : Router → Router) : (s.updRouter r g).segs = s.segs := rfl
@[simp] theorem updRouter_sets (r : Nat) (g : Router → Router) : (s.updRouter r g).sets = s.sets := rfl
@[simp] theorem updRouter_parts (r : Nat) (g : Router → Router) : (s.updRouter r g).parts = s.parts := rfl
@[simp] theorem updRouter_voyages (r : Nat) (g : Router → Router) : (s.updRouter r g).voyages = s.voyages := rfl
@[simp] theorem updRouter_hm (r : Nat) (g : Router → Router) : (s.updRouter r g).hm = s.hm := rfl
@[simp] theorem updRouter_fabric (r : Nat) (g : Router → Router) : (s.updRouter r g).fabric = s.fabric := rfl
@[simp] theorem updRouter_ports (r : Nat) (g : Router → Router) : (s.updRouter r g).ports = s.ports := rfl
@[simp] theorem updRouter_sites (r : Nat) (g : Router → Router) : (s.updRouter r g).sites = s.sites := rfl
@[simp] theorem updRouter_power (r : Nat) (g : Router → Router) : (s.updRouter r g).power = s.power := rfl
@[simp] theorem updRouter_thermal (r : Nat) (g : Router → Router) : (s.updRouter r g).thermal = s.thermal := rfl
@[simp] theorem updRouter_sec (r : Nat) (g : Router → Router) : (s.updRouter r g).sec = s.sec := rfl
@[simp] theorem updRouter_mgmt (r : Nat) (g : Router → Router) : (s.updRouter r g).mgmt = s.mgmt := rfl
@[simp] theorem updRouter_log (r : Nat) (g : Router → Router) : (s.updRouter r g).log = s.log := rfl
@[simp] theorem updRouter_bring (r : Nat) (g : Router → Router) : (s.updRouter r g).bring = s.bring := rfl

/-! ## updEngine -/

@[simp] theorem updEngine_pending (m : Nat) (g : Engine → Engine) : (s.updEngine m g).pending = s.pending := rfl
@[simp] theorem updEngine_free (m : Nat) (g : Engine → Engine) : (s.updEngine m g).free = s.free := rfl
@[simp] theorem updEngine_cc (m : Nat) (g : Engine → Engine) : (s.updEngine m g).cc = s.cc := rfl
@[simp] theorem updEngine_ccPhase (m : Nat) (g : Engine → Engine) : (s.updEngine m g).ccPhase = s.ccPhase := rfl
@[simp] theorem updEngine_tide (m : Nat) (g : Engine → Engine) : (s.updEngine m g).tide = s.tide := rfl
@[simp] theorem updEngine_regs (m : Nat) (g : Engine → Engine) : (s.updEngine m g).regs = s.regs := rfl
@[simp] theorem updEngine_events (m : Nat) (g : Engine → Engine) : (s.updEngine m g).events = s.events := rfl
@[simp] theorem updEngine_readData (m : Nat) (g : Engine → Engine) : (s.updEngine m g).readData = s.readData := rfl
@[simp] theorem updEngine_cores (m : Nat) (g : Engine → Engine) : (s.updEngine m g).cores = s.cores := rfl
@[simp] theorem updEngine_routers (m : Nat) (g : Engine → Engine) : (s.updEngine m g).routers = s.routers := rfl
@[simp] theorem updEngine_engines (m : Nat) (g : Engine → Engine) : (s.updEngine m g).engines = put {} s.engines m (g (s.engine m)) := rfl
@[simp] theorem updEngine_mem (m : Nat) (g : Engine → Engine) : (s.updEngine m g).mem = s.mem := rfl
@[simp] theorem updEngine_ueBlocks (m : Nat) (g : Engine → Engine) : (s.updEngine m g).ueBlocks = s.ueBlocks := rfl
@[simp] theorem updEngine_host (m : Nat) (g : Engine → Engine) : (s.updEngine m g).host = s.host := rfl
@[simp] theorem updEngine_segs (m : Nat) (g : Engine → Engine) : (s.updEngine m g).segs = s.segs := rfl
@[simp] theorem updEngine_sets (m : Nat) (g : Engine → Engine) : (s.updEngine m g).sets = s.sets := rfl
@[simp] theorem updEngine_parts (m : Nat) (g : Engine → Engine) : (s.updEngine m g).parts = s.parts := rfl
@[simp] theorem updEngine_voyages (m : Nat) (g : Engine → Engine) : (s.updEngine m g).voyages = s.voyages := rfl
@[simp] theorem updEngine_hm (m : Nat) (g : Engine → Engine) : (s.updEngine m g).hm = s.hm := rfl
@[simp] theorem updEngine_fabric (m : Nat) (g : Engine → Engine) : (s.updEngine m g).fabric = s.fabric := rfl
@[simp] theorem updEngine_ports (m : Nat) (g : Engine → Engine) : (s.updEngine m g).ports = s.ports := rfl
@[simp] theorem updEngine_sites (m : Nat) (g : Engine → Engine) : (s.updEngine m g).sites = s.sites := rfl
@[simp] theorem updEngine_power (m : Nat) (g : Engine → Engine) : (s.updEngine m g).power = s.power := rfl
@[simp] theorem updEngine_thermal (m : Nat) (g : Engine → Engine) : (s.updEngine m g).thermal = s.thermal := rfl
@[simp] theorem updEngine_sec (m : Nat) (g : Engine → Engine) : (s.updEngine m g).sec = s.sec := rfl
@[simp] theorem updEngine_mgmt (m : Nat) (g : Engine → Engine) : (s.updEngine m g).mgmt = s.mgmt := rfl
@[simp] theorem updEngine_log (m : Nat) (g : Engine → Engine) : (s.updEngine m g).log = s.log := rfl
@[simp] theorem updEngine_bring (m : Nat) (g : Engine → Engine) : (s.updEngine m g).bring = s.bring := rfl

/-! ## updPort -/

@[simp] theorem updPort_pending (p : Nat) (g : Port → Port) : (s.updPort p g).pending = s.pending := rfl
@[simp] theorem updPort_free (p : Nat) (g : Port → Port) : (s.updPort p g).free = s.free := rfl
@[simp] theorem updPort_cc (p : Nat) (g : Port → Port) : (s.updPort p g).cc = s.cc := rfl
@[simp] theorem updPort_ccPhase (p : Nat) (g : Port → Port) : (s.updPort p g).ccPhase = s.ccPhase := rfl
@[simp] theorem updPort_tide (p : Nat) (g : Port → Port) : (s.updPort p g).tide = s.tide := rfl
@[simp] theorem updPort_regs (p : Nat) (g : Port → Port) : (s.updPort p g).regs = s.regs := rfl
@[simp] theorem updPort_events (p : Nat) (g : Port → Port) : (s.updPort p g).events = s.events := rfl
@[simp] theorem updPort_readData (p : Nat) (g : Port → Port) : (s.updPort p g).readData = s.readData := rfl
@[simp] theorem updPort_cores (p : Nat) (g : Port → Port) : (s.updPort p g).cores = s.cores := rfl
@[simp] theorem updPort_routers (p : Nat) (g : Port → Port) : (s.updPort p g).routers = s.routers := rfl
@[simp] theorem updPort_engines (p : Nat) (g : Port → Port) : (s.updPort p g).engines = s.engines := rfl
@[simp] theorem updPort_mem (p : Nat) (g : Port → Port) : (s.updPort p g).mem = s.mem := rfl
@[simp] theorem updPort_ueBlocks (p : Nat) (g : Port → Port) : (s.updPort p g).ueBlocks = s.ueBlocks := rfl
@[simp] theorem updPort_host (p : Nat) (g : Port → Port) : (s.updPort p g).host = s.host := rfl
@[simp] theorem updPort_segs (p : Nat) (g : Port → Port) : (s.updPort p g).segs = s.segs := rfl
@[simp] theorem updPort_sets (p : Nat) (g : Port → Port) : (s.updPort p g).sets = s.sets := rfl
@[simp] theorem updPort_parts (p : Nat) (g : Port → Port) : (s.updPort p g).parts = s.parts := rfl
@[simp] theorem updPort_voyages (p : Nat) (g : Port → Port) : (s.updPort p g).voyages = s.voyages := rfl
@[simp] theorem updPort_hm (p : Nat) (g : Port → Port) : (s.updPort p g).hm = s.hm := rfl
@[simp] theorem updPort_fabric (p : Nat) (g : Port → Port) : (s.updPort p g).fabric = s.fabric := rfl
@[simp] theorem updPort_ports (p : Nat) (g : Port → Port) : (s.updPort p g).ports = put {} s.ports p (g (s.port p)) := rfl
@[simp] theorem updPort_sites (p : Nat) (g : Port → Port) : (s.updPort p g).sites = s.sites := rfl
@[simp] theorem updPort_power (p : Nat) (g : Port → Port) : (s.updPort p g).power = s.power := rfl
@[simp] theorem updPort_thermal (p : Nat) (g : Port → Port) : (s.updPort p g).thermal = s.thermal := rfl
@[simp] theorem updPort_sec (p : Nat) (g : Port → Port) : (s.updPort p g).sec = s.sec := rfl
@[simp] theorem updPort_mgmt (p : Nat) (g : Port → Port) : (s.updPort p g).mgmt = s.mgmt := rfl
@[simp] theorem updPort_log (p : Nat) (g : Port → Port) : (s.updPort p g).log = s.log := rfl
@[simp] theorem updPort_bring (p : Nat) (g : Port → Port) : (s.updPort p g).bring = s.bring := rfl

/-! ## updSeg -/

@[simp] theorem updSeg_pending (i : Nat) (g : SegRec → SegRec) : (s.updSeg i g).pending = s.pending := rfl
@[simp] theorem updSeg_free (i : Nat) (g : SegRec → SegRec) : (s.updSeg i g).free = s.free := rfl
@[simp] theorem updSeg_cc (i : Nat) (g : SegRec → SegRec) : (s.updSeg i g).cc = s.cc := rfl
@[simp] theorem updSeg_ccPhase (i : Nat) (g : SegRec → SegRec) : (s.updSeg i g).ccPhase = s.ccPhase := rfl
@[simp] theorem updSeg_tide (i : Nat) (g : SegRec → SegRec) : (s.updSeg i g).tide = s.tide := rfl
@[simp] theorem updSeg_regs (i : Nat) (g : SegRec → SegRec) : (s.updSeg i g).regs = s.regs := rfl
@[simp] theorem updSeg_events (i : Nat) (g : SegRec → SegRec) : (s.updSeg i g).events = s.events := rfl
@[simp] theorem updSeg_readData (i : Nat) (g : SegRec → SegRec) : (s.updSeg i g).readData = s.readData := rfl
@[simp] theorem updSeg_cores (i : Nat) (g : SegRec → SegRec) : (s.updSeg i g).cores = s.cores := rfl
@[simp] theorem updSeg_routers (i : Nat) (g : SegRec → SegRec) : (s.updSeg i g).routers = s.routers := rfl
@[simp] theorem updSeg_engines (i : Nat) (g : SegRec → SegRec) : (s.updSeg i g).engines = s.engines := rfl
@[simp] theorem updSeg_mem (i : Nat) (g : SegRec → SegRec) : (s.updSeg i g).mem = s.mem := rfl
@[simp] theorem updSeg_ueBlocks (i : Nat) (g : SegRec → SegRec) : (s.updSeg i g).ueBlocks = s.ueBlocks := rfl
@[simp] theorem updSeg_host (i : Nat) (g : SegRec → SegRec) : (s.updSeg i g).host = s.host := rfl
@[simp] theorem updSeg_segs (i : Nat) (g : SegRec → SegRec) : (s.updSeg i g).segs = put {} s.segs i (g (s.seg i)) := rfl
@[simp] theorem updSeg_sets (i : Nat) (g : SegRec → SegRec) : (s.updSeg i g).sets = s.sets := rfl
@[simp] theorem updSeg_parts (i : Nat) (g : SegRec → SegRec) : (s.updSeg i g).parts = s.parts := rfl
@[simp] theorem updSeg_voyages (i : Nat) (g : SegRec → SegRec) : (s.updSeg i g).voyages = s.voyages := rfl
@[simp] theorem updSeg_hm (i : Nat) (g : SegRec → SegRec) : (s.updSeg i g).hm = s.hm := rfl
@[simp] theorem updSeg_fabric (i : Nat) (g : SegRec → SegRec) : (s.updSeg i g).fabric = s.fabric := rfl
@[simp] theorem updSeg_ports (i : Nat) (g : SegRec → SegRec) : (s.updSeg i g).ports = s.ports := rfl
@[simp] theorem updSeg_sites (i : Nat) (g : SegRec → SegRec) : (s.updSeg i g).sites = s.sites := rfl
@[simp] theorem updSeg_power (i : Nat) (g : SegRec → SegRec) : (s.updSeg i g).power = s.power := rfl
@[simp] theorem updSeg_thermal (i : Nat) (g : SegRec → SegRec) : (s.updSeg i g).thermal = s.thermal := rfl
@[simp] theorem updSeg_sec (i : Nat) (g : SegRec → SegRec) : (s.updSeg i g).sec = s.sec := rfl
@[simp] theorem updSeg_mgmt (i : Nat) (g : SegRec → SegRec) : (s.updSeg i g).mgmt = s.mgmt := rfl
@[simp] theorem updSeg_log (i : Nat) (g : SegRec → SegRec) : (s.updSeg i g).log = s.log := rfl
@[simp] theorem updSeg_bring (i : Nat) (g : SegRec → SegRec) : (s.updSeg i g).bring = s.bring := rfl

/-! ## updVoyage -/

@[simp] theorem updVoyage_pending (i : Nat) (g : Voyage → Voyage) : (s.updVoyage i g).pending = s.pending := by unfold updVoyage; split <;> rfl
@[simp] theorem updVoyage_free (i : Nat) (g : Voyage → Voyage) : (s.updVoyage i g).free = s.free := by unfold updVoyage; split <;> rfl
@[simp] theorem updVoyage_cc (i : Nat) (g : Voyage → Voyage) : (s.updVoyage i g).cc = s.cc := by unfold updVoyage; split <;> rfl
@[simp] theorem updVoyage_ccPhase (i : Nat) (g : Voyage → Voyage) : (s.updVoyage i g).ccPhase = s.ccPhase := by unfold updVoyage; split <;> rfl
@[simp] theorem updVoyage_tide (i : Nat) (g : Voyage → Voyage) : (s.updVoyage i g).tide = s.tide := by unfold updVoyage; split <;> rfl
@[simp] theorem updVoyage_regs (i : Nat) (g : Voyage → Voyage) : (s.updVoyage i g).regs = s.regs := by unfold updVoyage; split <;> rfl
@[simp] theorem updVoyage_events (i : Nat) (g : Voyage → Voyage) : (s.updVoyage i g).events = s.events := by unfold updVoyage; split <;> rfl
@[simp] theorem updVoyage_readData (i : Nat) (g : Voyage → Voyage) : (s.updVoyage i g).readData = s.readData := by unfold updVoyage; split <;> rfl
@[simp] theorem updVoyage_cores (i : Nat) (g : Voyage → Voyage) : (s.updVoyage i g).cores = s.cores := by unfold updVoyage; split <;> rfl
@[simp] theorem updVoyage_routers (i : Nat) (g : Voyage → Voyage) : (s.updVoyage i g).routers = s.routers := by unfold updVoyage; split <;> rfl
@[simp] theorem updVoyage_engines (i : Nat) (g : Voyage → Voyage) : (s.updVoyage i g).engines = s.engines := by unfold updVoyage; split <;> rfl
@[simp] theorem updVoyage_mem (i : Nat) (g : Voyage → Voyage) : (s.updVoyage i g).mem = s.mem := by unfold updVoyage; split <;> rfl
@[simp] theorem updVoyage_ueBlocks (i : Nat) (g : Voyage → Voyage) : (s.updVoyage i g).ueBlocks = s.ueBlocks := by unfold updVoyage; split <;> rfl
@[simp] theorem updVoyage_host (i : Nat) (g : Voyage → Voyage) : (s.updVoyage i g).host = s.host := by unfold updVoyage; split <;> rfl
@[simp] theorem updVoyage_segs (i : Nat) (g : Voyage → Voyage) : (s.updVoyage i g).segs = s.segs := by unfold updVoyage; split <;> rfl
@[simp] theorem updVoyage_sets (i : Nat) (g : Voyage → Voyage) : (s.updVoyage i g).sets = s.sets := by unfold updVoyage; split <;> rfl
@[simp] theorem updVoyage_parts (i : Nat) (g : Voyage → Voyage) : (s.updVoyage i g).parts = s.parts := by unfold updVoyage; split <;> rfl
@[simp] theorem updVoyage_hm (i : Nat) (g : Voyage → Voyage) : (s.updVoyage i g).hm = s.hm := by unfold updVoyage; split <;> rfl
@[simp] theorem updVoyage_fabric (i : Nat) (g : Voyage → Voyage) : (s.updVoyage i g).fabric = s.fabric := by unfold updVoyage; split <;> rfl
@[simp] theorem updVoyage_ports (i : Nat) (g : Voyage → Voyage) : (s.updVoyage i g).ports = s.ports := by unfold updVoyage; split <;> rfl
@[simp] theorem updVoyage_sites (i : Nat) (g : Voyage → Voyage) : (s.updVoyage i g).sites = s.sites := by unfold updVoyage; split <;> rfl
@[simp] theorem updVoyage_power (i : Nat) (g : Voyage → Voyage) : (s.updVoyage i g).power = s.power := by unfold updVoyage; split <;> rfl
@[simp] theorem updVoyage_thermal (i : Nat) (g : Voyage → Voyage) : (s.updVoyage i g).thermal = s.thermal := by unfold updVoyage; split <;> rfl
@[simp] theorem updVoyage_sec (i : Nat) (g : Voyage → Voyage) : (s.updVoyage i g).sec = s.sec := by unfold updVoyage; split <;> rfl
@[simp] theorem updVoyage_mgmt (i : Nat) (g : Voyage → Voyage) : (s.updVoyage i g).mgmt = s.mgmt := by unfold updVoyage; split <;> rfl
@[simp] theorem updVoyage_log (i : Nat) (g : Voyage → Voyage) : (s.updVoyage i g).log = s.log := by unfold updVoyage; split <;> rfl
@[simp] theorem updVoyage_bring (i : Nat) (g : Voyage → Voyage) : (s.updVoyage i g).bring = s.bring := by unfold updVoyage; split <;> rfl

/-! ## updRset -/

@[simp] theorem updRset_pending (i : Nat) (g : RepSet → RepSet) : (s.updRset i g).pending = s.pending := by unfold updRset; split <;> rfl
@[simp] theorem updRset_free (i : Nat) (g : RepSet → RepSet) : (s.updRset i g).free = s.free := by unfold updRset; split <;> rfl
@[simp] theorem updRset_cc (i : Nat) (g : RepSet → RepSet) : (s.updRset i g).cc = s.cc := by unfold updRset; split <;> rfl
@[simp] theorem updRset_ccPhase (i : Nat) (g : RepSet → RepSet) : (s.updRset i g).ccPhase = s.ccPhase := by unfold updRset; split <;> rfl
@[simp] theorem updRset_tide (i : Nat) (g : RepSet → RepSet) : (s.updRset i g).tide = s.tide := by unfold updRset; split <;> rfl
@[simp] theorem updRset_regs (i : Nat) (g : RepSet → RepSet) : (s.updRset i g).regs = s.regs := by unfold updRset; split <;> rfl
@[simp] theorem updRset_events (i : Nat) (g : RepSet → RepSet) : (s.updRset i g).events = s.events := by unfold updRset; split <;> rfl
@[simp] theorem updRset_readData (i : Nat) (g : RepSet → RepSet) : (s.updRset i g).readData = s.readData := by unfold updRset; split <;> rfl
@[simp] theorem updRset_cores (i : Nat) (g : RepSet → RepSet) : (s.updRset i g).cores = s.cores := by unfold updRset; split <;> rfl
@[simp] theorem updRset_routers (i : Nat) (g : RepSet → RepSet) : (s.updRset i g).routers = s.routers := by unfold updRset; split <;> rfl
@[simp] theorem updRset_engines (i : Nat) (g : RepSet → RepSet) : (s.updRset i g).engines = s.engines := by unfold updRset; split <;> rfl
@[simp] theorem updRset_mem (i : Nat) (g : RepSet → RepSet) : (s.updRset i g).mem = s.mem := by unfold updRset; split <;> rfl
@[simp] theorem updRset_ueBlocks (i : Nat) (g : RepSet → RepSet) : (s.updRset i g).ueBlocks = s.ueBlocks := by unfold updRset; split <;> rfl
@[simp] theorem updRset_host (i : Nat) (g : RepSet → RepSet) : (s.updRset i g).host = s.host := by unfold updRset; split <;> rfl
@[simp] theorem updRset_segs (i : Nat) (g : RepSet → RepSet) : (s.updRset i g).segs = s.segs := by unfold updRset; split <;> rfl
@[simp] theorem updRset_parts (i : Nat) (g : RepSet → RepSet) : (s.updRset i g).parts = s.parts := by unfold updRset; split <;> rfl
@[simp] theorem updRset_voyages (i : Nat) (g : RepSet → RepSet) : (s.updRset i g).voyages = s.voyages := by unfold updRset; split <;> rfl
@[simp] theorem updRset_hm (i : Nat) (g : RepSet → RepSet) : (s.updRset i g).hm = s.hm := by unfold updRset; split <;> rfl
@[simp] theorem updRset_fabric (i : Nat) (g : RepSet → RepSet) : (s.updRset i g).fabric = s.fabric := by unfold updRset; split <;> rfl
@[simp] theorem updRset_ports (i : Nat) (g : RepSet → RepSet) : (s.updRset i g).ports = s.ports := by unfold updRset; split <;> rfl
@[simp] theorem updRset_sites (i : Nat) (g : RepSet → RepSet) : (s.updRset i g).sites = s.sites := by unfold updRset; split <;> rfl
@[simp] theorem updRset_power (i : Nat) (g : RepSet → RepSet) : (s.updRset i g).power = s.power := by unfold updRset; split <;> rfl
@[simp] theorem updRset_thermal (i : Nat) (g : RepSet → RepSet) : (s.updRset i g).thermal = s.thermal := by unfold updRset; split <;> rfl
@[simp] theorem updRset_sec (i : Nat) (g : RepSet → RepSet) : (s.updRset i g).sec = s.sec := by unfold updRset; split <;> rfl
@[simp] theorem updRset_mgmt (i : Nat) (g : RepSet → RepSet) : (s.updRset i g).mgmt = s.mgmt := by unfold updRset; split <;> rfl
@[simp] theorem updRset_log (i : Nat) (g : RepSet → RepSet) : (s.updRset i g).log = s.log := by unfold updRset; split <;> rfl
@[simp] theorem updRset_bring (i : Nat) (g : RepSet → RepSet) : (s.updRset i g).bring = s.bring := by unfold updRset; split <;> rfl

/-! ## What a part reads as -/

theorem core_setCore (i j : Nat) (k : Core) : (s.setCore i k).core j = if j = i then k else s.core j := by
  simp [core, setCore, look_put]
@[simp] theorem core_setCore_same (i : Nat) (k : Core) : (s.setCore i k).core i = k := by simp [core_setCore]
theorem core_setCore_other {i j : Nat} (k : Core) (h : j ≠ i) : (s.setCore i k).core j = s.core j := by simp [core_setCore, h]
theorem router_setRouter (i j : Nat) (k : Router) : (s.setRouter i k).router j = if j = i then k else s.router j := by
  simp [router, setRouter, look_put]
@[simp] theorem router_setRouter_same (i : Nat) (k : Router) : (s.setRouter i k).router i = k := by simp [router_setRouter]
theorem router_setRouter_other {i j : Nat} (k : Router) (h : j ≠ i) : (s.setRouter i k).router j = s.router j := by simp [router_setRouter, h]
theorem engine_setEngine (i j : Nat) (k : Engine) : (s.setEngine i k).engine j = if j = i then k else s.engine j := by
  simp [engine, setEngine, look_put]
@[simp] theorem engine_setEngine_same (i : Nat) (k : Engine) : (s.setEngine i k).engine i = k := by simp [engine_setEngine]
theorem engine_setEngine_other {i j : Nat} (k : Engine) (h : j ≠ i) : (s.setEngine i k).engine j = s.engine j := by simp [engine_setEngine, h]
theorem port_setPort (i j : Nat) (k : Port) : (s.setPort i k).port j = if j = i then k else s.port j := by
  simp [port, setPort, look_put]
@[simp] theorem port_setPort_same (i : Nat) (k : Port) : (s.setPort i k).port i = k := by simp [port_setPort]
theorem port_setPort_other {i j : Nat} (k : Port) (h : j ≠ i) : (s.setPort i k).port j = s.port j := by simp [port_setPort, h]
theorem site_setSite (i j : Nat) (k : OpenSite) : (s.setSite i k).site j = if j = i then k else s.site j := by
  simp [site, setSite, look_put]
@[simp] theorem site_setSite_same (i : Nat) (k : OpenSite) : (s.setSite i k).site i = k := by simp [site_setSite]
theorem site_setSite_other {i j : Nat} (k : OpenSite) (h : j ≠ i) : (s.setSite i k).site j = s.site j := by simp [site_setSite, h]
theorem seg_setSeg (i j : Nat) (k : SegRec) : (s.setSeg i k).seg j = if j = i then k else s.seg j := by
  simp [seg, setSeg, look_put]
@[simp] theorem seg_setSeg_same (i : Nat) (k : SegRec) : (s.setSeg i k).seg i = k := by simp [seg_setSeg]
theorem seg_setSeg_other {i j : Nat} (k : SegRec) (h : j ≠ i) : (s.setSeg i k).seg j = s.seg j := by simp [seg_setSeg, h]
theorem rset_setRset (i j : Nat) (k : Option RepSet) : (s.setRset i k).rset j = if j = i then k else s.rset j := by
  simp [rset, setRset, look_put]
@[simp] theorem rset_setRset_same (i : Nat) (k : Option RepSet) : (s.setRset i k).rset i = k := by simp [rset_setRset]
theorem rset_setRset_other {i j : Nat} (k : Option RepSet) (h : j ≠ i) : (s.setRset i k).rset j = s.rset j := by simp [rset_setRset, h]
theorem part_setPart (i j : Nat) (k : Option Partition) : (s.setPart i k).part j = if j = i then k else s.part j := by
  simp [part, setPart, look_put]
@[simp] theorem part_setPart_same (i : Nat) (k : Option Partition) : (s.setPart i k).part i = k := by simp [part_setPart]
theorem part_setPart_other {i j : Nat} (k : Option Partition) (h : j ≠ i) : (s.setPart i k).part j = s.part j := by simp [part_setPart, h]
theorem voyage_setVoyage (i j : Nat) (k : Option Voyage) : (s.setVoyage i k).voyage j = if j = i then k else s.voyage j := by
  simp [voyage, setVoyage, look_put]
@[simp] theorem voyage_setVoyage_same (i : Nat) (k : Option Voyage) : (s.setVoyage i k).voyage i = k := by simp [voyage_setVoyage]
theorem voyage_setVoyage_other {i j : Nat} (k : Option Voyage) (h : j ≠ i) : (s.setVoyage i k).voyage j = s.voyage j := by simp [voyage_setVoyage, h]
theorem box_setBox (i j : Nat) (k : Mailbox) : (s.setBox i k).box j = if j = i then k else s.box j := by
  simp [box, setBox, look_put]
@[simp] theorem box_setBox_same (i : Nat) (k : Mailbox) : (s.setBox i k).box i = k := by simp [box_setBox]
theorem box_setBox_other {i j : Nat} (k : Mailbox) (h : j ≠ i) : (s.setBox i k).box j = s.box j := by simp [box_setBox, h]
theorem bus_setBus (i j : Nat) (k : Mgmt) : (s.setBus i k).bus j = if j = i then k else s.bus j := by
  simp [bus, setBus, look_put]
@[simp] theorem bus_setBus_same (i : Nat) (k : Mgmt) : (s.setBus i k).bus i = k := by simp [bus_setBus]
theorem bus_setBus_other {i j : Nat} (k : Mgmt) (h : j ≠ i) : (s.setBus i k).bus j = s.bus j := by simp [bus_setBus, h]
theorem core_updCore (i j : Nat) (g : Core → Core) : (s.updCore i g).core j = if j = i then g (s.core i) else s.core j := by
  simp [updCore, core_setCore]
@[simp] theorem core_updCore_same (i : Nat) (g : Core → Core) : (s.updCore i g).core i = g (s.core i) := by simp [core_updCore]
theorem router_updRouter (i j : Nat) (g : Router → Router) : (s.updRouter i g).router j = if j = i then g (s.router i) else s.router j := by
  simp [updRouter, router_setRouter]
@[simp] theorem router_updRouter_same (i : Nat) (g : Router → Router) : (s.updRouter i g).router i = g (s.router i) := by simp [router_updRouter]
theorem engine_updEngine (i j : Nat) (g : Engine → Engine) : (s.updEngine i g).engine j = if j = i then g (s.engine i) else s.engine j := by
  simp [updEngine, engine_setEngine]
@[simp] theorem engine_updEngine_same (i : Nat) (g : Engine → Engine) : (s.updEngine i g).engine i = g (s.engine i) := by simp [engine_updEngine]
theorem port_updPort (i j : Nat) (g : Port → Port) : (s.updPort i g).port j = if j = i then g (s.port i) else s.port j := by
  simp [updPort, port_setPort]
@[simp] theorem port_updPort_same (i : Nat) (g : Port → Port) : (s.updPort i g).port i = g (s.port i) := by simp [port_updPort]
theorem seg_updSeg (i j : Nat) (g : SegRec → SegRec) : (s.updSeg i g).seg j = if j = i then g (s.seg i) else s.seg j := by
  simp [updSeg, seg_setSeg]
@[simp] theorem seg_updSeg_same (i : Nat) (g : SegRec → SegRec) : (s.updSeg i g).seg i = g (s.seg i) := by simp [seg_updSeg]
theorem voyage_updVoyage (i j : Nat) (g : Voyage → Voyage) :
    (s.updVoyage i g).voyage j = if j = i then (s.voyage i).map g else s.voyage j := by
  unfold updVoyage
  split <;> rename_i h <;> by_cases hj : j = i <;> simp_all [voyage_setVoyage]
theorem rset_updRset (i j : Nat) (g : RepSet → RepSet) :
    (s.updRset i g).rset j = if j = i then (s.rset i).map g else s.rset j := by
  unfold updRset
  split <;> rename_i h <;> by_cases hj : j = i <;> simp_all [rset_setRset]

end State

/-! ## setReg -/

@[simp] theorem setReg_pending (s : State) (o : Nat) (x : Word) : (setReg s o x).pending = s.pending := rfl
@[simp] theorem setReg_free (s : State) (o : Nat) (x : Word) : (setReg s o x).free = s.free := rfl
@[simp] theorem setReg_cc (s : State) (o : Nat) (x : Word) : (setReg s o x).cc = s.cc := rfl
@[simp] theorem setReg_ccPhase (s : State) (o : Nat) (x : Word) : (setReg s o x).ccPhase = s.ccPhase := rfl
@[simp] theorem setReg_tide (s : State) (o : Nat) (x : Word) : (setReg s o x).tide = s.tide := rfl
@[simp] theorem setReg_events (s : State) (o : Nat) (x : Word) : (setReg s o x).events = s.events := rfl
@[simp] theorem setReg_readData (s : State) (o : Nat) (x : Word) : (setReg s o x).readData = s.readData := rfl
@[simp] theorem setReg_cores (s : State) (o : Nat) (x : Word) : (setReg s o x).cores = s.cores := rfl
@[simp] theorem setReg_routers (s : State) (o : Nat) (x : Word) : (setReg s o x).routers = s.routers := rfl
@[simp] theorem setReg_engines (s : State) (o : Nat) (x : Word) : (setReg s o x).engines = s.engines := rfl
@[simp] theorem setReg_mem (s : State) (o : Nat) (x : Word) : (setReg s o x).mem = s.mem := rfl
@[simp] theorem setReg_ueBlocks (s : State) (o : Nat) (x : Word) : (setReg s o x).ueBlocks = s.ueBlocks := rfl
@[simp] theorem setReg_host (s : State) (o : Nat) (x : Word) : (setReg s o x).host = s.host := rfl
@[simp] theorem setReg_segs (s : State) (o : Nat) (x : Word) : (setReg s o x).segs = s.segs := rfl
@[simp] theorem setReg_sets (s : State) (o : Nat) (x : Word) : (setReg s o x).sets = s.sets := rfl
@[simp] theorem setReg_parts (s : State) (o : Nat) (x : Word) : (setReg s o x).parts = s.parts := rfl
@[simp] theorem setReg_voyages (s : State) (o : Nat) (x : Word) : (setReg s o x).voyages = s.voyages := rfl
@[simp] theorem setReg_hm (s : State) (o : Nat) (x : Word) : (setReg s o x).hm = s.hm := rfl
@[simp] theorem setReg_fabric (s : State) (o : Nat) (x : Word) : (setReg s o x).fabric = s.fabric := rfl
@[simp] theorem setReg_ports (s : State) (o : Nat) (x : Word) : (setReg s o x).ports = s.ports := rfl
@[simp] theorem setReg_sites (s : State) (o : Nat) (x : Word) : (setReg s o x).sites = s.sites := rfl
@[simp] theorem setReg_power (s : State) (o : Nat) (x : Word) : (setReg s o x).power = s.power := rfl
@[simp] theorem setReg_thermal (s : State) (o : Nat) (x : Word) : (setReg s o x).thermal = s.thermal := rfl
@[simp] theorem setReg_sec (s : State) (o : Nat) (x : Word) : (setReg s o x).sec = s.sec := rfl
@[simp] theorem setReg_mgmt (s : State) (o : Nat) (x : Word) : (setReg s o x).mgmt = s.mgmt := rfl
@[simp] theorem setReg_log (s : State) (o : Nat) (x : Word) : (setReg s o x).log = s.log := rfl
@[simp] theorem setReg_bring (s : State) (o : Nat) (x : Word) : (setReg s o x).bring = s.bring := rfl

/-! ## noteEvent -/

@[simp] theorem noteEvent_pending (s : State) (o : Nat) (g : Word → Word) : (noteEvent s o g).pending = s.pending := rfl
@[simp] theorem noteEvent_free (s : State) (o : Nat) (g : Word → Word) : (noteEvent s o g).free = s.free := rfl
@[simp] theorem noteEvent_cc (s : State) (o : Nat) (g : Word → Word) : (noteEvent s o g).cc = s.cc := rfl
@[simp] theorem noteEvent_ccPhase (s : State) (o : Nat) (g : Word → Word) : (noteEvent s o g).ccPhase = s.ccPhase := rfl
@[simp] theorem noteEvent_tide (s : State) (o : Nat) (g : Word → Word) : (noteEvent s o g).tide = s.tide := rfl
@[simp] theorem noteEvent_regs (s : State) (o : Nat) (g : Word → Word) : (noteEvent s o g).regs = s.regs := rfl
@[simp] theorem noteEvent_readData (s : State) (o : Nat) (g : Word → Word) : (noteEvent s o g).readData = s.readData := rfl
@[simp] theorem noteEvent_cores (s : State) (o : Nat) (g : Word → Word) : (noteEvent s o g).cores = s.cores := rfl
@[simp] theorem noteEvent_routers (s : State) (o : Nat) (g : Word → Word) : (noteEvent s o g).routers = s.routers := rfl
@[simp] theorem noteEvent_engines (s : State) (o : Nat) (g : Word → Word) : (noteEvent s o g).engines = s.engines := rfl
@[simp] theorem noteEvent_mem (s : State) (o : Nat) (g : Word → Word) : (noteEvent s o g).mem = s.mem := rfl
@[simp] theorem noteEvent_ueBlocks (s : State) (o : Nat) (g : Word → Word) : (noteEvent s o g).ueBlocks = s.ueBlocks := rfl
@[simp] theorem noteEvent_host (s : State) (o : Nat) (g : Word → Word) : (noteEvent s o g).host = s.host := rfl
@[simp] theorem noteEvent_segs (s : State) (o : Nat) (g : Word → Word) : (noteEvent s o g).segs = s.segs := rfl
@[simp] theorem noteEvent_sets (s : State) (o : Nat) (g : Word → Word) : (noteEvent s o g).sets = s.sets := rfl
@[simp] theorem noteEvent_parts (s : State) (o : Nat) (g : Word → Word) : (noteEvent s o g).parts = s.parts := rfl
@[simp] theorem noteEvent_voyages (s : State) (o : Nat) (g : Word → Word) : (noteEvent s o g).voyages = s.voyages := rfl
@[simp] theorem noteEvent_hm (s : State) (o : Nat) (g : Word → Word) : (noteEvent s o g).hm = s.hm := rfl
@[simp] theorem noteEvent_fabric (s : State) (o : Nat) (g : Word → Word) : (noteEvent s o g).fabric = s.fabric := rfl
@[simp] theorem noteEvent_ports (s : State) (o : Nat) (g : Word → Word) : (noteEvent s o g).ports = s.ports := rfl
@[simp] theorem noteEvent_sites (s : State) (o : Nat) (g : Word → Word) : (noteEvent s o g).sites = s.sites := rfl
@[simp] theorem noteEvent_power (s : State) (o : Nat) (g : Word → Word) : (noteEvent s o g).power = s.power := rfl
@[simp] theorem noteEvent_thermal (s : State) (o : Nat) (g : Word → Word) : (noteEvent s o g).thermal = s.thermal := rfl
@[simp] theorem noteEvent_sec (s : State) (o : Nat) (g : Word → Word) : (noteEvent s o g).sec = s.sec := rfl
@[simp] theorem noteEvent_mgmt (s : State) (o : Nat) (g : Word → Word) : (noteEvent s o g).mgmt = s.mgmt := rfl
@[simp] theorem noteEvent_log (s : State) (o : Nat) (g : Word → Word) : (noteEvent s o g).log = s.log := rfl
@[simp] theorem noteEvent_bring (s : State) (o : Nat) (g : Word → Word) : (noteEvent s o g).bring = s.bring := rfl

/-! ## orReg -/

@[simp] theorem orReg_pending (s : State) (o : Nat) (m : Word) : (orReg s o m).pending = s.pending := rfl
@[simp] theorem orReg_free (s : State) (o : Nat) (m : Word) : (orReg s o m).free = s.free := rfl
@[simp] theorem orReg_cc (s : State) (o : Nat) (m : Word) : (orReg s o m).cc = s.cc := rfl
@[simp] theorem orReg_ccPhase (s : State) (o : Nat) (m : Word) : (orReg s o m).ccPhase = s.ccPhase := rfl
@[simp] theorem orReg_tide (s : State) (o : Nat) (m : Word) : (orReg s o m).tide = s.tide := rfl
@[simp] theorem orReg_readData (s : State) (o : Nat) (m : Word) : (orReg s o m).readData = s.readData := rfl
@[simp] theorem orReg_cores (s : State) (o : Nat) (m : Word) : (orReg s o m).cores = s.cores := rfl
@[simp] theorem orReg_routers (s : State) (o : Nat) (m : Word) : (orReg s o m).routers = s.routers := rfl
@[simp] theorem orReg_engines (s : State) (o : Nat) (m : Word) : (orReg s o m).engines = s.engines := rfl
@[simp] theorem orReg_mem (s : State) (o : Nat) (m : Word) : (orReg s o m).mem = s.mem := rfl
@[simp] theorem orReg_ueBlocks (s : State) (o : Nat) (m : Word) : (orReg s o m).ueBlocks = s.ueBlocks := rfl
@[simp] theorem orReg_host (s : State) (o : Nat) (m : Word) : (orReg s o m).host = s.host := rfl
@[simp] theorem orReg_segs (s : State) (o : Nat) (m : Word) : (orReg s o m).segs = s.segs := rfl
@[simp] theorem orReg_sets (s : State) (o : Nat) (m : Word) : (orReg s o m).sets = s.sets := rfl
@[simp] theorem orReg_parts (s : State) (o : Nat) (m : Word) : (orReg s o m).parts = s.parts := rfl
@[simp] theorem orReg_voyages (s : State) (o : Nat) (m : Word) : (orReg s o m).voyages = s.voyages := rfl
@[simp] theorem orReg_hm (s : State) (o : Nat) (m : Word) : (orReg s o m).hm = s.hm := rfl
@[simp] theorem orReg_fabric (s : State) (o : Nat) (m : Word) : (orReg s o m).fabric = s.fabric := rfl
@[simp] theorem orReg_ports (s : State) (o : Nat) (m : Word) : (orReg s o m).ports = s.ports := rfl
@[simp] theorem orReg_sites (s : State) (o : Nat) (m : Word) : (orReg s o m).sites = s.sites := rfl
@[simp] theorem orReg_power (s : State) (o : Nat) (m : Word) : (orReg s o m).power = s.power := rfl
@[simp] theorem orReg_thermal (s : State) (o : Nat) (m : Word) : (orReg s o m).thermal = s.thermal := rfl
@[simp] theorem orReg_sec (s : State) (o : Nat) (m : Word) : (orReg s o m).sec = s.sec := rfl
@[simp] theorem orReg_mgmt (s : State) (o : Nat) (m : Word) : (orReg s o m).mgmt = s.mgmt := rfl
@[simp] theorem orReg_log (s : State) (o : Nat) (m : Word) : (orReg s o m).log = s.log := rfl
@[simp] theorem orReg_bring (s : State) (o : Nat) (m : Word) : (orReg s o m).bring = s.bring := rfl

/-! ## putField -/

@[simp] theorem putField_pending (s : State) (o lo n x : Nat) : (putField s o lo n x).pending = s.pending := rfl
@[simp] theorem putField_free (s : State) (o lo n x : Nat) : (putField s o lo n x).free = s.free := rfl
@[simp] theorem putField_cc (s : State) (o lo n x : Nat) : (putField s o lo n x).cc = s.cc := rfl
@[simp] theorem putField_ccPhase (s : State) (o lo n x : Nat) : (putField s o lo n x).ccPhase = s.ccPhase := rfl
@[simp] theorem putField_tide (s : State) (o lo n x : Nat) : (putField s o lo n x).tide = s.tide := rfl
@[simp] theorem putField_events (s : State) (o lo n x : Nat) : (putField s o lo n x).events = s.events := rfl
@[simp] theorem putField_readData (s : State) (o lo n x : Nat) : (putField s o lo n x).readData = s.readData := rfl
@[simp] theorem putField_cores (s : State) (o lo n x : Nat) : (putField s o lo n x).cores = s.cores := rfl
@[simp] theorem putField_routers (s : State) (o lo n x : Nat) : (putField s o lo n x).routers = s.routers := rfl
@[simp] theorem putField_engines (s : State) (o lo n x : Nat) : (putField s o lo n x).engines = s.engines := rfl
@[simp] theorem putField_mem (s : State) (o lo n x : Nat) : (putField s o lo n x).mem = s.mem := rfl
@[simp] theorem putField_ueBlocks (s : State) (o lo n x : Nat) : (putField s o lo n x).ueBlocks = s.ueBlocks := rfl
@[simp] theorem putField_host (s : State) (o lo n x : Nat) : (putField s o lo n x).host = s.host := rfl
@[simp] theorem putField_segs (s : State) (o lo n x : Nat) : (putField s o lo n x).segs = s.segs := rfl
@[simp] theorem putField_sets (s : State) (o lo n x : Nat) : (putField s o lo n x).sets = s.sets := rfl
@[simp] theorem putField_parts (s : State) (o lo n x : Nat) : (putField s o lo n x).parts = s.parts := rfl
@[simp] theorem putField_voyages (s : State) (o lo n x : Nat) : (putField s o lo n x).voyages = s.voyages := rfl
@[simp] theorem putField_hm (s : State) (o lo n x : Nat) : (putField s o lo n x).hm = s.hm := rfl
@[simp] theorem putField_fabric (s : State) (o lo n x : Nat) : (putField s o lo n x).fabric = s.fabric := rfl
@[simp] theorem putField_ports (s : State) (o lo n x : Nat) : (putField s o lo n x).ports = s.ports := rfl
@[simp] theorem putField_sites (s : State) (o lo n x : Nat) : (putField s o lo n x).sites = s.sites := rfl
@[simp] theorem putField_power (s : State) (o lo n x : Nat) : (putField s o lo n x).power = s.power := rfl
@[simp] theorem putField_thermal (s : State) (o lo n x : Nat) : (putField s o lo n x).thermal = s.thermal := rfl
@[simp] theorem putField_sec (s : State) (o lo n x : Nat) : (putField s o lo n x).sec = s.sec := rfl
@[simp] theorem putField_mgmt (s : State) (o lo n x : Nat) : (putField s o lo n x).mgmt = s.mgmt := rfl
@[simp] theorem putField_log (s : State) (o lo n x : Nat) : (putField s o lo n x).log = s.log := rfl
@[simp] theorem putField_bring (s : State) (o lo n x : Nat) : (putField s o lo n x).bring = s.bring := rfl

end Sys2Proof.Machine
end

