-- ==== Sys2Proof/Laws/Ops.lean ====
section
/-! SUPPORT. What the shared operations can do: frames of the log, causes, registers, mailboxes and events, and that every memory operation keeps the canonical form. -/

namespace Sys2Proof.Machine

open Sys2Proof

/-! ## Frames compose -/

theorem Part.same_refl (s : State) (p : Part) : p.same s s := by cases p <;> simp [Part.same]

theorem Part.same_trans {s t u : State} {p : Part} (h : p.same s t) (k : p.same t u) : p.same s u := by
  cases p <;> simp only [Part.same] at * <;> simp_all

theorem OnlyIn.refl (l : List Part) (s : State) : OnlyIn l s s := fun p _ => Part.same_refl s p

theorem OnlyIn.trans {l : List Part} {s t u : State} (h : OnlyIn l s t) (k : OnlyIn l t u) : OnlyIn l s u :=
  fun p hp => Part.same_trans (h p hp) (k p hp)

theorem OnlyIn.mono {l l' : List Part} {s t : State} (h : OnlyIn l s t) (hl : ∀ p ∈ l, p ∈ l') : OnlyIn l' s t :=
  fun p hp => h p fun q => hp (hl p q)

theorem RegsOnly.trans {l : List Nat} {s t u : State} (h : RegsOnly l s t) (k : RegsOnly l t u) : RegsOnly l s u :=
  fun o ho => (k o ho).trans (h o ho)

theorem RegsOnly.mono {l l' : List Nat} {s t : State} (h : RegsOnly l s t) (hl : ∀ o ∈ l, o ∈ l') : RegsOnly l' s t :=
  fun o ho => h o fun q => ho (hl o q)

/-! ## Registers -/

theorem setReg_only (s : State) (o : Nat) (x : Word) : OnlyIn [.regs] s (setReg s o x) := by
  intro p hp; cases p <;> simp_all [Part.same, setReg]

theorem setReg_regs (s : State) (o : Nat) (x : Word) : RegsOnly [o] s (setReg s o x) := by
  intro p hp; simp only [List.mem_singleton] at hp; exact reg_setReg_other s x hp

theorem orReg_only (s : State) (o : Nat) (m : Word) : OnlyIn [.regs] s (orReg s o m) := by
  intro p hp; cases p <;> simp_all [Part.same]

theorem orReg_regs (s : State) (o : Nat) (m : Word) : RegsOnly [o] s (orReg s o m) := by
  intro p hp; simp only [List.mem_singleton] at hp; simp [reg_orReg, hp]

theorem putField_only (s : State) (o lo n x : Nat) : OnlyIn [.regs] s (putField s o lo n x) := setReg_only _ _ _

theorem putField_regs (s : State) (o lo n x : Nat) : RegsOnly [o] s (putField s o lo n x) := setReg_regs _ _ _

/-! ## The log and causes (13 R349, 10 R262) -/

/-- A log record changes the log alone. -/
theorem addLog_eq (s : State) (code : BitVec 16) (sev : Nat) (o : LogInfo) :
    (addLog s code sev o).1 = { s with log := (addLog s code sev o).1.log } := by
  unfold addLog
  dsimp only
  repeat' split
  all_goals rfl

theorem addLog_only (s : State) (code : BitVec 16) (sev : Nat) (o : LogInfo) : OnlyIn [.log] s (addLog s code sev o).1 := by
  rw [addLog_eq]
  intro p hp; cases p <;> simp_all [Part.same]

theorem addLog_regs (s : State) (code : BitVec 16) (sev : Nat) (o : LogInfo) : (addLog s code sev o).1.regs = s.regs :=
  (addLog_only s code sev o .regs (by decide)).1

theorem logIt_only (s : State) (code : BitVec 16) (sev : Nat) (o : LogInfo) : OnlyIn [.regs, .log] s (logIt s code sev o) := by
  unfold logIt
  have h := (addLog_only s code sev o).mono (l' := [.regs, .log]) (by decide)
  dsimp only
  split
  · exact h.trans ((orReg_only _ _ _).mono (by decide))
  · exact h

theorem reg_addLog (s : State) (code : BitVec 16) (sev : Nat) (o : LogInfo) (p : Nat) : reg (addLog s code sev o).1 p = reg s p := by
  simp [reg, addLog_regs]

theorem logIt_regs (s : State) (code : BitVec 16) (sev : Nat) (o : LogInfo) : RegsOnly [leafOff 48 0] s (logIt s code sev o) := by
  unfold logIt
  intro p hp
  simp only [List.mem_singleton] at hp
  dsimp only
  split
  · simp [reg_orReg, hp, reg_addLog]
  · exact reg_addLog s code sev o p

/-- A bit of a register word survives a log record: LOG_WRAP only adds one. -/
theorem logIt_bit (s : State) (code : BitVec 16) (sev : Nat) (o : LogInfo) (p bit : Nat) (h : (reg s p).getLsbD bit = true) :
    (reg (logIt s code sev o) p).getLsbD bit = true := by
  unfold logIt
  dsimp only
  split
  · by_cases hp : p = leafOff 48 0
    · subst hp; simp [reg_orReg, reg_addLog, h]
    · simp [reg_orReg, hp, reg_addLog, h]
  · simpa [reg_addLog] using h

theorem raise_only (s : State) (g leaf bit : Nat) (o : LogInfo) : OnlyIn [.regs, .log] s (raise s g leaf bit o) :=
  ((orReg_only _ _ _).mono (by decide)).trans (logIt_only _ _ _ _)

theorem raise_regs (s : State) (g leaf bit : Nat) (o : LogInfo) : RegsOnly (causeRegs g leaf) s (raise s g leaf bit o) :=
  ((orReg_regs _ _ _).mono (by simp [causeRegs])).trans ((logIt_regs _ _ _ _).mono (by simp [causeRegs]))

theorem bitOf_toNat (x : Word) (i : Nat) : bitOf x.toNat i = x.getLsbD i := by
  rw [Bool.eq_iff_iff]; simp [bitOf, BitVec.getLsbD, Nat.testBit_eq_decide_div_mod_eq]

theorem raise_sets (s : State) (g leaf bit : Nat) (o : LogInfo) (h : bit < 32) : causeSet (raise s g leaf bit o) g leaf bit := by
  unfold causeSet
  rw [bitOf_toNat]
  refine logIt_bit _ _ _ _ _ _ ?_
  have e : BitVec.ofNat 32 (2 ^ bit) = BitVec.twoPow 32 bit := by
    apply BitVec.eq_of_toNat_eq; simp [BitVec.toNat_twoPow]
  simp [reg_orReg, e, h]

/-- A cause that is set stays set when another is raised. -/
theorem raise_keeps (s : State) (g leaf bit g' leaf' bit' : Nat) (o : LogInfo) (h : causeSet s g' leaf' bit') :
    causeSet (raise s g leaf bit o) g' leaf' bit' := by
  unfold causeSet at *
  rw [bitOf_toNat] at *
  refine logIt_bit _ _ _ _ _ _ ?_
  by_cases hp : leafOff g' leaf' = leafOff g leaf
  · rw [hp] at h ⊢; simp [reg_orReg, h]
  · simp [reg_orReg, hp, h]

/-! ## Mailboxes -/

theorem setBoxState_only (s : State) (mb st : Nat) : OnlyIn [.hm, .regs] s (setBoxState s mb st) := by
  intro p hp; cases p <;> simp_all [Part.same, setBoxState, notIdle]

theorem reply_only (s : State) (mb status detail : Nat) (body : Bytes) : OnlyIn [.hm, .regs, .log] s (reply s mb status detail body) := by
  unfold reply
  dsimp only
  split
  · exact .refl _ _
  · refine OnlyIn.trans ?_ ((raise_only _ _ _ _ _).mono (by decide))
    refine OnlyIn.trans ?_ ((setBoxState_only _ _ _).mono (by decide))
    intro p hp; cases p <;> simp_all [Part.same, State.setBox]

/-! ## Memory keeps its canonical form -/

theorem memWf_of {s t : State} (h : s.memWf = true) (hm : SMap.wf 0 t.mem = true) (hh : t.host = s.host) : t.memWf = true := by
  simp only [State.memWf, Bool.and_eq_true] at *
  exact ⟨hm, hh ▸ h.2⟩

theorem memWf_mem {s : State} (h : s.memWf = true) : SMap.wf 0 s.mem = true := by
  simp only [State.memWf, Bool.and_eq_true] at h; exact h.1

theorem memWrite_wf (s : State) (m a : Nat) (b : Bytes) (h : s.memWf = true) : (memWrite s m a b).memWf = true :=
  memWf_of h (putList_wf _ _ (memWf_mem h)) rfl

theorem hostWrite_wf (s : State) (a : Nat) (b : Bytes) (h : s.memWf = true) : (hostWrite s a b).memWf = true := by
  simp only [State.memWf, Bool.and_eq_true, hostWrite] at *
  exact ⟨h.1, putList_wf _ _ h.2⟩

theorem zeroMem_wf (s : State) (m base len : Nat) (h : s.memWf = true) : (zeroMem s m base len).memWf = true :=
  memWf_of h (filter_wf _ (memWf_mem h)) rfl

theorem store_wf (s : State) (m a : Nat) (b : Bytes) (h : s.memWf = true) : (store s m a b).memWf = true :=
  memWrite_wf _ _ _ _ (by simpa [State.memWf, clearUe] using h)

theorem foldl_wf {α : Type} (g : State → α → State) (hg : ∀ s x, s.memWf = true → (g s x).memWf = true) (l : List α) (s : State)
    (h : s.memWf = true) : (l.foldl g s).memWf = true := by
  induction l generalizing s with
  | nil => exact h
  | cons x r ih => exact ih _ (hg s x h)

theorem sealBlocks_wf (s : State) (m a n : Nat) (h : s.memWf = true) : (sealBlocks s m a n).memWf = true := by
  unfold sealBlocks
  split
  · exact h
  · refine foldl_wf _ (fun s x hs => ?_) _ _ h
    simpa [State.memWf] using store_wf s _ _ _ hs

theorem memStore_wf (s : State) (m a : Nat) (b : Bytes) (h : s.memWf = true) : (memStore s m a b).memWf = true :=
  sealBlocks_wf _ _ _ _ (store_wf _ _ _ _ h)

theorem copyRange_wf (s : State) (m a m2 a2 len : Nat) (h : s.memWf = true) : (copyRange s m a m2 a2 len).memWf = true := by
  refine memWf_of h ?_ rfl
  have h1 := memWf_mem (zeroMem_wf s m2 a2 len h)
  have go (l : List (Nat × Byte)) (f : Nat → Nat) (mm : SMap Byte) (hm : SMap.wf 0 mm = true) :
      SMap.wf 0 (l.foldl (fun t p => put 0 t (f p.1) p.2) mm) = true := by
    induction l generalizing mm with
    | nil => exact hm
    | cons x r ih => exact ih _ (put_wf _ _ hm)
  exact go _ (fun k => k - memKey m a + memKey m2 a2) _ h1

/-- Reset memory is in canonical form. -/
theorem reset_memWf : State.reset.memWf = true := by decide

/-! ## What memory reads as after a write -/

theorem memRead_memWrite (s : State) (m a : Nat) (b : Bytes) : memRead (memWrite s m a b) m a b.length = b :=
  lookRange_putList 0 b s.mem (memKey m a)

theorem memWrite_other (s : State) (m a : Nat) (b : Bytes) : MemOnly m a b.length s (memWrite s m a b) := by
  intro x hx; exact look_putList_outside 0 b s.mem _ _ hx

theorem hostRead_hostWrite (s : State) (a : Nat) (b : Bytes) : hostRead (hostWrite s a b) a b.length = b :=
  lookRange_putList 0 b s.host a

/-! ## Frames of the fabric, events and free values -/

/-- What a one-field update leaves alone. -/
theorem updRouter_only (s : State) (r : Nat) (g : Router → Router) : OnlyIn [.routers] s (s.updRouter r g) := by
  intro p hp; cases p <;> simp_all [Part.same, State.updRouter]

theorem updCore_only (s : State) (c : Nat) (g : Core → Core) : OnlyIn [.cores] s (s.updCore c g) := by
  intro p hp; cases p <;> simp_all [Part.same, State.updCore]

theorem updEngine_only (s : State) (m : Nat) (g : Engine → Engine) : OnlyIn [.engines] s (s.updEngine m g) := by
  intro p hp; cases p <;> simp_all [Part.same, State.updEngine]

theorem arriveAt_only (s : State) (r inp : Nat) (p : Packet) (d c n : Nat) : OnlyIn [.routers] s (arriveAt s r inp p d c n) := updRouter_only _ _ _

theorem enterAt_only (s : State) (u r dst epoch : Nat) (p : Packet) : OnlyIn [.routers] s (enterAt s u r dst epoch p) := arriveAt_only _ _ _ _ _ _ _

theorem noteFlow_only (s : State) (dst : Nat) (p : Packet) : OnlyIn [.fabric] s (noteFlow s dst p) := by
  unfold noteFlow
  split
  · intro p hp; cases p <;> simp_all [Part.same, keepFlow]
  · exact .refl _ _

theorem send_only (s : State) (u dst epoch : Nat) (p : Packet) : OnlyIn [.routers, .fabric] s (send s u dst epoch p) :=
  ((noteFlow_only _ _ _).mono (by decide)).trans ((enterAt_only _ _ _ _ _ _).mono (by decide))

theorem dunitOf_ne (u : Nat) : dunitOf u ≠ 7 := by
  unfold dunitOf; repeat' split
  all_goals decide

/-- A unit without re-placement rules has none at any router. -/
theorem ruleAt_of_ruled {s : State} {u : Nat} (h : ruled s u = false) (r : Nat) : ruleAt s r u = none := by
  simp only [ruled, List.any_eq_false] at h
  unfold ruleAt State.router
  rcases look_mem {} s.routers r with hd | hm
  · rw [hd]; rfl
  · simp only [Option.map_eq_none_iff, List.find?_eq_none]
    intro y hy
    have := h _ hm
    simp only [List.any_eq_true, not_exists, not_and, Bool.not_eq_true] at this
    simpa using this y hy

/-- A packet sent to a unit that is reached where it stands waits at a router, with the destination set. -/
theorem send_sends {s : State} {dst : Nat} (h : Reached s dst) (u epoch : Nat) (p : Packet) :
    PacketSent s (send s u dst epoch p) (fun x => x.ty = p.ty ∧ x.cls = p.cls ∧ x.unit = dst ∧ x.payload = p.payload ∧ x.ref = p.ref ∧
      x.src = p.src ∧ x.dst = p.dst ∧ x.xq = p.xq ∧ x.len = p.len) ∧ OnlyIn [.routers] s (send s u dst epoch p) := by
  have hu := h.unit
  have hn : noteFlow s dst p = s := by
    unfold noteFlow; rw [if_neg]; unfold harbourUnit at hu; omega
  have hd := dunitOf_ne dst
  unfold send
  rw [hn]
  refine ⟨?_, enterAt_only _ _ _ _ _ _⟩
  have hr : ∀ r, rehead s r (headTo s r dst epoch p) = headTo s r dst epoch p := by
    intro r; unfold rehead; split
    · rw [show (headTo s r dst epoch p).unit = dst from rfl, ruleAt_of_ruled h.home]
    · rfl
  simp only [PacketSent, enterAt, hr, arriveAt]
  refine ⟨attachAt s u (homeRouter s dst), ?_⟩
  rw [State.router_updRouter_same, if_neg (show (headTo s _ dst epoch p).dunit ≠ 7 from hd)]
  exact ⟨_, rfl, by simp [headTo]⟩

theorem sendBack_only (s : State) (u : Nat) (p : Packet) : OnlyIn [.routers, .fabric, .regs, .log] s (sendBack s u p) := by
  unfold sendBack
  dsimp only
  repeat' split
  · exact .refl _ _
  · exact (send_only _ _ _ _ _).mono (by decide)
  · exact (send_only _ _ _ _ _).mono (by decide)
  · exact (raise_only _ _ _ _ _).mono (by decide)
  · exact .refl _ _

theorem setRouter_only (s : State) (r : Nat) (k : Router) : OnlyIn [.routers] s (s.setRouter r k) := by
  intro p hp; cases p <;> simp_all [Part.same]

theorem answer_only (s : State) (u : Nat) (id : BitVec 21) (p : Packet) (st : Byte) :
    OnlyIn [.routers, .fabric, .regs, .log] s (answer s u id p st) := by
  unfold answer
  dsimp only
  repeat' split
  · exact sendBack_only _ _ _
  · exact ((setRouter_only _ _ _).mono (by decide)).trans (sendBack_only _ _ _)
  · exact (setRouter_only _ _ _).mono (by decide)

theorem turnAway_only (s : State) (u : Nat) (p : Packet) : OnlyIn [.routers, .fabric, .regs, .log] s (turnAway s u p) := by
  unfold turnAway
  have h : OnlyIn [.routers, .fabric, .regs, .log] s (countRefused s) := by
    intro p hp; cases p <;> simp_all [Part.same, countRefused, countField]
  dsimp only
  split
  · exact (h.trans ((raise_only _ _ _ _ _).mono (by decide))).trans (answer_only _ _ _ _ _)
  · exact h

/-- What sending a packet from one unit to another can touch. -/
theorem inject_only (s : State) (u dst epoch : Nat) (p : Packet) : OnlyIn [.routers, .fabric, .regs, .log] s (inject s u dst epoch p) := by
  unfold inject
  split
  · exact turnAway_only _ _ _
  · exact (send_only _ _ _ _ _).mono (by decide)

/-- A packet to a unit that is reached where it stands is sent. -/
theorem inject_reached {s : State} {dst : Nat} (h : Reached s dst) (u epoch : Nat) (p : Packet) :
    inject s u dst epoch p = send s u dst epoch p := by
  unfold inject; rw [if_neg]; simp [h.lit]

theorem drawFree_only (s : State) : OnlyIn [.free] s (drawFree s).1 := by
  intro p hp; cases p <;> simp_all [Part.same, drawFree]

theorem choose_only (s : State) (n : Nat) (ok : Nat → Bool) : OnlyIn [.free] s (choose s n ok).1 := drawFree_only s

/-- A choice is one of the elements that pass, and there is one whenever some element passes. -/
theorem choose_some (s : State) (n : Nat) (ok : Nat → Bool) {i : Nat} (h : (choose s n ok).2 = some i) : i < n ∧ ok i = true := by
  simp only [choose] at h
  have h1 := List.find?_some h
  obtain ⟨k, hk, rfl⟩ := List.mem_map.1 (List.mem_of_find?_eq_some h)
  have : k < n := List.mem_range.1 hk
  exact ⟨Nat.mod_lt _ (by omega), h1⟩

theorem choose_none (s : State) (n : Nat) (ok : Nat → Bool) (h : (choose s n ok).2 = none) (i : Nat) (hi : i < n) : ok i = false := by
  simp only [choose] at h
  generalize (drawFree s).2.toNat % max 1 n = k0 at h
  have h1 := List.find?_eq_none.1 h i
  refine Bool.eq_false_iff.2 (h1 (List.mem_map.2 ⟨(i + (n - k0 % n)) % n, List.mem_range.2 (Nat.mod_lt _ (by omega)), ?_⟩))
  have hk : k0 % n < n := Nat.mod_lt _ (by omega)
  rw [← Nat.mod_add_mod, Nat.add_mod_mod, ← Nat.add_assoc]
  rw [show k0 % n + i + (n - k0 % n) = i + n by omega, Nat.add_mod_right, Nat.mod_eq_of_lt hi]

theorem setWords_only (l : List Word) (s : State) (off : Nat) : OnlyIn [.regs] s (setWords s off l) := by
  induction l generalizing s off with
  | nil => exact .refl _ _
  | cons w r ih => exact (setReg_only _ _ _).trans (ih _ _)

theorem evtPut_only (s : State) (e : EvtRec) : OnlyIn [.hm, .regs, .log] s (evtPut s e) := by
  unfold evtPut evtWrite
  dsimp only
  repeat' split
  · exact (((setWords_only _ _ _).mono (by decide)).trans ((setReg_only _ _ _).mono (by decide))).trans ((raise_only _ _ _ _ _).mono (by decide))
  · refine OnlyIn.trans ?_ ((raise_only _ _ _ _ _).mono (by decide))
    intro p hp; cases p <;> simp_all [Part.same]
  · exact (raise_only _ _ _ _ _).mono (by decide)

theorem event_only (s : State) (ty : Nat) (vid : Option Nat) (st a0 a1 : Nat) : OnlyIn [.hm, .regs, .log] s (event s ty vid st a0 a1) :=
  evtPut_only _ _

theorem finishOp_only (s : State) (a : Option Asker) (st d : Nat) (b : Bytes) : OnlyIn [.hm, .regs, .log] s (finishOp s a st d b) := by
  unfold finishOp
  repeat' split
  · exact .refl _ _
  · exact reply_only _ _ _ _ _
  · exact event_only _ _ _ _ _ _
  · exact event_only _ _ _ _ _ _

/-! ## Frames of the memories -/

theorem memWrite_only (s : State) (m a : Nat) (b : Bytes) : OnlyIn [.mem] s (memWrite s m a b) := by
  intro p hp; cases p <;> simp_all [Part.same, memWrite]

theorem store_only (s : State) (m a : Nat) (b : Bytes) : OnlyIn [.mem, .ueBlocks] s (store s m a b) := by
  intro p hp; cases p <;> simp_all [Part.same, store, memWrite, clearUe]

theorem zeroMem_only (s : State) (m base len : Nat) : OnlyIn [.mem, .ueBlocks] s (zeroMem s m base len) := by
  intro p hp; cases p <;> simp_all [Part.same, zeroMem]

theorem foldl_only {α : Type} (l : List Part) (g : State → α → State) (hg : ∀ s x, OnlyIn l s (g s x)) (xs : List α) (s : State) :
    OnlyIn l s (xs.foldl g s) := by
  induction xs generalizing s with
  | nil => exact .refl _ _
  | cons x r ih => exact (hg s x).trans (ih _)

theorem updRset_only (s : State) (i : Nat) (g : RepSet → RepSet) : OnlyIn [.sets] s (s.updRset i g) := by
  intro p hp; cases p <;> simp_all [Part.same]

theorem sealBlocks_only (s : State) (m a n : Nat) : OnlyIn [.mem, .ueBlocks, .sets] s (sealBlocks s m a n) := by
  unfold sealBlocks
  split
  · exact .refl _ _
  · exact foldl_only _ _ (fun s x => ((store_only _ _ _ _).mono (by decide)).trans ((updRset_only _ _ _).mono (by decide))) _ _

theorem memStore_only (s : State) (m a : Nat) (b : Bytes) : OnlyIn [.mem, .ueBlocks, .sets] s (memStore s m a b) :=
  ((store_only _ _ _ _).mono (by decide)).trans (sealBlocks_only _ _ _ _)

/-! ## Records of the last mooring point -/

theorem backTo_isSome (s : State) (v : Voyage) (vid : BitVec 16) (c : Nat) (lost : Bool) (h : v.ordinal = 0 ∨ coreRec v.img c = none) :
    (backTo s v vid c lost).isSome = true := by
  unfold backTo
  split
  · rfl
  · next hn =>
    dsimp only
    rw [h.resolve_left hn]
    repeat' split
    all_goals first | rfl | contradiction

theorem recordsOf_isSome (s : State) (v : Voyage) (vid : BitVec 16) (lost : List Nat) (h : v.ordinal = 0 ∨ v.img.cores = []) :
    (recordsOf s v vid lost).isSome = true := by
  unfold recordsOf
  induction voyagePositions s v with
  | nil => rfl
  | cons c l ih =>
    have hb := backTo_isSome s v vid c (decide (c ∈ lost)) (h.imp_right fun e => by simp [coreRec, e])
    obtain ⟨x, hx⟩ := Option.isSome_iff_exists.mp ih
    obtain ⟨k, hk⟩ := Option.isSome_iff_exists.mp hb
    rw [List.foldr_cons, hx, hk]
    rfl

end Sys2Proof.Machine
end

