-- ==== Sys2Proof/Tests/Slice0.lean ====
section
/-! SUPPORT. Tests of the model on small states, smoke tests of well-formedness, words of the spec's encodings, and states that meet the hypotheses of each statement. -/

namespace Sys2Proof.Tests

open Sys2Proof Sys2Proof.Machine

set_option Elab.async false

/-! ## Small states -/

/-- The outcome is a next state that passes a check. -/
def yields (o : Out) (p : State → Bool) : Bool := match o with | .next t => p t | _ => false

/-- A core that runs a manifest of one step. -/
def runs (st : Step4) : Core :=
  { seq := { manifest := [(0, encodeStep st)] }, sync := { run := .running }, misc := { vid := 7, gated := false } }

/-- Reset with core 0. -/
def at0 (k : Core) : State := State.reset.setCore 0 k

/-- Everything that Issuable asks, as a Bool. -/
def canIssue (s : State) (c : Nat) (st : Step4) : Bool :=
  decide (c < coreCount) && stepOk st &&
    stepFits (imageOf s c) (coreXY s c).1 (coreXY s c).2 (fun q => (qEnd (s.core c) q).isOpen) false st &&
    mayIssue (s.core c) st && !stalled (s.core c) s.cc st

/-- Everything that Reached asks, as a Bool. -/
def reaches (s : State) (u : Nat) : Bool := (decide (u < 5264) || decide (harbourUnit ≤ u)) && !sealedOff s u && !ruled s u

theorem reached_of {s : State} {u : Nat} (h : reaches s u = true) : Reached s u := by
  simp only [reaches, Bool.and_eq_true, Bool.or_eq_true, Bool.not_eq_true', decide_eq_true_eq] at h
  exact ⟨h.1.1, h.1.2, h.2⟩

theorem issuable_of {s : State} {c : Nat} {st : Step4} (h : canIssue s c st = true) : Issuable s c st := by
  simp only [canIssue, Bool.and_eq_true, Bool.not_eq_true', decide_eq_true_eq] at h
  exact ⟨h.1.1.1.1, h.1.1.1.2, h.1.1.2, h.1.2, h.2⟩

/-! ## Well-formedness: an ill-formed term for each check (02 R25, 03, 04) -/

def mmaF : MmaF := ⟨0, 0, 0, 0, 1, 0, false, 0, 0⟩
def mrdF : MrdF := ⟨10, 0, false, false, true, false, 0, 0, 0, 0⟩
def vrF : VrF := ⟨1, 2, 3, 0, 0, false, false, 0, 0, 0, false⟩
def vqF : VqF := ⟨0, 0, 0, 0, 0, 0, false⟩
def vkF : VkF := ⟨10, 9, 1, 7, 3, 0, true⟩
def bopenF : BopenF := ⟨0, 0, 0, 1, 5, 0, 0, false, false, true⟩

theorem test_wf_accepts : [onlyM (.mma mmaF), onlyM (.mrd mrdF), onlyV (.vfp vrF), onlyV (.vdq vqF), onlyV (.vtopk vkF),
    onlyC (.bopen bopenF), onlyS (.fset ⟨7, 1, 1⟩), onlyS .fin].all Step4.wf = true := by decide +kernel

/-- MMA: a format pair outside Table 2-4, a pair tile on an odd tile, INC on one pointer twice (03 R59). -/
theorem test_wf_mma : [MOp.mma { mmaF with fa := 15 }, .mma { mmaF with fa := 8, ed := 1 }, .mma { mmaF with inc := true, pb := 0 }].all
    (fun m => (onlyM m).wf = false) = true := by decide +kernel

/-- MRD: a reserved format, an odd pair, registers beyond V31, a pointer beside a register destination, a register beside Tier S (03 R61). MCLR: an odd pair. -/
theorem test_wf_mrd : [MOp.mrd { mrdF with fo := 11 }, .mrd { mrdF with pair := true, es := 1 }, .mrd { mrdF with vd := 31 }, .mrd { mrdF with pd := 1 },
    .mrd { mrdF with dst := false, vd := 1 }, .mclr ⟨1, true, 0⟩].all (fun m => (onlyM m).wf = false) = true := by decide +kernel

/-- The V slot: a reserved function code, a field that the instruction does not use, a scale field without scales, k above n, F7 as destination (03 R52 R67 R70 R79). -/
theorem test_wf_v : [VOp.vfp { vrF with fn := 10 }, .vint { vrF with fn := 11 }, .vint { vrF with vc := 1 }, .vcmp { vrF with fw := true, fd := 7 },
    .vsel { vrF with bb := true }, .vcvt { vrF with vb := 0, fn := 4 }, .vred { vrF with vb := 0, fn := 5 }, .vdq { vqF with fmt := 10 },
    .vdq { vqF with ps := 1 }, .vtopk { vkF with km1 := 8 }, .vtopk { vkF with fd := 7 }, .vfp { vrF with lane := 1 }].all
    (fun v => (onlyV v).wf = false) = true := by decide +kernel

/-- The C slot: CTEST and CSTAT into F7, an empty CFENCE, a berth of length 0 or beyond Tier S, an endpoint that is not bound (04 R92 to R97). -/
theorem test_wf_c : [COp.cwait ⟨0, 0, 1, 0⟩, .ctest ⟨0, 0, 7, 0⟩, .cstat 0 7, .cfence 0, .bopen { bopenF with len := 0 }, .bopen { bopenF with len := 98305 },
    .bopen { bopenF with qe := 1 }, .bclose ⟨0, 1, false⟩].all (fun c => (onlyC c).wf = false) = true := by decide +kernel

/-- The S slot: COUNT bits beside a pointer, a loop counter without UL, MODE 3, MODE 0 on F7, MOOR and END beside another slot, two writers of one register (02 R25, 04 R99 R104 R105 R110 R112). -/
theorem test_wf_s : [onlyS (.loop ⟨0, 0, true, 1⟩), onlyS (.pmov ⟨0, 0, 1, false, 0⟩), onlyS (.fset ⟨0, 3, 0⟩), onlyS (.fset ⟨7, 0, 0⟩),
    ⟨.mclr ⟨0, false, 0⟩, .nop, .nop, .moor 1⟩, ⟨.nop, .nop, .cfence 1, .fin⟩, ⟨.nop, .vtopk vkF, .cstat 0 3, .nop⟩].all
    (fun st => st.wf = false) = true := by decide +kernel

/-! ## Words written out from the spec's encodings -/

/-- 03 Table 3-5: MCLR Ed = E2, PAIR = 1, T = 1, in bits [255:176]. -/
theorem test_decode_mclr : decodeStep 0x0350040000000000000000000000000000000000000000000000000000000000 = some (onlyM (.mclr ⟨2, true, 1⟩)) := by
  decide +kernel

/-- 03 R79's example: VTOPK V10, V9, k = 2, n = 8, F3, WND 0, FW 1, in bits [175:112]. -/
theorem test_decode_vtopk : decodeStep 0x000000000000000000001A52443B200000000000000000000000000000000000 = some (onlyV (.vtopk vkF)) := by decide +kernel

/-- 04 Table 4-8: CSTAT of crane queue 3 into F2, in bits [111:48]. -/
theorem test_decode_cstat : decodeStep 0x0000000000000000000000000000000000000568000000000000000000000000 = some (onlyC (.cstat 3 2)) := by decide +kernel

/-- 04 Table 4-16: PSET P3, IMM 0x12345678, in bits [47:0]. -/
theorem test_decode_pset : decodeStep 0x083012345678 = some (onlyS (.pset ⟨3, false, 0x12345678⟩)) := by decide +kernel

/-- 02 R25: a reserved opcode and a reserved bit decode to nothing. -/
theorem test_decode_reserved : decodeStep 0x070000000000 = none ∧ decodeStep 0x030000000001 = none := by decide +kernel

/-- No row of the table gives bits. -/
theorem test_decode_table_word : decodeTableWord 256 0x083012345678 = none := rfl

/-! ## Witnesses: issue -/

/-- A core that stalls: its next issue is a cc ahead. -/
def late : Core := { runs (onlyS .nop) with seq := { (runs (onlyS .nop)).seq with nextIssue := 1 } }

theorem witness_StepsStallOrIssue_stall : decodeStep (look 0 ((at0 late).core 0).seq.manifest ((at0 late).core 0).seq.mp.toNat) = some (onlyS .nop) ∧
    stepOk (onlyS .nop) = true ∧ stalled ((at0 late).core 0) (at0 late).cc (onlyS .nop) = true := by decide +kernel

theorem witness_StepsStallOrIssue_issue : let st : Step4 := ⟨.mclr ⟨0, false, 1⟩, .vint vrF, .nop, .nop⟩
    decodeStep (look 0 ((at0 (runs st)).core 0).seq.manifest 0) = some st ∧ Issuable (at0 (runs st)) 0 st ∧ st.s = .nop ∧
    tokensReady ((at0 (runs st)).core 0) (at0 (runs st)).cc st.c = true ∧ (mSlot ((at0 (runs st)).core 0) st.m).halt = false :=
  ⟨by decide +kernel, issuable_of (by decide +kernel), rfl, by decide +kernel, by decide +kernel⟩

/-- A core in the last step of a loop of n passes, L0 at 1. -/
def looping (trips : BitVec 24) : Core :=
  { runs (onlyS .nop) with regs := { l := [(0, 1)] }, seq := { (runs (onlyS .nop)).seq with stack := [⟨true, 0, 0, 0, trips⟩] } }

theorem witness_LoopsAndStackErrors_edge : (looping 3).seq.stack = [⟨true, 0, 0, 0, 3⟩] ∧ (looping 3).seq.mp = 0 ∧
    (lReg (looping 3) 0).toNat + 1 < 3 ∧ (looping 2).seq.stack = [⟨true, 0, 0, 0, 2⟩] ∧ 2 ≤ (lReg (looping 2) 0).toNat + 1 := by decide +kernel

/-- A full loop stack. -/
def full (st : Step4) : Core := { runs st with seq := { (runs st).seq with mp := 0, stack := List.replicate 8 ⟨false, 5, 0, 0, 0⟩ } }

theorem witness_LoopsAndStackErrors_full : Issuable (at0 (full (onlyS (.loop ⟨0, 1, false, 1⟩)))) 0 (onlyS (.loop ⟨0, 1, false, 1⟩)) ∧
    loopCount ((at0 (full (onlyS (.loop ⟨0, 1, false, 1⟩)))).core 0) ⟨0, 1, false, 1⟩ ≠ 0 ∧
    8 ≤ ((at0 (full (onlyS (.loop ⟨0, 1, false, 1⟩)))).core 0).seq.stack.length ∧ Issuable (at0 (full (onlyS (.call 2)))) 0 (onlyS (.call 2)) ∧
    8 ≤ ((at0 (full (onlyS (.call 2)))).core 0).seq.stack.length ∧ Issuable (at0 (runs (onlyS .ret))) 0 (onlyS .ret) ∧
    ((at0 (runs (onlyS .ret))).core 0).seq.stack = [] ∧ (at0 (runs (onlyS .ret))).voyage 7 = none :=
  ⟨issuable_of (by decide +kernel), by decide +kernel, by decide +kernel, issuable_of (by decide +kernel), by decide +kernel,
    issuable_of (by decide +kernel), by decide +kernel, by decide +kernel⟩

theorem witness_MSlotCommandsIssue : ∀ m ∈ [MOp.nop, .mma mmaF, .mrd mrdF, .mclr ⟨7, false, 0x1FF⟩, .mst ⟨0, 0, 0, true⟩, .mld ⟨7, 15, 0, true⟩],
    canIssue (at0 (runs (onlyM m))) 0 (onlyM m) = true := by decide +kernel

theorem witness_MSlotCommandsIssue_halt : (mSlot ((at0 (runs (onlyM (.mclr ⟨7, false, 0x1FF⟩)))).core 0) (.mclr ⟨7, false, 0x1FF⟩)).halt = false := by
  decide +kernel

theorem witness_VSlotCommandsIssue : ∀ v ∈ [VOp.nop, .vld ⟨31, 15, 0, 1⟩, .vst ⟨0, 0, 0, 1⟩, .vdq vqF, .vqnt vqF, .vfp vrF, .vfpi ⟨0, 1, 9, false, 0⟩, .vint vrF,
    .vinti ⟨0, 1, 10, false, 0⟩, .vcmp vrF, .vsel { vrF with vc := 31 }, .vcvt { vrF with vb := 0 }, .vtr { vrF with vb := 0 }, .vexpd vrF,
    .vred { vrF with vb := 0 }, .vtopk vkF], canIssue (at0 (runs (onlyV v))) 0 (onlyV v) = true := by decide +kernel

/-- A pending result of a PSET. -/
def psetPend : PendOp := { slot := 3, step := 0, issued := 0, lat := 0, numeric := false, acc := false, regs := [.p 3], writes := [.p 3 9], f7 := 0, counts := [],
                            late := none, streams := [], stores := none, clash := false }
def pended : State := at0 { runs (onlyS .nop) with seq := { (runs (onlyS .nop)).seq with pend := [psetPend] } }

theorem witness_ResultsAreWrittenWhenDue : (pended.core 0).seq.pend[0]? = some psetPend ∧ dueOf psetPend ≤ pended.cc ∧
    ((pended.core 0).seq.pend.take 0).any (goesBefore psetPend) = false ∧ (resultsOf (pended.core 0) psetPend).writes = [.p 3 9] ∧
    (resultsOf (pended.core 0) psetPend).conds = [] := by decide +kernel

theorem test_result_is_written : yields (exec (.operationResultWrite 0 0) pended) (fun t => pReg (t.core 0) 3 = 9) = true := by decide +kernel

theorem witness_VectorResults_vint : Issuable (at0 (runs (onlyV (.vint vrF)))) 0 (onlyV (.vint vrF)) ∧ ((at0 (runs (onlyV (.vint vrF)))).core 0).seq.pend = [] ∧
    ((at0 (runs (onlyV (.vint vrF)))).core 0).seq.stack = [] := ⟨issuable_of (by decide +kernel), by decide +kernel, by decide +kernel⟩

/-- The last aligned range of Tier S. -/
theorem witness_VectorResults_vld : let k : Core := { regs := { p := [(0, 0x5FFE00)] } }
    ea k 0 0 64 % 64 = 0 ∧ ea k 0 0 64 + 512 = spadSize := by decide +kernel

theorem witness_AccumulationIsExact : ([some (DyOps.ofInt 1)] : List (Option Dy)).all (·.isSome) = true ∧ ({} : Elem).inv = false ∧ ({} : Elem).sat = false := by
  decide +kernel

/-- 02 R41: a sum of one above the largest element saturates. -/
theorem test_merge_saturates : mergeElem { a := BitVec.ofInt 96 (2 ^ 95 - 1) } { a := 1 } = { a := BitVec.ofInt 96 (2 ^ 95 - 1), sat := true } := by
  decide +kernel

theorem witness_CraneSlotCommandsIssue : ∀ o ∈ [COp.nop, .cxfr ⟨7, 0, 0, true⟩, .ctest ⟨7, 255, 6, 31⟩, .cpush ⟨0, 1, 5, 0⟩, .cstat 7 0, .cfence 255],
    canIssue (at0 (runs (onlyC o))) 0 (onlyC o) = true := by decide +kernel

/-- Core 0 with endpoint 0 as it is given. -/
def withQ (st : Step4) (q : QEnd) : State := at0 { runs st with sync := { run := .running, q := [(0, q)] } }

theorem witness_WaitAndBerthCommandsIssue_wait : let f : CwaitF := ⟨0, 1, 0, 0⟩
    let a := withQ (onlyC (.cwait f)) { bound := true, count := 2 }
    let b := withQ (onlyC (.cwait f)) { bound := true, count := 1, out := 1 }
    let o := withQ (onlyC (.cwait f)) { bound := true, isOpen := true }
    Issuable a 0 (onlyC (.cwait f)) ∧ 1 + 1 ≤ countAt (qEnd (a.core 0) 0) a.cc ∧ Issuable b 0 (onlyC (.cwait f)) ∧
    countAt (qEnd (b.core 0) 0) b.cc < 1 + 1 ∧ 1 + 1 ≤ countAt (qEnd (b.core 0) 0) b.cc + outAt (qEnd (b.core 0) 0) b.cc ∧
    Issuable o 0 (onlyC (.cwait f)) ∧ countAt (qEnd (o.core 0) 0) o.cc < 1 + 1 ∧ (qEnd (o.core 0) 0).isOpen = true :=
  ⟨issuable_of (by decide +kernel), by decide +kernel, issuable_of (by decide +kernel), by decide +kernel, by decide +kernel, issuable_of (by decide +kernel),
    by decide +kernel, by decide +kernel⟩

/-- A voyage without sections, of partition 0. -/
def emptyImage : Image := { dtab := 0, feat := 0, cores := [], quays := [], segmap := [], tags := [], sources := [], wins := [], reloc := [] }
def voyage0 (st : Nat) : Voyage :=
  { pid := 0, st := st, img := emptyImage, race := 0, retain := false, seed := 0, stmo := 0, segStart := 0, segHeld := false, launchTick := 0, endTick := 0,
    faults := 0, faultTicks := 0, holds := 0, holdTicks := 0, replays := 0, preempts := 0, ordinal := 0, ordReplays := 0, ordTimeouts := 0, preempt := none,
    savePhase := 0, save := none, heldRsid := none, retained := [], killer := [], ueRows := [], stopTick := 0, doneTick := none, due := [], coreFails := [], health := [], moved := [] }

/-- Core 0 in voyage 7, whose image is given. -/
def inVoyage (k : Core) (img : Image) : State := (at0 k).setVoyage 7 (some { voyage0 vRunning with img := img })
def srcImage : Image := { emptyImage with sources := [(0, 0)] }
def berthed : Core := { runs (onlyC (.bclose ⟨0, 0, false⟩)) with berths := { recs := [(0, { len := 64, isOpen := true })] } }

theorem witness_WaitAndBerthCommandsIssue_berth : let s := inVoyage { runs (onlyC (.bopen bopenF)) with regs := { p := [(0, 0x5FFFC0)] } } srcImage
    Issuable s 0 (onlyC (.bopen bopenF)) ∧ aligned (ea (s.core 0) 0 0 64) 64 + 1 * 64 = spadSize ∧ (berthOf (s.core 0) 0).isOpen = false ∧
    (berthOf (s.core 0) 0).hasLast = false ∧ Issuable (at0 berthed) 0 (onlyC (.bclose ⟨0, 0, false⟩)) ∧ (berthOf ((at0 berthed).core 0) 0).isOpen = true :=
  ⟨issuable_of (by decide +kernel), by decide +kernel, by decide +kernel, by decide +kernel, issuable_of (by decide +kernel), by decide +kernel⟩

theorem witness_SequenceSlotCommandsIssue : ∀ o ∈ [SOp.nop, .loop ⟨3, 8191, false, 1⟩, .loop ⟨0, 1, false, 0⟩, .loop ⟨0, 1, true, 0xF00000⟩, .call 8191, .xcall ⟨0, 0, 0⟩, .brf ⟨7, 31, true, 0⟩,
    .pset ⟨15, true, 1⟩, .pmov ⟨0, 1, 3, true, 65535⟩, .fset ⟨7, 1, 1⟩], canIssue (at0 (runs (onlyS o))) 0 (onlyS o) = true := by decide +kernel

/-- A core whose top frame is a call frame, and the empty segment of one step in Tier S. -/
def called : Core := { runs (onlyS .ret) with seq := { (runs (onlyS .ret)).seq with stack := [⟨false, 5, 0, 0, 0⟩] } }
def xcallF : XcallF := ⟨0, 0, 0⟩
def retStep : Core := { runs (onlyS (.xcall xcallF)) with tierS := [(5, 0x03)] }

theorem witness_SequenceSlotCommandsIssue_frames : Issuable (at0 called) 0 (onlyS .ret) ∧ ((at0 called).core 0).seq.stack = [⟨false, 5, 0, 0, 0⟩] ∧
    Issuable (at0 retStep) 0 (onlyS (.xcall xcallF)) ∧ ((at0 retStep).core 0).seq.stack.length < 8 ∧
    badStep (imageOf (at0 retStep) 0) (coreXY (at0 retStep) 0).1 (coreXY (at0 retStep) 0).2 (fun q => (qEnd ((at0 retStep).core 0) q).isOpen) (mainLoops ((at0 retStep).core 0)) overlayBase true true
      (segmentWords ((at0 retStep).core 0) (aligned (ea ((at0 retStep).core 0) 0 0 64) 64) 1) = none :=
  ⟨issuable_of (by decide +kernel), by decide +kernel, issuable_of (by decide +kernel), by decide +kernel, by decide +kernel⟩

/-- Tag 3 with core 0 as a contributor and its destination. -/
def tag3 : Binding := { tag := 3, kind := 0, dtype := 0, da := 0, db := 0, t := 0, daddr := 0, ncon := 1, cx0 := 0, cx1 := 0, cy0 := 0, cy1 := 0, qmask := 0, bmask := 0, rsvd := false }
def tagImage : Image := { emptyImage with tags := [tag3] }
def landed3 (st : Step4) : Core := { runs st with sync := { run := .running, landed := [⟨3, 1, []⟩] } }

theorem witness_SyncCommandsIssue : Issuable (at0 (runs (onlyS (.moor 9)))) 0 (onlyS (.moor 9)) ∧ moorBad ((at0 (runs (onlyS (.moor 9)))).core 0) = false ∧
    Issuable (at0 (runs (onlyS (.bar 255 true)))) 0 (onlyS (.bar 255 true)) ∧
    Issuable (inVoyage (runs (onlyS (.rsend ⟨3, 0, 0, false⟩))) tagImage) 0 (onlyS (.rsend ⟨3, 0, 0, false⟩)) ∧
    Issuable (inVoyage (landed3 (onlyS (.rwait 3))) tagImage) 0 (onlyS (.rwait 3)) ∧
    takeFirst (fun l : Landed => l.tag = 3) ((inVoyage (landed3 (onlyS (.rwait 3))) tagImage).core 0).sync.landed = some (⟨3, 1, []⟩, []) ∧
    Issuable (at0 (runs (onlyS .fin))) 0 (onlyS .fin) :=
  ⟨issuable_of (by decide +kernel), by decide +kernel, issuable_of (by decide +kernel), issuable_of (by decide +kernel), issuable_of (by decide +kernel),
    by decide +kernel, issuable_of (by decide +kernel)⟩

/-! ## Witnesses: tokens, joins, crane, berths, Tier S -/

/-- Core 0 with the synchronisation state given, in voyage 7. -/
def withSync (y : CoreSync) : State := at0 { runs (onlyS .nop) with sync := y }

def token : TokIn := localToken 0 1 0
def cwaitStep : Step4 := onlyC (.cwait ⟨0, 0, 0, 0⟩)

theorem witness_TokensAndWaits : let full (n : BitVec 16) := withSync { run := .running, tokens := [token], q := [(0, { bound := true, count := n })] }
    let w := { withSync { run := .running, waiting := some cwaitStep, waitSince := some 0, q := [(0, { bound := true, isOpen := true, limit := 1 })] } with tide := 2 }
    let d := { at0 { runs (onlyS .nop) with berths := { drains := [⟨0, { gen := 5 }, true, 0, 0, 0⟩] } } with cc := 4 }
    ((full 65534).core 0).sync.tokens = [token] ∧ token.local_ = true ∧ (qEnd ((full 65534).core 0) 0).bound = true ∧
    (qEnd ((full 65534).core 0) 0).count.toNat + token.n = 65535 ∧ (qEnd ((full 65534).core 0) 0).fresh.toNat ≤ 65534 ∧
    (qEnd ((full 65535).core 0) 0).bound = true ∧ (qEnd ((full 65535).core 0) 0).count.toNat + token.n = 65536 ∧
    (w.core 0).sync.waiting = some cwaitStep ∧ (w.core 0).sync.waitSince = some 0 ∧ (qEnd (w.core 0) 0).isOpen = true ∧ countAt (qEnd (w.core 0) 0) w.cc < 1 ∧
    (w.core 0).sync.waitLong = false ∧ (qEnd (w.core 0) 0).limit ≠ 0 ∧ 0 + (qEnd (w.core 0) 0).limit.toNat < w.tide.toNat ∧
    takeFirst (fun d : Drain => d.idx = 0) (d.core 0).berths.drains = some (⟨0, { gen := 5 }, true, 0, 0, 0⟩, []) ∧ 0 + 4 ≤ d.cc ∧ (d.core 0).berths.slots = [] := by
  decide +kernel

/-- A token of unit 5183 for an endpoint that is not bound, and one for a LOCAL endpoint. -/
def farToken : TokIn := { token with local_ := false, src := 5183 }
theorem witness_TokensAndWaits_denied : let s := withSync { run := .running, tokens := [farToken] }
    let l := withSync { run := .running, tokens := [farToken], q := [(0, { bound := true })] }
    (s.core 0).sync.tokens = [farToken] ∧ farToken.local_ = false ∧ farToken.notify = false ∧ (qEnd (s.core 0) 0).bound = false ∧
    (qEnd (l.core 0) 0).isOpen = false ∧ unitOfId s farToken.src = some 5183 ∧ Reached s 5183 ∧ (s.router (joinRouter s farToken.src)).acks = [] :=
  ⟨by decide +kernel, rfl, rfl, by decide +kernel, by decide +kernel, by decide +kernel, reached_of (by decide +kernel), by decide +kernel⟩

/-- Voyage 7 of partition 0 with one core, whose synchronisation state is given. -/
def joined (y : CoreSync) : State := { (withSync y).setVoyage 7 (some (voyage0 vRunning)) with parts := [(0, some ⟨1, 0, false, false⟩)] }

theorem witness_HoldsAndJoins_hold : let w := joined { run := .running, waiting := some (onlyS (.rwait 3)) }
    let r := joined { run := .running, holdSent := true, waiting := some (onlyS (.rwait 3)), landed := [⟨3, 0, []⟩] }
    w.canonical = true ∧ (w.core 0).sync.run = .running ∧ (w.core 0).sync.holdSent = false ∧ (w.core 0).sync.waiting = some (onlyS (.rwait 3)) ∧
    (w.core 0).sync.landed = [] ∧ r.canonical = true ∧ (r.core 0).sync.holdSent = true ∧ (r.core 0).sync.waiting = some (onlyS (.rwait 3)) ∧
    takeFirst (fun l : Landed => l.tag = 3) (r.core 0).sync.landed = some (⟨3, 0, []⟩, []) := by decide +kernel

theorem witness_HoldsAndJoins_join : let b := joined { run := .running, waiting := some (onlyS (.bar 9 true)) }
    let m := joined { run := .running, waiting := some (onlyS (.moor 9)) }
    b.canonical = true ∧ runningIn b 0 = some 7 ∧ membersOf b 7 = [0] ∧ (b.core 0).sync.run = .running ∧ (b.core 0).sync.waiting = some (onlyS (.bar 9 true)) ∧
    m.canonical = true ∧ runningIn m 0 = some 7 ∧ membersOf m 7 = [0] ∧ m.voyage 7 = some (voyage0 vRunning) ∧ (voyage0 vRunning).preempt = none ∧
    m.power.limited = [] ∧ enginesIdle m 7 = true ∧ m.sets = [] ∧ (m.core 0).sync.run = .running ∧ (m.core 0).sync.waiting = some (onlyS (.moor 9)) := by
  decide +kernel

/-- A descriptor of `len` bytes at address 0: operation, target, and length (04 Table 4-3). -/
def desc (op tgt len : Nat) : BitVec 320 := BitVec.ofNat 320 (op + 256 * tgt + 2 ^ 64 * len)
def entry (d : BitVec 320) : CraneEntry := { newEntry false 0 0 with desc := d, translated := true, ett := 1 }

/-- Core 0 with transfers in queue 0. -/
def cranes (l : List CraneEntry) : Core := { runs (onlyS .nop) with crane := { queues := [(0, l)] } }
def craning (e : CraneEntry) : Core := cranes [e]
/-- A write of three packets, the last of which is not acknowledged. -/
def sentEntry : CraneEntry := { entry (desc 1 0 600) with next := 3, open_ := [2] }

/-- The crane of core 0 with two transfers, which has read the source of the second. -/
def injecting (e : CraneEntry) : State :=
  { at0 { cranes [sentEntry, e] with cr := { crane := some (.inject 0 e.issued e.next, { io := { rd := true, left := [], seen := [(0, 9)] } }) } } with cc := 8 }

theorem witness_CraneSendsAndTranslates_inject : let e := entry (desc 1 0 1)
    let s := injecting e
    queueOf (s.core 0) 0 = [sentEntry] ++ e :: [] ∧ entrySent sentEntry = true ∧ entrySent e = false ∧ e.push = false ∧ (s.core 0).crane.rr = 0 ∧ craneRuns s 0 = true ∧
    e.suspended = false ∧ e.translated = true ∧ dOp e.desc = 1 ∧ dTgt e.desc = 0 ∧ e.ett.toNat % 4 = 1 ∧ localUnit e.ett.toNat = 0 ∧ Reached s 0 ∧
    (queueOpen (queueOf (s.core 0) 0)).length < 64 ∧ pidxTaken (queueOf (s.core 0) 0) e.next = false ∧ e.issued + 8 ≤ s.cc ∧ srcHeld s (s.core 0) e = false ∧
    craneRead (s.core 0) (.inject 0 e.issued e.next) (dAddr e.desc + pktOff e e.next) (pktLen e e.next) = some [9] :=
  ⟨by decide +kernel, by decide +kernel, by decide +kernel, rfl, by decide +kernel, by decide +kernel, rfl, rfl, by decide +kernel, by decide +kernel, by decide +kernel,
    by decide +kernel, reached_of (by decide +kernel), by decide +kernel, by decide +kernel, by decide +kernel, by decide +kernel, by decide +kernel⟩

def segEntry (sid : BitVec 16) : MapEnt := ⟨sid, 0, true, true, 0, false⟩
def mapImage : Image := { emptyImage with segmap := [segEntry 4] }
def resident : SegRec := { st := 1, mem := 2, base := 65536, len := 65536 }

theorem witness_CraneSendsAndTranslates_fill : let e := { entry (desc 1 0 64) with translated := false }
    let g := entry (desc 1 1 1)
    let s := (inVoyage (craning g) mapImage).setSeg 4 resident
    let p := (inVoyage (craning g) mapImage).setSeg 4 { resident with st := 2 }
    queueOf ((at0 (craning e)).core 0) 0 = [e] ∧ entrySent e = false ∧ e.push = false ∧ e.next = 0 ∧ takeEntry (at0 (craning e)) 0 e = .wait ∧
    s.hm.hung = none ∧ dTgt g.desc = 1 ∧ g.translated = true ∧ entrySent g = false ∧ g.push = false ∧ g.suspended = false ∧ segHit (s.core 0) (dRef g.desc) = none ∧
    mapEnt s (s.core 0).misc.vid (dRef g.desc) = some (segEntry 4) ∧ segTr (s.seg 4) = some ⟨false, 2, 65536⟩ ∧
    segTr (p.seg 4) = none ∧ (p.voyage (p.core 0).misc.vid.toNat).isSome = true := by decide +kernel

theorem witness_TransfersAreAnswered_complete : let e := { entry (desc 1 0 1) with next := 1, wb := true, addr := 0x5FFFC0 }
    let f := { e with status := 6 }
    queueOf ((at0 (cranes [sentEntry, e])).core 0) 0 = [sentEntry] ++ e :: [] ∧ entryDone sentEntry = false ∧ entryDone e = true ∧ e.push = false ∧ e.addr + 64 = spadSize ∧ (entryEnd e).1 = 0 ∧
    queueOf ((at0 (craning f)).core 0) 0 = [f] ∧ entryDone f = true ∧ (entryEnd f).1 ≠ 0 ∧ (entryEnd f).1 ≠ 8 := by decide +kernel

/-- A response and a NAK for packet 0 of queue 0. -/
def response : Packet := mkPkt 2 0 0 0 0 false [1, 2, 3, 4]
def nak : Packet := mkPkt 10 0 0 0 0 false []

/-- The crane has stored the response's data. -/
def landedJob : CoreCr := { crane := some (landUse response, writeJob 0 [] ) }

theorem witness_TransfersAreAnswered_responses : let e := { entry (desc 2 2 4) with next := 1, open_ := [0] }
    let s := at0 { craning e with crane := { queues := [(0, [sentEntry, e])], rsp := [response] }, cr := landedJob }
    queueOf (s.core 0) 0 = [sentEntry] ++ e :: [] ∧ answers response sentEntry = false ∧ answers response e = true ∧
    takeFirst (fun p => canLand s (s.core 0) p && hasLanded (s.core 0) p) (s.core 0).crane.rsp = some (response, []) ∧ response.xq = 0 ∧
    openOf e (pidxOf response) = some 0 ∧ e.status = 0 ∧ statusOf response = 0 ∧
    readsHost sentEntry = false ∧ e.open_ = [0] ∧ dOp e.desc = 2 ∧ dTgt e.desc = 2 ∧ e.push = false := by decide +kernel

theorem witness_TransfersAreAnswered_naks : let x : Packet := { response with ty := 0, unit := 5183 }
    let e := { entry (desc 1 0 4) with next := 1, open_ := [0], copies := [(0, x)] }
    let s := at0 { craning e with crane := { queues := [(0, [e])], naks := [nak] } }
    let g := { e with resends := [0, 0, 0] }
    (s.core 0).crane.naks = [nak] ∧ answers nak e = true ∧ answers nak g = true ∧ openOf e (pidxOf nak) = some 0 ∧ (e.resends.filter (· = 0)).length < 3 ∧
    e.copies.find? (fun y => y.1 = 0) = some (0, x) ∧ x.dunit ≠ 7 ∧ Reached s x.unit ∧
    3 ≤ (g.resends.filter (· = 0)).length ∧ openOf g (pidxOf nak) = some 0 :=
  ⟨by decide +kernel, by decide +kernel, by decide +kernel, by decide +kernel, by decide +kernel, by decide +kernel, by decide +kernel, reached_of (by decide +kernel),
    by decide +kernel, by decide +kernel⟩

/-- A write of 64 bytes to berth 0 of core 0, generation 5, and a read request. -/
def berthWrite : Packet := { mkPkt 0 0 0 (16 * 5) 0 true (zeros 64) with len := 1 }
def berthRead : Packet := { mkPkt 1 0 0 (16 * 5) 0 true [] with len := 1 }
def openBerth : Berth := { len := 64, gen := 5, isOpen := true, rd := true, wr := true }
def harboured (b : CoreBerths) : State := inVoyage { runs (onlyS .nop) with berths := b } srcImage
def slotOf (p : Packet) : LandSlot := ⟨0, 0x5FFFC0, p, false, 0⟩

/-- Core 0 with a slot, whose job the berth port has done. -/
def served0 (p : Packet) : State :=
  inVoyage { runs (onlyS .nop) with berths := { slots := [slotOf p] }, cr := { berth := some { io := { rd := decide (p.ty = 1), left := [], seen := [(0x5FFFC0, 7)] } } } } srcImage

theorem witness_BerthPackets : let s := harboured { recs := [(0, openBerth)], arrivals := [berthWrite] }
    let n := harboured { arrivals := [berthWrite] }
    s.canonical = true ∧ (s.core 0).berths.arrivals = [berthWrite] ∧ (s.core 0).berths.refused = [] ∧ berthCheck (s.core 0) (imageOf s 0) s.cc berthWrite = 0 ∧
    (s.core 0).berths.slots.length < 8 ∧ n.canonical = true ∧ (n.core 0).berths.arrivals = [berthWrite] ∧ berthCheck (n.core 0) (imageOf n 0) n.cc berthWrite ≠ 0 ∧
    ((served0 berthWrite).core 0).berths.slots = [slotOf berthWrite] ∧ berthWrite.ty = 0 ∧ (berthDone ((served0 berthWrite).core 0)).isSome = true ∧
    ((served0 berthRead).core 0).berths.slots = [slotOf berthRead] ∧ berthRead.ty = 1 ∧ (berthDone ((served0 berthRead).core 0)).isSome = true ∧
    unitOfId (served0 berthRead) berthRead.src = some 0 ∧ Reached (served0 berthRead) 0 :=
  ⟨by decide +kernel, by decide +kernel, by decide +kernel, by decide +kernel, by decide +kernel, by decide +kernel, by decide +kernel, by decide +kernel, by decide +kernel,
    rfl, by decide +kernel, by decide +kernel, rfl, by decide +kernel, by decide +kernel, reached_of (by decide +kernel)⟩

/-- The second packet of a transfer whose first was refused with WINDOW_CLOSED. -/
theorem witness_BerthPackets_refused : let s := harboured { recs := [(0, openBerth)], arrivals := [{ berthWrite with first := false }], refused := [(0, 0, 0, 3)] }
    (s.core 0).berths.arrivals = [{ berthWrite with first := false }] ∧ refusedWith (s.core 0) { berthWrite with first := false } = some 3 ∧ (3 : Byte) ≠ 0 ∧
    (s.core 0).berths.slots.length < 8 ∧ unitOfId s berthWrite.src = some 0 ∧ Reached s 0 ∧ (s.router (joinRouter s berthWrite.src)).acks = [] :=
  ⟨by decide +kernel, by decide +kernel, by decide +kernel, by decide +kernel, by decide +kernel, reached_of (by decide +kernel), by decide +kernel⟩

/-- The last bytes of Tier S, and a slot that the free berth port turns to. -/
theorem witness_BerthPackets_port : 0x5FFFC0 + berthWrite.payload.length = spadSize ∧ ((harboured { slots := [slotOf berthRead] }).core 0).cr.berth = none ∧
    ((harboured { slots := [slotOf berthRead] }).core 0).berths.slots = [slotOf berthRead] := by decide +kernel

/-- 06 R129: the accesses of a write job store its bytes and no other. -/
theorem test_write_job_stores : let j := (writeJob 0x5FFFFE [7, 8]).io; let k := (finishStream j.left {} j).1
    spadRead k 0x5FFFFD 3 = [0, 7, 8] := by decide +kernel

/-- Core 5183 as a member of no voyage, with what its site holds and has accessed. -/
def site (m : CoreMisc) : State := State.reset.setCore 5183 { misc := m, cr := { made := [madeOf true 128] } }

theorem witness_TierSUpkeep_errors : let s := site { writebacks := [64] }
    bankIdle (s.core 5183) 31 = true ∧ (s.core 5183).misc.writebacks = [64] ∧ bankIdle (s.core 5183) (bankOf 64) = true ∧
    madeOf true (aligned 130 64) ∈ (s.core 5183).cr.made ∧ madeOf false (aligned 130 64) ∉ (s.core 5183).cr.made ∧ s.voyage (s.core 5183).misc.vid.toNat = none := by decide +kernel

theorem witness_TierSUpkeep_voyage : let s (l : List (Nat × Nat)) := (site { vid := 7 }).setVoyage 7 (some { voyage0 vRunning with ueRows := l })
    (s []).voyage ((s []).core 5183).misc.vid.toNat = some (voyage0 vRunning) ∧ (5183, rowOf (spadSize - 1)) ∉ (voyage0 vRunning).ueRows ∧ (voyage0 vRunning).st = vRunning ∧
    ((s [(5183, rowOf 0)]).voyage ((s [(5183, rowOf 0)]).core 5183).misc.vid.toNat).map (·.ueRows) = some [(5183, rowOf 0)] ∧
    ((s [(5183, rowOf 0)]).core 5183).misc.failed = false := by decide +kernel

theorem witness_TierSUpkeep_scrubs : let s := site { scrubbing := true }
    let l := { s with cc := 8193 }
    let p := State.reset.setPart 23 (some ⟨1, 0, true, true⟩)
    (s.core 5183).misc.scrubbing = true ∧ (l.core 5183).misc.failed = false ∧ (l.core 5183).misc.scrubFrom + 8192 < l.cc ∧ l.voyage 65535 = none ∧
    coreSpareFree l (coreY 5183 / 6) (physCol l (coreY 5183 / 6) (coreX 5183 / 6)) (coreY 5183 % 6) = true ∧
    p.hm.hung = none ∧ p.part 23 = some ⟨1, 0, true, true⟩ ∧ scrubDone p (1 ||| 0) = true ∧ voyagesOf p 23 = [] := by decide +kernel

/-! ## Witnesses: the fabric -/

/-- A WRITE to core 5183, at the router of a core, and a router that holds only it. -/
def toLast : Packet := { mkPkt 0 5183 0 0 0 true [1] with dx := 71, dy := 71, unit := 5183 }
def waitingAt (p : Packet) (sent : Nat) : InPkt := ⟨0, p, 0, flitsOf p, flitsOf p, sent, 0, if sent = 0 then none else some (0, 0)⟩
def carrying (r : Nat) (q : InPkt) : State := State.reset.setRouter r { pkts := [q] }

/-- A packet of two flits, the first of which has gone on to the last router. -/
def longPkt : Packet := { toLast with payload := zeros 257 }
def behind : InPkt := { waitingAt longPkt 1 with hop := some (3, 0) }
def ahead : InPkt := { waitingAt longPkt 0 with inp := 2, came := 1, got := 1 }

/-- At the last router a packet leaves through output 0; at the router before it, east. -/
theorem witness_PacketsTravel_forward : let a := carrying 5183 (waitingAt toLast 0)
    let b := carrying 5182 (waitingAt toLast 0)
    (a.router 5183).pkts = [waitingAt toLast 0] ∧ (a.router 5183).outs = [] ∧ settleIn (a.router 5183) = a.router 5183 ∧
    hopOf a 5183 (waitingAt toLast 0) = some (0, 0) ∧ flitsOf toLast = 1 ∧ (waitingAt toLast 0).got = 1 ∧ hasRoom a 5183 0 0 toLast = true ∧ neighbour 5183 0 = none ∧
    settleIn (b.router 5182) = b.router 5182 ∧ hopOf b 5182 (waitingAt toLast 0) = some (3, 0) ∧ hasRoom b 5182 3 0 toLast = true ∧ settleIn (b.router 5183) = b.router 5183 ∧
    neighbour 5182 3 = some 5183 ∧ toLast.dunit ≠ 7 ∧ ruled b 5183 = false := by decide +kernel

theorem witness_PacketsTravel_tail : let s := (carrying 5182 behind).setRouter 5183 { pkts := [ahead] }
    settleIn (s.router 5182) = s.router 5182 ∧ settleIn (s.router 5183) = s.router 5183 ∧ hopOf s 5182 behind = some (3, 0) ∧ behind.sent < behind.got ∧
    behind.sent < flitsOf longPkt ∧ hasRoom s 5182 3 0 longPkt = true ∧ 0 < behind.sent ∧ (s.router 5183).pkts = [ahead] ∧ ahead.inp = inputOf 3 ∧
    ahead.came < flitsOf longPkt := by decide +kernel

def tokenPkt : Packet := { mkPkt 4 5183 0 7 0 true [] with unit := 5183 }
theorem witness_PacketsTravel_eject : let a := carrying 5183 (waitingAt toLast 1)
    let b := carrying 5183 (waitingAt tokenPkt 1)
    let c := carrying 5183 (waitingAt { tokenPkt with epoch := 2 } 1)
    (a.router 5183).pkts.zipIdx.find? (fun p => ejects a 5183 p.2 p.1) = some (waitingAt toLast 1, 0) ∧ epochKnown a toLast.epoch = true ∧ unreachable a 5183 = false ∧
    toLast.ty = 0 ∧ (b.router 5183).pkts.zipIdx.find? (fun p => ejects b 5183 p.2 p.1) = some (waitingAt tokenPkt 1, 0) ∧ tokenPkt.ty = 4 ∧
    (c.router 5183).pkts.zipIdx.find? (fun p => ejects c 5183 p.2 p.1) = some (waitingAt { tokenPkt with epoch := 2 } 1, 0) ∧ epochKnown c 2 = false := by decide +kernel

/-- Port 47 carries traffic, and endpoint 5183 is core 5183. -/
def portOn : State :=
  let s := putField State.reset (portOff 47) 0 4 5
  { s with fabric := { s.fabric with bank0 := [(5183, BitVec.ofNat 64 (1 + 32 * 71 + 4096 * 71))] } }
def fromPort : Packet := trailed { mkPkt 0 5183 8192 0 0 true (zeros 64) with len := 1 }
def badTrailer : Packet := { fromPort with trailer := trailerOf fromPort + 1 }
theorem trailed_trailer (p : Packet) : (trailed p).trailer = trailerOf (trailed p) := rfl
theorem next_trailer (p : Packet) : let q := { p with trailer := trailerOf p + 1 }
    q.trailer ≠ trailerOf q := by
  intro q
  have h : ∀ x : BitVec 64, x + 1 ≠ x := fun x => by bv_omega
  exact h (trailerOf p)
def ackFromPort : Packet := { mkPkt 3 5183 8192 0 0 true [] with dunit := 6, trl := true }

theorem witness_PacketsAreChecked_ports : portUp portOn 47 = true ∧ portRefuses portOn fromPort 1 = false ∧ outsideHome portOn 47 fromPort = false ∧
    fromPort.trailer = trailerOf fromPort ∧ ettEntry portOn fromPort.dst % 4 = 1 ∧ localUnit (ettEntry portOn fromPort.dst) = 5183 ∧ Reached portOn 5183 ∧
    portRefuses portOn badTrailer 1 = false ∧ outsideHome portOn 47 badTrailer = false ∧ badTrailer.trailer ≠ trailerOf badTrailer ∧
    portRefuses portOn ackFromPort 1 = true ∧ wantsAnswer ackFromPort = false :=
  ⟨by decide +kernel, by decide +kernel, by decide +kernel, trailed_trailer _, by decide +kernel, by decide +kernel, reached_of (by decide +kernel),
    by decide +kernel, by decide +kernel, next_trailer fromPort, by decide +kernel, by decide +kernel⟩

theorem witness_PacketsAreChecked_trailer : let s := carrying 5183 (waitingAt toLast 0)
    (s.router 5183).pkts[0]? = some (waitingAt toLast 0) ∧ flitsOf toLast ≤ (waitingAt toLast 0).got ∧ (waitingAt toLast 0).sent = 0 ∧
    unitOfId s toLast.src = some 0 ∧ Reached s 0 := ⟨by decide +kernel, by decide +kernel, rfl, by decide +kernel, reached_of (by decide +kernel)⟩

/-- Voyage 7 with tag 3, and the streams of core 0. -/
def stream3 : RStream := ⟨3, 7, 0, false, 50, 50, none, {}⟩
def entry3 : RtEntry := ⟨3, 7, [0], 0⟩
def merged3 : MergedOut := ⟨3, 7, 0, false, 49, 0, 0, {}⟩
def reducing (k : Core) (r : Router) : State := (inVoyage k tagImage).setRouter 0 r

theorem witness_ReductionRounds_merge : let s := reducing (runs (onlyS .nop)) { table := [entry3], streams := [stream3], outs := [merged3] }
    settleIn (s.router 0) = s.router 0 ∧ ((s.router 0).table.filter fun x => x.tag = entry3.tag) = [entry3] ∧ entryStreams (s.router 0) entry3 = some [stream3] ∧
    (s.router 0).outs = [merged3] ∧ flitsReady [stream3] = 50 := by decide +kernel

def arrived3 : MergedOut := { merged3 with merged := 50, sent := 50 }
theorem witness_ReductionRounds_landing : let k := runs (onlyS .nop)
    let s := reducing { k with cr := { red := some (3, { io := { rd := false, left := [] } }) } } { outs := [arrived3] }
    landedAt s 0 0 3 = some (arrived3, []) ∧ bindingOf s 7 3 = some tag3 ∧ tag3.tag = 3 ∧ (s.core 0).misc.vid = 7 ∧ (s.core 0).misc.scrubbing = false ∧
    redDone (s.core 0) 3 = true ∧ resultFor (reducing k { outs := [arrived3] }) 0 = some (arrived3, tag3) ∧ tag3.kind = 0 ∧
    ((reducing k { outs := [arrived3] }).core 0).cr.red = none := by decide +kernel

def contributing (y : CoreSync) : State :=
  { reducing { runs (onlyS .nop) with sync := y, cr := { crane := some (.rsend 0, { io := { rd := true, left := [] } }) } } {} with cc := 4 }
theorem witness_ReductionRounds_inject : let r : RSendRec := ⟨3, false, 0, 0, 0⟩
    let s := contributing { run := .running, rsends := [r] }
    (s.core 0).sync.rsends[0]? = some r ∧ (s.core 0).misc.fenced = false ∧ quiesced s (s.core 0).misc.vid = false ∧ (s.core 0).sync.portBusy ≤ s.cc ∧
    r.issued + 4 ≤ s.cc ∧ r.tag ∉ (s.core 0).sync.sent ∧ findTag (imageOf s 0) r.tag = some tag3 ∧
    (craneRead (s.core 0) (.rsend r.issued) r.addr (rsendBytes r.kind)).isSome = true := by decide +kernel

theorem witness_ReductionRounds_credit : let s := contributing { run := .running, credits := [3], sent := [3] }
    s.canonical = true ∧ (3 : BitVec 16) ∈ (s.core 0).sync.credits ∧ bindingOf s (s.core 0).misc.vid 3 = some tag3 := by decide +kernel

/-- Basin 23 is dark; a swap at state st. -/
def darkBasin : State := { State.reset with power := { dark := [23] } }
def swapping (st : Nat) : State := { putField State.reset ettStatusOff 3 2 st with tide := 2500000 }

theorem witness_DetoursAndBankSwap : darkBasin.hm.hung = none ∧ isDark darkBasin 23 = true ∧ 23 ∉ darkBasin.fabric.detours ∧
    ettState (swapping 1) = 1 ∧ (reg64 (swapping 1) swapTickOff).toNat = 0 ∧ ettState (swapping 2) = 2 ∧ oldCount (swapping 2) = 0 ∧
    (swapping 2).fabric.newPanel = none ∧ (swapping 2).fabric.swapper = none ∧ (swapping 2).fabric.swapTimedOut = false ∧
    (reg64 (swapping 2) swapTickOff).toNat + 2500000 = (swapping 2).tide.toNat ∧ ettState (swapping 3) = 3 ∧ (swapping 3).hm.hung = none := by decide +kernel

theorem witness_DetoursAndBankSwap_dtab : let s := { State.reset with fabric := { State.reset.fabric with dtabDue := true, dtab := [1] } }
    s.fabric.dtabDue = true ∧ s.fabric.dtab ≠ [] ∧ State.reset.fabric.dtabDue = false := by decide +kernel

theorem witness_DetoursAndBankSwap_drain : let s := (swapping 2).setRouter 0 { pkts := [waitingAt { toLast with epoch := 3 } 0] }
    ettState s = 2 ∧ oldCount s = 1 := by decide +kernel

/-- 07 R172: after the swap of epoch 0 the epoch is 1 and bank 1 is active. -/
theorem test_swap_changes_bank : yields (exec .ettSwapTick (swapping 1)) (fun t => ettEpoch t = 1 && ettBank t = 1) = true := by decide +kernel

/-! ## Witnesses: quay engines and memories -/

/-- Everything that RunReady, CleanRead and PlainWrite ask, as Bools. -/
def readyRun (s : State) (m k op : Nat) (r : QRun) (w : BitVec 512) : Bool :=
  decide (m < memCount) && decide ((s.engine m).running[k]? = some r) && decide (entryOf s m r = w) && decide (qOp w = op) && Machine.runs s m r && decide (r.status = 0)
def clean (s : State) (vid : BitVec 16) (i off n : Nat) (verify : Bool) (mm a : Nat) : Bool :=
  decide (qPlace s vid i false off n = .at_ mm a) && !suspectAt s mm a n &&
    ((readRanges s mm a n verify).all fun x => decide (errsIn s x.1 x.2.1 x.2.2 = []) && !lostIn s x.1 x.2.1 x.2.2) && (!verify || verifyRange s mm a n)
def sends (s : State) (m : Nat) (r : QRun) (w : BitVec 512) (x u : Nat) : Bool :=
  decide (runEtt s m r (sendEp w) = some x) && decide (x % 4 = 1) && decide (localUnit x = u) && decide (u < coreCount) && !noWay s u && reaches s u
def plain (s : State) (vid : BitVec 16) (i off n mm a : Nat) : Bool :=
  decide (qPlace s vid i true off n = .at_ mm a) && (copyAt s mm a).isNone

theorem runReady_of {s : State} {m k op : Nat} {r : QRun} {w : BitVec 512} (h : readyRun s m k op r w = true) : RunReady s m k op r w := by
  simp only [readyRun, Bool.and_eq_true, decide_eq_true_eq] at h
  exact ⟨h.1.1.1.1.1, h.1.1.1.1.2, h.1.1.1.2, h.1.1.2, h.1.2, h.2⟩
theorem cleanRead_of {s : State} {vid : BitVec 16} {i off n mm a : Nat} {v : Bool} (h : clean s vid i off n v mm a = true) : CleanRead s vid i off n v mm a := by
  simp only [clean, Bool.and_eq_true, Bool.or_eq_true, decide_eq_true_eq, Bool.not_eq_true', List.all_eq_true] at h
  exact ⟨h.1.1.1, h.1.1.2, h.1.2, fun hv => h.2.resolve_left (by simp [hv])⟩
theorem sendsTo_of {s : State} {m : Nat} {r : QRun} {w : BitVec 512} {x u : Nat} (h : sends s m r w x u = true) : SendsTo s m r w x u := by
  simp only [sends, Bool.and_eq_true, decide_eq_true_eq, Bool.not_eq_true'] at h
  exact ⟨h.1.1.1.1.1, h.1.1.1.1.2, h.1.1.1.2, h.1.1.2, h.1.2, reached_of h.2⟩
theorem plainWrite_of {s : State} {vid : BitVec 16} {i off n mm a : Nat} (h : plain s vid i off n mm a = true) : PlainWrite s vid i off n mm a := by
  simp only [plain, Bool.and_eq_true, decide_eq_true_eq, Option.isNone_iff_eq_none] at h
  exact ⟨h.1, h.2⟩

/-- Voyage 7, whose segment 4 lies in memory 2 at byte 65536, with engine 71 as it is given. -/
def quayed (k : Core) (e : Engine) : State := { ((inVoyage k mapImage).setSeg 4 resident).setEngine 71 e with
  fabric := { bank0 := [(0, 1)] } }
/-- Engine 71 with a run of entry 0 of a manifest. -/
def onEngine (es : List (BitVec 512)) (r : QRun) : State := quayed {} { ctxs := [newCtx 7 es], running := [r] }
/-- An entry: fields as pairs of byte offset and value (08 Table 8-7). -/
def qEntry (l : List (Nat × Nat)) : BitVec 512 := BitVec.ofNat 512 (l.foldl (fun x p => x + p.2 * 2 ^ (8 * p.1)) 0)
def run0 : QRun := newRun 7 0
def cmdPkt : Packet := mkPkt 5 5255 0 0 0 true []

theorem witness_QuayEntriesRun : let e : Engine := { ctxs := [newCtx 7 [0]], cmds := [cmdPkt] }
    let s := quayed (craning { entry (desc 3 2 0) with next := 1, open_ := [0] }) e
    let q (w : BitVec 512) := quayed {} { ctxs := [newCtx 7 [w]], running := List.replicate 7 run0, queue := [run0] }
    let far := qEntry [(0, 8), (24, 65537)]
    let chain := onEngine [qEntry [(2, 1), (4, 1)]] { run0 with done := true }
    let bad := onEngine [0] { run0 with done := true, status := 4 }
    (s.engine 71).cmds.find? (cmdWhole s (s.engine 71)) = some cmdPkt ∧ commander s cmdPkt = some (0, desc 3 2 0) ∧
    ctxOf (s.engine 71) (s.core 0).misc.vid = some (newCtx 7 [0]) ∧ (newCtx 7 [0]).entries[0]? = some 0 ∧ qTrig 0 = 0 ∧
    ((q 0).engine 71).running.length + 1 = runSlots 71 ∧ unreachable (q 0) (memUnit 71) = false ∧
    takeFirst (fun r : QRun => !unitsStopped (q 0) r.vid) ((q 0).engine 71).queue = some (run0, []) ∧ run0.buf = none ∧
    payloadDue (entryOf (q 0) 71 run0) run0.arg ≤ run0.payload.length ∧ refStatus (q 0) 71 run0 (entryOf (q 0) 71 run0) = 0 ∧
    payloadDue (entryOf (q far) 71 run0) run0.arg ≤ run0.payload.length ∧ refStatus (q far) 71 run0 (entryOf (q far) 71 run0) ≠ 0 ∧
    (chain.engine 71).running[0]? = some { run0 with done := true } ∧ qChain (entryOf chain 71 { run0 with done := true }) = true ∧
    (bad.engine 71).running[0]? = some { run0 with done := true, status := 4 } := by decide +kernel

theorem witness_QuayReadsAndWrites_qnop : RunReady (onEngine [qEntry [(3, 1)]] run0) 71 0 0 run0 (qEntry [(3, 1)]) := runReady_of (by decide +kernel)

def gatherE : BitVec 512 := qEntry [(0, 1), (16, 65472), (24, 64)]
def gatherR : QRun := { run0 with arg := 1, payload := zeros 4, ett := some 1 }
theorem witness_QuayReadsAndWrites_gather : let s := onEngine [gatherE] gatherR
    RunReady s 71 0 1 gatherR gatherE ∧ gatherR.next < gatherR.arg.toNat % 65536 ∧
    CleanRead s 7 (segA gatherE) (qField gatherE 16 8 + fieldAt gatherR.payload 0 4 * qField gatherE 24 4) (qField gatherE 24 4) (qVerify gatherE) 2 131008 ∧
    SendsTo s 71 gatherR gatherE 1 0 :=
  ⟨runReady_of (by decide +kernel), by decide +kernel, cleanRead_of (by decide +kernel), sendsTo_of (by decide +kernel)⟩
theorem witness_QuayReadsAndWrites_lookup : let r := { gatherR with ett := none }
    ((onEngine [gatherE] r).engine 71).running[0]? = some r ∧ runWaits (onEngine [gatherE] r) 71 r = true := by decide +kernel

def scatterE : BitVec 512 := qEntry [(0, 2), (16, 65472), (24, 64)]
def scatterR : QRun := { run0 with arg := 1, payload := zeros 128 }
theorem witness_QuayReadsAndWrites_scatter : let s := onEngine [scatterE] scatterR
    RunReady s 71 0 2 scatterR scatterE ∧ 64 + qField scatterE 24 4 = scatterR.payload.length ∧
    PlainWrite s 7 (segA scatterE) (qField scatterE 16 8 + fieldAt scatterR.payload 0 4 * qField scatterE 24 4) (qField scatterE 24 4) 2 131008 :=
  ⟨runReady_of (by decide +kernel), by decide +kernel, plainWrite_of (by decide +kernel)⟩

def streamE : BitVec 512 := qEntry [(0, 3), (24, 65536)]
def checkE : BitVec 512 := qEntry [(0, 9), (24, 64)]
theorem witness_QuayReadsAndWrites_stream : let s := onEngine [streamE] { run0 with next := 15, ett := some 1 }
    RunReady s 71 0 3 { run0 with next := 15, ett := some 1 } streamE ∧ qField streamE 40 1 = qField streamE 41 1 ∧ 4096 * 15 < qField streamE 24 4 ∧
    CleanRead s 7 (segA streamE) (qField streamE 16 8 + run0.arg.toNat % 2 ^ 32 * qField streamE 44 4) (qField streamE 24 4) (qVerify streamE) 2 65536 ∧
    SendsTo s 71 { run0 with next := 15, ett := some 1 } streamE 1 0 :=
  ⟨runReady_of (by decide +kernel), by decide +kernel, by decide +kernel, cleanRead_of (by decide +kernel), sendsTo_of (by decide +kernel)⟩
theorem witness_QuayReadsAndWrites_check : let s := onEngine [checkE] run0
    RunReady s 71 0 9 run0 checkE ∧
    CleanRead s 7 (segA checkE) (qField checkE 16 8 + run0.arg.toNat * qField checkE 24 4) (qField checkE 24 4) (qVerify checkE) 2 65536 :=
  ⟨runReady_of (by decide +kernel), cleanRead_of (by decide +kernel)⟩

/-- 08 Table 8-10: rows of 64 bytes, at most one row of one slot. -/
def kvE : BitVec 512 := qEntry [(0, 4), (16, 64), (20, 1), (24, 1)]
def kvR : QRun := { run0 with arg := 4096, payload := zeros 64 }
theorem witness_QuayUpdates_kvAppend : let s := onEngine [kvE] kvR
    ctxOf (s.engine 71) 7 = some (newCtx 7 [kvE]) ∧ RunReady s 71 0 4 kvR kvE ∧ bits kvR.arg.toNat 12 12 = 1 ∧ qField kvE 16 4 = kvR.payload.length ∧
    bits kvR.arg.toNat 0 12 + 1 = qField kvE 24 2 ∧ (look 0 (newCtx 7 [kvE]).lens (4096 * 0 + 0)).toNat + 1 = qField kvE 20 4 ∧
    PlainWrite s 7 (segA kvE) (bits kvR.arg.toNat 0 12 * qField kvE 20 4 * qField kvE 16 4 + 0 * qField kvE 16 4) (qField kvE 16 4) 2 65536 :=
  ⟨by decide +kernel, runReady_of (by decide +kernel), by decide +kernel, by decide +kernel, by decide +kernel, by decide +kernel,
    plainWrite_of (by decide +kernel)⟩

def attnE : BitVec 512 := qEntry [(0, 5), (16, 1)]
def attnC : QCtx := { newCtx 7 [attnE, kvE] with lens := [(4096, 1)] }
theorem witness_QuayUpdates_attn : let s := quayed {} { ctxs := [attnC], running := [run0] }
    ctxOf (s.engine 71) 7 = some attnC ∧ RunReady s 71 0 5 run0 attnE ∧ lenEntry s 71 7 attnE = kvE ∧
    attnKeys s 71 run0 attnE = (0, 0, 1) ∧ max 1 (4096 / max 1 (qField kvE 16 4)) = 64 ∧ min 64 (1 - (0 + 64 * run0.next)) = 1 ∧
    CleanRead s 7 (segA kvE) (0 + (0 + 64 * run0.next) * qField kvE 16 4) (1 * qField kvE 16 4) (qVerify attnE) 2 65536 :=
  ⟨by decide +kernel, runReady_of (by decide +kernel), by decide +kernel, by decide +kernel, by decide +kernel, by decide +kernel, cleanRead_of (by decide +kernel)⟩

def optE : BitVec 512 := qEntry [(0, 6), (1, 1), (24, 1), (29, 15)]
theorem witness_QuayUpdates_opt : let s := onEngine [optE] run0
    ctxOf (s.engine 71) 7 = some (newCtx 7 [optE]) ∧ RunReady s 71 0 6 run0 optE ∧ qField optE 29 1 = 15 ∧ elemBits (qField optE 28 1) / 8 = 1 ∧
    CleanRead s 7 (segA optE) (phaseRead s 7 (segA optE) + 4 * 0) 4096 (qVerify optE) 2 65536 ∧
    CleanRead s 7 (segB optE) (phaseRead s 7 (segB optE) + 1 * 0) (1024 * 1) (qVerify optE) 2 65536 ∧
    CleanRead s 7 (segC optE) (phaseRead s 7 (segC optE) + 1 * 0) (1024 * 1) (qVerify optE) 2 65536 ∧
    PlainWrite s 7 (segA optE) (phaseWrite s 7 (segA optE) + 4 * 0) 4096 2 65536 ∧
    PlainWrite s 7 (segB optE) (phaseWrite s 7 (segB optE) + 1 * 0) (1024 * 1) 2 65536 ∧
    PlainWrite s 7 (segC optE) (phaseWrite s 7 (segC optE) + 1 * 0) (1024 * 1) 2 65536 :=
  ⟨by decide +kernel, runReady_of (by decide +kernel), by decide +kernel, by decide +kernel, cleanRead_of (by decide +kernel),
    cleanRead_of (by decide +kernel), cleanRead_of (by decide +kernel), plainWrite_of (by decide +kernel), plainWrite_of (by decide +kernel),
    plainWrite_of (by decide +kernel)⟩

/-- Memory 2 copies the last 64 bytes of a range of 4160 to byte 8192 of the same segment. -/
def moveE (op : Nat) : BitVec 512 := qEntry [(0, op), (24, 8192), (32, 4160)]
def moveR : QRun := { run0 with next := 1 }
def mover (op : Nat) : State := ((onEngine [] run0).setEngine 2 { ctxs := [newCtx 7 [moveE op]], running := [moveR] })
theorem witness_QuayUpdates_moves : ∀ copies : Bool, let op := if copies then 10 else 7
    ctxOf ((mover op).engine 2) 7 = some (newCtx 7 [moveE op]) ∧ RunReady (mover op) 2 0 op moveR (moveE op) ∧ 4096 * 1 < qField (moveE op) 32 4 ∧
    min 4096 (qField (moveE op) 32 4 - 4096 * 1) = 64 ∧
    qPlace (mover op) 7 (segB (moveE op)) true (qField (moveE op) 24 8 + 0 * qField (moveE op) 32 4) (qField (moveE op) 32 4) = .at_ 2 73728 ∧
    copyAt (mover op) 2 (73728 + 4096 * 1) = none ∧
    CleanRead (mover op) 7 (segA (moveE op)) (qField (moveE op) 16 8 + 0 * qField (moveE op) 32 4 + 4096 * 1) 64 (qVerify (moveE op)) 2 69632
  | true => ⟨by decide +kernel, runReady_of (by decide +kernel), by decide +kernel, by decide +kernel, by decide +kernel, by decide +kernel,
      cleanRead_of (by decide +kernel)⟩
  | false => ⟨by decide +kernel, runReady_of (by decide +kernel), by decide +kernel, by decide +kernel, by decide +kernel, by decide +kernel,
      cleanRead_of (by decide +kernel)⟩

def scrubE : BitVec 512 := qEntry [(0, 8), (24, 65536)]
theorem witness_QuayUpdates_scrub : RunReady (onEngine [scrubE] run0) 71 0 8 run0 scrubE ∧
    PlainWrite (onEngine [scrubE] run0) 7 (segA scrubE) (qField scrubE 16 8) (qField scrubE 24 8) 2 65536 :=
  ⟨runReady_of (by decide +kernel), plainWrite_of (by decide +kernel)⟩

/-! ## Witnesses: memories, replica sets, segments -/

def writeAt (a : Nat) : Packet := mkPkt 0 0 0 a 0 true (zeros 64)
def readAt (a : Nat) : Packet := { mkPkt 1 0 0 a 0 true [] with len := 1 }
def remembers (e : Engine) : State := State.reset.setEngine 79 e

theorem witness_MemoriesAndReplicas_access : let w := remembers { memIn := [writeAt (memSize 79 - 64)] }
    let r := remembers { memIn := [readAt (memSize 79 - 64)] }
    let u := { r with ueBlocks := [(memKey 79 (memSize 79 - 64), .ue)] }
    unreachable w (memUnit 79) = false ∧ takeFirst (servable w 79) (w.engine 79).memIn = some (writeAt (memSize 79 - 64), []) ∧
    memAddr (writeAt (memSize 79 - 64)) + 64 = memSize 79 ∧ foreign w (writeAt (memSize 79 - 64)) = false ∧ copyAt w 79 (memSize 79 - 64) = none ∧
    takeFirst (servable r 79) (r.engine 79).memIn = some (readAt (memSize 79 - 64), []) ∧ errsIn r 79 (memSize 79 - 64) 64 = [] ∧
    lostIn r 79 (memSize 79 - 64) 64 = false ∧ unitOfId r (readAt 0).src = some 0 ∧ Reached r 0 ∧
    unreachable u (memUnit 79) = false ∧ takeFirst (servable u 79) (u.engine 79).memIn = some (readAt (memSize 79 - 64), []) ∧
    foreign u (readAt (memSize 79 - 64)) = false ∧ errsIn u 79 (memSize 79 - 64) 64 = [(memKey 79 (memSize 79 - 64), .ue)] ∧
    copyAt u 79 (memSize 79 - 64) = none ∧ lostIn u 79 (memSize 79 - 64) 64 = false ∧ (u.router (joinRouter u (readAt 0).src)).acks = [] ∧ Reached u 0 :=
  ⟨by decide +kernel, by decide +kernel, by decide +kernel, by decide +kernel, by decide +kernel, by decide +kernel, by decide +kernel, by decide +kernel,
    by decide +kernel, reached_of (by decide +kernel), by decide +kernel, by decide +kernel, by decide +kernel, by decide +kernel, by decide +kernel,
    by decide +kernel, by decide +kernel, reached_of (by decide +kernel)⟩

theorem test_hot_above_85 : yields (exec (.stackTempRead 79 8500) State.reset) (fun t => !(t.engine 79).hot) = true ∧
    yields (exec (.stackTempRead 79 8501) State.reset) (fun t => (t.engine 79).hot && bitOf (reg t (leafOff 33 0)).toNat 4) = true := by decide +kernel

theorem witness_MemoriesAndReplicas_upkeep : let s := remembers { patrol := memSize 79 / 64 - 1 }
    (s.engine 79).selfRefresh = false ∧ (s.engine 79).lost = false ∧ errsIn s 79 (64 * (s.engine 79).patrol) 64 = [] ∧
    64 * (s.engine 79).patrol + 64 = memSize 79 ∧ look .good s.ueBlocks (memKey 79 (64 * (s.engine 79).patrol)) = .good ∧ copyAt s 79 (64 * (s.engine 79).patrol) = none := by decide +kernel

/-- A set of one block in segments 1 and 2, both copies of generation 0 in empty memory. -/
def twoCopies : RepSet :=
  { copies := 2, phases := 1, gen := 0, dlen := 65536, seg := [1, 2, 0xFFFF], srcEp := 0, srcOff := 0, audit := 0, auditPos := 0, ready := true,
    load := none, exported := false, cap := 7200, suspects := [] }
def copySeg (m : Nat) : SegRec := { st := 1, mem := m, len := 131072, rsid := 3 }
def paired (x : RepSet) : State := ((State.reset.setSeg 1 (copySeg 0)).setSeg 2 (copySeg 3)).setRset 3 (some x)

/-- The record of a block of zeros at generation 0, in both copies of twoCopies. -/
def zeroRecord : Bytes := checkRecord twoCopies 0 0 (zeros 65536)
def auditable : State := memWrite (memWrite (paired twoCopies) 0 65536 zeroRecord) 3 65536 zeroRecord

theorem zeroRecord_length : zeroRecord.length = 16 := rfl

theorem auditable_record : ∀ m ∈ [0, 3], memRead auditable m 65536 16 = zeroRecord := by
  have h3 : memRead auditable 3 65536 16 = zeroRecord := memRead_memWrite _ 3 65536 zeroRecord
  have h0 : memRead auditable 0 65536 16 = memRead (memWrite (paired twoCopies) 0 65536 zeroRecord) 0 65536 16 := by
    simp only [memRead, lookRange, List.map_inj_left, List.mem_range]
    intro i hi
    apply memWrite_other
    rw [zeroRecord_length]
    simp only [memKey]
    omega
  intro m hm
  rcases List.mem_cons.mp hm with rfl | hm
  · exact h0.trans (memRead_memWrite _ 0 65536 zeroRecord)
  · rcases List.mem_singleton.mp hm with rfl
    exact h3

theorem auditable_data : ∀ m ∈ [0, 3], memRead auditable m 0 65536 = zeros 65536 := by
  intro m hm
  have hm' : m = 0 ∨ m = 3 := by simpa using hm
  simp only [memRead, lookRange, zeros]
  rw [List.map_eq_replicate_iff.mpr, List.length_range]
  intro i hi
  rw [List.mem_range] at hi
  rw [auditable, memWrite_other, memWrite_other]
  · rfl
  all_goals
    rw [zeroRecord_length]
    simp only [memKey]
    omega

theorem witness_MemoriesAndReplicas_audit : let s := auditable
    s.rset 3 = some twoCopies ∧ twoCopies.ready = true ∧ 0 < phaseBlocks twoCopies ∧ unreachable s (memUnit (ownerMem s twoCopies)) = false ∧ copiesOf twoCopies = [(0, 1), (1, 2)] ∧
    twoCopies.suspects = [] ∧ Machine.updating s 3 = false ∧ writingBlock s twoCopies 0 = false ∧
    (∀ p ∈ copiesOf twoCopies, unreachable s (memUnit (blockAt s twoCopies p.2 0).1) = false ∧
      errsIn s (blockAt s twoCopies p.2 0).1 (blockAt s twoCopies p.2 0).2 blockBytes = [] ∧
      errsIn s (recordAt s twoCopies p.2 0).1 (recordAt s twoCopies p.2 0).2 16 = [] ∧ intact s twoCopies p.2 0 = true) ∧
    (∀ p ∈ copiesOf twoCopies, ∀ q ∈ copiesOf twoCopies, blockGen s twoCopies p.2 0 = blockGen s twoCopies q.2 0 ∧
      blockData s twoCopies p.2 0 = blockData s twoCopies q.2 0) := by
  have hb (x : Nat × Nat) (h : x ∈ copiesOf twoCopies) :
      blockData auditable twoCopies x.2 0 = zeros 65536 ∧ blockRecord auditable twoCopies x.2 0 = zeroRecord := by
    have hx : x = (0, 1) ∨ x = (1, 2) := by simpa [show copiesOf twoCopies = [(0, 1), (1, 2)] from rfl] using h
    rcases hx with rfl | rfl
    · exact ⟨auditable_data 0 (by decide), auditable_record 0 (by decide)⟩
    · exact ⟨auditable_data 3 (by decide), auditable_record 3 (by decide)⟩
  have hg (x : Nat × Nat) (h : x ∈ copiesOf twoCopies) : blockGen auditable twoCopies x.2 0 = 0 := by
    rw [blockGen, (hb x h).2]; rfl
  refine ⟨by decide +kernel, rfl, by decide +kernel, by decide +kernel, rfl, rfl, by decide +kernel, by decide +kernel, fun p hp => ⟨?_, rfl, rfl, ?_⟩, fun p hp q hq => ⟨?_, ?_⟩⟩
  · revert p; decide +kernel
  · rw [intact, hg p hp, (hb p hp).1, (hb p hp).2]
    have h1 : ∀ x ∈ copiesOf twoCopies, (!unreachable auditable (memUnit (blockAt auditable twoCopies x.2 0).1) &&
      !ueIn auditable (blockAt auditable twoCopies x.2 0).1 (blockAt auditable twoCopies x.2 0).2 blockBytes &&
      !ueIn auditable (recordAt auditable twoCopies x.2 0).1 (recordAt auditable twoCopies x.2 0).2 16) = true := by decide +kernel
    simp only [h1 p hp, zeroRecord, decide_true, Bool.and_self]
  · rw [hg p hp, hg q hq]
  · rw [(hb p hp).1, (hb q hq).1]

/-- The set with block 0 suspect: its third copy not asked for, and all of its data fetched but not the record. -/
def suspected : RepSet := { twoCopies with suspects := [{ block := 0, deadline := some 5, pair := [1, 2] }] }
def fetched : Suspect := { block := 0, deadline := some 5, pair := [1, 2], got := zeros 65536, asked := some 0 }
def fetching : RepSet := { twoCopies with suspects := [fetched] }
def lastPart : Packet := mkPkt 2 0 0 0 0 false (zeros 64)
def receiving : State := (paired fetching).setEngine 0 { memIn := [lastPart] }

theorem witness_MemoriesAndReplicas_third : let s := { paired suspected with tide := 5 }
    let r := { (putField (paired suspected) (portOff 47) 0 4 5) with fabric := { State.reset.fabric with bank0 := [(0, 0x8000000000000002)] } }
    suspectOf suspected 0 = some ({ block := 0, deadline := some 5, pair := [1, 2] }, 5) ∧ 5 ≤ s.tide.toNat ∧ s.voyages = [] ∧
    r.rset 3 = some suspected ∧ epOut r (ownerMem r suspected) suspected.srcEp = some (47, false) ∧ sealedOff r (portUnit 47) = false := by decide +kernel

theorem zeros_length (n : Nat) : (zeros n).length = n := List.length_replicate
theorem zeros_append (m n : Nat) : zeros m ++ zeros n = zeros (m + n) := List.replicate_append_replicate
theorem zeros_take (m n : Nat) (h : n ≤ m) : (zeros m).take n = zeros n := by rw [zeros, List.take_replicate, Nat.min_eq_left h, zeros]
theorem zeros_map (n : Nat) : (List.range n).map (fun _ => (0 : Byte)) = zeros n := by rw [zeros, List.map_const', List.length_range]
theorem zeros_slice (m o n : Nat) (h : o + n ≤ m) : slice (zeros m) o n = zeros n := by
  have h1 : ((zeros m).drop o).take n = zeros n := by
    rw [zeros, List.drop_replicate, List.take_replicate, Nat.min_eq_left (by omega), zeros]
  simp only [slice, h1, zeros_length, Nat.sub_self, zeros_append, Nat.add_zero]

theorem witness_MemoriesAndReplicas_fetched : receiving.rset 3 = some fetching ∧ suspectOf fetching 0 = some (fetched, 5) ∧ fetched.asked = some 0 ∧
    (takeAnswer receiving (ownerMem receiving fetching) 0).map (·.1) = some lastPart ∧ lastPart.ty = 2 ∧
    fetched.got ++ slice lastPart.payload 0 (srcNext fetching 0 fetched.got.length).2 = zeros 65600 ∧ blockBytes + 64 ≤ (zeros 65600).length ∧ 1 ∈ fetched.pair ∧
    blockGen receiving fetching 1 0 = BitVec.ofNat 16 (fieldAt (gotRecord fetching 0 (zeros 65600)) 0 2) ∧
    blockData receiving fetching 1 0 = (zeros 65600).take blockBytes := by
  have hl : fetched.got.length = 65536 := zeros_length _
  have hs : slice lastPart.payload 0 64 = zeros 64 := by decide +kernel
  have hg : gotRecord fetching 0 (zeros 65600) = zeros 16 := zeros_slice 65600 65536 16 (by decide)
  refine ⟨rfl, rfl, rfl, by decide +kernel, rfl, ?_, ?_, by decide +kernel, ?_, ?_⟩
  · rw [hl]
    show zeros 65536 ++ slice lastPart.payload 0 64 = zeros 65600
    rw [hs, zeros_append]
  · rw [zeros_length]; decide
  · rw [hg]; decide +kernel
  · show (List.range 65536).map (fun _ => (0 : Byte)) = (zeros 65600).take 65536
    rw [zeros_map, zeros_take _ _ (by decide)]

/-- Segment 4 of voyage 7 on its way to memory 5, and core 0 with a transfer on it. -/
def moving (waiting : List Nat) : SegMoveSt :=
  { waiting := waiting, tierB := false, mem := 5, base := 0, toState := 1, prio := 0, home := 5, asker := none, copied := false }
def waitingEntry : CraneEntry := { entry (desc 1 1 64) with suspended := true }
def faulted (r : SegRec) : State := (inVoyage (craning waitingEntry) mapImage).setSeg 4 r

theorem witness_SegmentsMove : let a := State.reset.setSeg 4 { resident with st := 2, move := some (moving [5263]) }
    let b := State.reset.setSeg 4 { resident with st := 2, move := some (moving []) }
    let p : SegRec := { resident with st := 3, tierB := true, home := 71 }
    a.canonical = true ∧ inFlight a 5263 4 = false ∧ b.canonical = true ∧ b.hm.hung = none ∧ (b.seg 4).move = some (moving []) ∧
    (faulted resident).canonical = true ∧ ((faulted resident).seg 4).st = 1 ∧ queueOf ((faulted resident).core 0) 0 = [waitingEntry] ∧ entrySent waitingEntry = false ∧ waitingEntry.suspended = true ∧
    entryOn (faulted resident) ((faulted resident).core 0).misc.vid 4 waitingEntry = true ∧
    (faulted p).canonical = true ∧ ((faulted p).seg 4).st = 3 ∧ entryOn (faulted p) ((faulted p).core 0).misc.vid 4 waitingEntry = true ∧
    segFits (faulted p) 71 0 p.len = true := by decide +kernel

/-! ## Witnesses: pre-emption -/

/-- Voyage 65534 with core 0. -/
def voyaging (k : Core) (v : Voyage) : State := (at0 { k with misc := { k.misc with vid := 65534 } }).setVoyage 65534 (some v)
def asked : PreemptReq := ⟨none, false, true, some 9⟩
def saving (q : Option PreemptReq) : Voyage := { voyage0 vSaving with preempt := q }
def request : Msg := { bytes := [], ty := 0x34, seq := 1, tick := 0, timeout := none, begun := true, ord := 0 }
def asker15 : Asker := ⟨15, 0x34, 1, some 65534⟩

theorem witness_DeadlinesAndEnds_deadline : let s (q : PreemptReq) : State :=
      { (voyaging {} (saving (some q))).setBox 15 { st := 2, msg := some request } with tide := 9 }
    (s asked).voyage 65534 = some (saving (some asked)) ∧ (saving (some asked)).st = vSaving ∧ 9 = (s asked).tide.toNat ∧
    ((s { asked with esc := false, asker := some asker15 }).box 15).msg = some request ∧ request.seq = asker15.seq ∧ request.ty = asker15.ty ∧
    asker15.mb < boxCount := by decide +kernel

def endedCore : Core := { sync := { run := .ended } }
theorem witness_DeadlinesAndEnds_end : let s := voyaging endedCore (voyage0 vRunning)
    s.canonical = true ∧ s.hm.hung = none ∧ s.voyage 65534 = some (voyage0 vRunning) ∧ complete s 65534 = true ∧ (voyage0 vRunning).race = 0 ∧
    (voyage0 vRunning).retain = false ∧ (voyage0 vRunning).preempt = none ∧ (voyage0 vRunning).savePhase = 0 ∧ evtHeld s < 1024 := by decide +kernel

def phase (n : Nat) (g : Option SaveImg) : Voyage := { voyage0 vSaving with savePhase := n, save := g }
def image0 : SaveImg := { hard := true, dtab := 0, basins := 1, cores := [(5183, {})], streams := [], outs := [], ctxs := [], runs := [], moors := [], stores := [], parked := false }

theorem witness_HardSavesRunInPhases : let s (n : Nat) : State := voyaging (runs (onlyS .nop)) (phase n (some image0))
    (∀ n ∈ [1, 2, 3, 4, 5], (s n).canonical = true ∧ (s n).hm.hung = none ∧ (s n).voyage 65534 = some (phase n (some image0)) ∧ (phase n (some image0)).due = []) ∧
    transfersQuiet (s 2) 65534 = true ∧ (∀ c ∈ coresOf (s 2) 65534, ((s 2).core c).berths.slots = []) ∧
    berthsQuiet (s 3) 65534 = true ∧ roundsQuiet (s 3) 65534 = true ∧ slotsHeld (s 3) 65534 (coresOf (s 3) 65534) = false ∧
    (∀ r ∈ capturedRouters (capture (s 4) 65534 (phase 4 (some image0)) image0),
      (captureBytes (capturedAt (capture (s 4) 65534 (phase 4 (some image0)) image0) r)).length ≤ 0x90000) ∧ (phase 5 (some image0)).preempt = none ∧ evtHeld (s 5) < 1024 := by
  decide +kernel

def parkable (cs : List (Nat × Core)) : Voyage := { voyage0 vPreempted with save := some { image0 with cores := cs } }
theorem witness_HardSavesRunInPhases_park : ∀ cs ∈ [[], [(5183, ({} : Core))]], (voyaging {} (parkable cs)).canonical = true ∧
    (voyaging {} (parkable cs)).voyage 65534 = some (parkable cs) ∧ (parkable cs).st = vPreempted ∧
    image0.hard = true ∧ image0.parked = false ∧ (cs = [] → stagingParts (parkable cs) { image0 with cores := cs } = []) := by decide +kernel

/-! ## Witnesses: mailboxes and messages -/

/-- Everything that MsgServed asks, as a Bool. -/
def servedB (s : State) (mb ty need len : Nat) (fields : List (Nat × Nat)) (m : Msg) : Bool :=
  decide (mb < boxCount) && decide ((s.box mb).msg = some m) && decide (m.ty.toNat = ty) && !m.begun && decide (s.hm.hung = none) && !earlier s mb m &&
    decide (need ≤ stage s) && wellFormed m len fields
theorem served_of {s : State} {mb ty need len : Nat} {fs : List (Nat × Nat)} {m : Msg} (h : servedB s mb ty need len fs m = true) :
    MsgServed s mb ty need len fs m := by
  simp only [servedB, Bool.and_eq_true, decide_eq_true_eq, Bool.not_eq_true'] at h
  exact ⟨h.1.1.1.1.1.1.1, h.1.1.1.1.1.1.2, h.1.1.1.1.1.2, h.1.1.1.1.2, h.1.1.1.2, h.1.1.2, h.1.2, h.2⟩

/-- A message of `len` bytes: its type and, from byte 16 on, fields as pairs of offset and value. -/
def mkMsg (ty len : Nat) (l : List (Nat × Nat)) : Msg :=
  { bytes := leBytes len (1 + ty * 2 ^ 32 + len * 2 ^ 48 + l.foldl (fun x p => x + p.2 * 2 ^ (8 * p.1)) 0), ty := BitVec.ofNat 16 ty, seq := 1, tick := 0,
    timeout := some 0, begun := false, ord := 0 }
/-- A state at stage 9 whose last mailbox holds a message. -/
def messaged (s : State) (m : Msg) : State := (putField s (hmBase + 4) 0 4 9).setBox 15 { st := 2, msg := some m }

/-- A write up to byte 2 does not submit; one of byte 3 does. -/
theorem witness_MailboxesServe_submit : (State.reset.box 15).st = 0 ∧ 4093 + ([1, 2, 3] : Bytes).length = 4096 ∧ ¬(0 ≤ 3 ∧ 3 < 0 + ([1, 2, 3] : Bytes).length) ∧
    (3 ≤ 3 ∧ 3 < 3 + ([1] : Bytes).length) ∧ ((State.reset.setBox 15 { st := 2 }).box 15).st ≠ 0 := by decide +kernel

def submitted (ty : Byte) : State := State.reset.setBox 15 { st := 1, req := [(4, ty)] }
theorem witness_MailboxesServe_accept : ((submitted 1).box 15).st = 1 ∧ (submitted 1).hm.hung = none ∧ (submitted 1).hm.idle.state = 0 ∧
    (msgType (fieldAt (lookRange 0 ((submitted 1).box 15).req 0 4096) 4 2)).isSome = true ∧
    msgType (fieldAt (lookRange 0 ((submitted 8).box 15).req 0 4096) 4 2) = none := by decide +kernel

theorem witness_MailboxesServe_timeout : let s := messaged {} (mkMsg 1 16 [])
    (s.box 15).msg = some (mkMsg 1 16 []) ∧ s.hm.hung = none ∧ (mkMsg 1 16 []).timeout = some 0 ∧ (mkMsg 1 16 []).tick + 0 ≤ s.tide.toNat ∧ msgType (mkMsg 1 16 []).ty.toNat = some (250000, false) := by decide +kernel

/-- For each type of a fixed length a message with a reserved byte set, at stage 9, and at stage 0. -/
theorem witness_MailboxesServe_bad : ∀ x ∈ fixedMessages, let m := mkMsg x.2.1 20 [(12, 1)]
    let s := messaged {} m
    (s.box 15).msg = some m ∧ m.begun = false ∧ s.hm.hung = none ∧ earlier s 15 m = false ∧ m.ty.toNat = x.2.1 ∧ x.2.2.1 ≤ stage s ∧
    wellFormed m x.2.2.2.1 x.2.2.2.2 = false := by decide +kernel
theorem witness_MailboxesServe_notReady : let s := State.reset.setBox 15 { st := 2, msg := some (mkMsg 0x37 20 []) }
    (s.box 15).msg = some (mkMsg 0x37 20 []) ∧ s.hm.hung = none ∧ wellFormed (mkMsg 0x37 20 []) 20 [(16, 2)] = true ∧ earlier s 15 (mkMsg 0x37 20 []) = false ∧ stage s < 9 := by decide +kernel

def logMsg (which : Nat) : Msg := mkMsg 2 36 [(16, 4096), (24, 65536), (32, which)]
def dump0 : Dump := { reason := 1, tick := 0, vid := 0xFFFF, pid := 255, logSeq := 0, keyId := 0, iv := [], sections := [], read := false }
theorem witness_DeviceMessagesAnswer_log : MsgServed (messaged {} (mkMsg 1 16 [])) 15 0x01 0 16 [] (mkMsg 1 16 []) ∧
    MsgServed (messaged {} (logMsg 0)) 15 0x02 0 36 [(16, 8), (24, 8), (32, 1)] (logMsg 0) ∧ mf (logMsg 0) 32 1 = 0 ∧
    (logFile (messaged {} (logMsg 0))).length ≤ mf (logMsg 0) 24 8 ∧
    MsgServed (messaged { log := { dumps := [dump0] } } (logMsg 1)) 15 0x02 0 36 [(16, 8), (24, 8), (32, 1)] (logMsg 1) ∧ mf (logMsg 1) 32 1 = 1 ∧
    (messaged { log := { dumps := [dump0] } } (logMsg 1)).log.dumps.getLast? = some dump0 :=
  ⟨served_of (by decide +kernel), served_of (by decide +kernel), by decide +kernel, by decide +kernel, served_of (by decide +kernel), by decide +kernel,
    by decide +kernel⟩

/-- A dump without sections is its header alone, whatever the cryptography gives (13 Table 13-11). -/
theorem witness_DeviceMessagesAnswer_dump : (dumpFile dump0).length = 64 ∧ 64 ≤ mf (logMsg 1) 24 8 :=
  ⟨by simp [dumpFile, dumpHead, dump0, dumpDir, leBytes, dumpLen], by decide +kernel⟩

def latencyMsg : Msg := mkMsg 3 20 [(16, 5)]
def dtabMsg : Msg := mkMsg 6 32 [(16, 4096), (24, dtabLen)]
def healthMsg (vid : Nat) : Msg := mkMsg 7 20 [(16, vid)]
theorem witness_DeviceMessagesAnswer_rest : MsgServed (messaged {} latencyMsg) 15 0x03 9 20 [(16, 4)] latencyMsg ∧
    MsgServed (messaged {} dtabMsg) 15 0x06 7 32 [(16, 8), (24, 8)] dtabMsg ∧ dtabLen = mf dtabMsg 24 8 ∧
    MsgServed (messaged (voyaging {} (voyage0 vRunning)) (healthMsg 65534)) 15 0x07 9 20 [(16, 2)] (healthMsg 65534) ∧ mf (healthMsg 65534) 16 2 ≠ 0xFFFF ∧
    (messaged (voyaging {} (voyage0 vRunning)) (healthMsg 65534)).voyage (mf (healthMsg 65534) 16 2) = some (voyage0 vRunning) ∧
    MsgServed (messaged {} (healthMsg 0xFFFF)) 15 0x07 9 20 [(16, 2)] (healthMsg 0xFFFF) ∧ mf (healthMsg 0xFFFF) 16 2 = 0xFFFF :=
  ⟨served_of (by decide +kernel), served_of (by decide +kernel), by decide +kernel, served_of (by decide +kernel), by decide +kernel, by decide +kernel,
    served_of (by decide +kernel), by decide +kernel⟩

/-- ETT_WRITE of the last entry, LOCAL to core 0. -/
def ettMsg : Msg := mkMsg 0x10 32 [(16, 0x1FFFFF), (20, 1), (24, 1)]
def swapMsg : Msg := mkMsg 0x11 16 []
def panelMsg : Msg := mkMsg 4 20 [(16, 255)]
def transitMsg (v : Nat) : Msg := mkMsg 5 24 [(16, v)]
theorem witness_FabricMessagesAct : 1 = mf ettMsg 20 2 ∧ MsgServed (messaged {} ettMsg) 15 0x10 7 (24 + 8 * 1) [(16, 4), (20, 2), (24, 8 * 1)] ettMsg ∧
    mf ettMsg 16 4 + 1 = 0x200000 ∧ (∀ i, i < 1 → ettOk (mf ettMsg (24 + 8 * i) 8) = true) ∧ ettState (messaged {} ettMsg) = 0 ∧
    MsgServed (messaged {} swapMsg) 15 0x11 7 16 [] swapMsg ∧ ettState (messaged {} swapMsg) = 0 ∧
    MsgServed (messaged {} panelMsg) 15 0x04 7 20 [(16, 1)] panelMsg ∧ (messaged {} panelMsg).voyages = [] ∧ ettState (messaged {} panelMsg) = 0 :=
  ⟨by decide +kernel, served_of (by decide +kernel), by decide +kernel, by decide +kernel, by decide +kernel, served_of (by decide +kernel), by decide +kernel,
    served_of (by decide +kernel), by decide +kernel, by decide +kernel⟩

theorem witness_FabricMessagesAct_transit : let s := messaged {} (transitMsg 0)
    let u := messaged {} (transitMsg (2 ^ 47))
    MsgServed s 15 0x05 7 24 [(16, 8)] (transitMsg 0) ∧ (∀ p, p < portCount → bitOf (mf (transitMsg 0) 16 8) p = false) ∧
    MsgServed u 15 0x05 7 24 [(16, 8)] (transitMsg (2 ^ 47)) ∧ mf (transitMsg (2 ^ 47)) 16 8 < 2 ^ 48 ∧ bitOf (mf (transitMsg (2 ^ 47)) 16 8) 47 = true ∧
    portLicensed u 47 = false :=
  ⟨served_of (by decide +kernel), by decide +kernel, served_of (by decide +kernel), by decide +kernel, by decide +kernel, by decide +kernel⟩

/-! ## Witnesses: segment, replica, partition and voyage messages -/

def createMsg : Msg := mkMsg 0x20 32 [(16, 65536), (24, 0), (25, 71), (26, 1), (27, 0xFF), (28, 3)]
def releaseMsg : Msg := mkMsg 0x21 20 [(16, 65534), (18, 255)]
def moveMsg : Msg := mkMsg 0x22 24 [(16, 65534), (18, 255), (19, 1), (20, 7), (21, 0), (22, 0xFF)]
def loadedMsg : Msg := mkMsg 0x23 20 [(16, 65534), (18, 255)]
/-- Segment 65534 of the last generation at the end of memory 71. -/
def lastSeg (st : Nat) : SegRec := { st := st, mem := 71, gen := 255, base := 0xBE1A00000 - 65536, len := 65536 }
def segs (r : SegRec) (m : Msg) : State := messaged (orReg (State.reset.setSeg 65534 r) (secBase + 0xC) 0xFFFFFFFF) m
theorem witness_SegmentMessagesAct_create : let s := messaged {} createMsg
    s.canonical = true ∧ false = decide (mf createMsg 24 1 = 1) ∧ MsgServed s 15 0x20 9 32 [(16, 8), (24, 1), (25, 1), (26, 1), (27, 1), (28, 1)] createMsg ∧
    mf createMsg 16 8 % 65536 = 0 ∧ 0 < mf createMsg 16 8 ∧ memIndexOk false (mf createMsg 25 1) = true ∧ memIndexOk false (mf createMsg 27 1) = true ∧
    mf createMsg 28 1 < 4 ∧ sidFree s 0 = true ∧ 71 ∈ memChoices s false (mf createMsg 25 1) ∧ segFits s 71 0 (mf createMsg 16 8) = true :=
  ⟨by decide +kernel, by decide +kernel, served_of (by decide +kernel), by decide +kernel, by decide +kernel, by decide +kernel, by decide +kernel,
    by decide +kernel, by decide +kernel, by decide +kernel, by decide +kernel⟩

theorem witness_SegmentMessagesAct_release : let s := segs (lastSeg 1) releaseMsg
    let b := segs { lastSeg 1 with move := some { moving [] with asker := some asker15 } } releaseMsg
    s.canonical = true ∧ 65534 = mf releaseMsg 16 2 ∧ MsgServed s 15 0x21 9 20 [(16, 2), (18, 1)] releaseMsg ∧ segKnown s 65534 (mf releaseMsg 18 1) = true ∧
    mappers s 65534 = [] ∧ segBusy s 65534 = false ∧ b.canonical = true ∧ MsgServed b 15 0x21 9 20 [(16, 2), (18, 1)] releaseMsg ∧
    segKnown b 65534 (mf releaseMsg 18 1) = true ∧ segBusy b 65534 = true :=
  ⟨by decide +kernel, by decide +kernel, served_of (by decide +kernel), by decide +kernel, by decide +kernel, by decide +kernel, by decide +kernel,
    served_of (by decide +kernel), by decide +kernel, by decide +kernel⟩

theorem witness_SegmentMessagesAct_move : let s := segs (lastSeg 1) moveMsg
    s.canonical = true ∧ true = decide (mf moveMsg 19 1 = 1) ∧ MsgServed s 15 0x22 9 24 [(16, 2), (18, 1), (19, 1), (20, 1), (21, 1), (22, 1)] moveMsg ∧
    segKnown s 65534 (mf moveMsg 18 1) = true ∧ memIndexOk true (mf moveMsg 20 1) = true ∧ memIndexOk false (mf moveMsg 22 1) = true ∧ licensed s 1 = true ∧
    (s.seg 65534).st = 1 ∧ segBusy s 65534 = false ∧ 79 ∈ memChoices s true (mf moveMsg 20 1) ∧ segFits s 79 0 (s.seg 65534).len = true :=
  ⟨by decide +kernel, by decide +kernel, served_of (by decide +kernel), by decide +kernel, by decide +kernel, by decide +kernel, by decide +kernel,
    by decide +kernel, by decide +kernel, by decide +kernel, by decide +kernel⟩

/-- A descriptor of the last 64 KiB of BAR2's first 128 GiB that maps segment 65534, enabled, readable and writable. -/
def windowMsg (en : Nat) : Msg := mkMsg 0x24 56 [(16, 255), (24, 128 * 2 ^ 30 - 65536), (32, 65536), (48, 65534), (50, 255), (51, 128 * en + 3)]
theorem witness_SegmentMessagesAct_window : let s := segs (lastSeg 4) loadedMsg
    let w := segs (lastSeg 1) (windowMsg 1)
    s.canonical = true ∧ MsgServed s 15 0x23 9 20 [(16, 2), (18, 1)] loadedMsg ∧ segKnown s 65534 (mf loadedMsg 18 1) = true ∧ (s.seg 65534).st = 4 ∧
    w.canonical = true ∧ MsgServed w 15 0x24 9 56 [(16, 1), (24, 32)] (windowMsg 1) ∧ bits (fieldAt (slice (windowMsg 1).bytes 24 32) 27 1) 2 5 = 0 ∧
    fieldAt (slice (windowMsg 1).bytes 24 32) 30 2 = 0 ∧ bitOf (fieldAt (slice (windowMsg 1).bytes 24 32) 27 1) 7 = true ∧
    winOk w 255 (slice (windowMsg 1).bytes 24 32) = true ∧ segBusy w (fieldAt (slice (windowMsg 1).bytes 24 32) 24 2) = false :=
  ⟨by decide +kernel, served_of (by decide +kernel), by decide +kernel, by decide +kernel, by decide +kernel, served_of (by decide +kernel),
    by decide +kernel, by decide +kernel, by decide +kernel, by decide +kernel, by decide +kernel⟩

def replicaMsg : Msg := mkMsg 0x28 84 [(18, 3), (19, 2), (24, 65536), (40, 2 ^ 21 - 1), (80, 71), (81, 0xFF), (82, 0)]
theorem witness_ReplicaMessagesAct_create : let s := messaged {} replicaMsg
    s.canonical = true ∧ 3 = mf replicaMsg 18 1 ∧ MsgServed s 15 0x28 9 84 [(18, 1), (19, 1), (24, 8), (40, 4), (48, 8), (56, 1), (80, 3)] replicaMsg ∧
    mf replicaMsg 19 1 = 2 ∧ mf replicaMsg 24 8 % 65536 = 0 ∧ mf replicaMsg 40 4 < 2 ^ 21 ∧ (∀ i, i < 3 → memIndexOk false (mf replicaMsg (80 + i) 1) = true) ∧
    s.rset 0 = none ∧ sidFree s 0 = true ∧ sidFree s 1 = true ∧ sidFree s 65534 = true ∧
    (∀ g, g < 8 → ∃ k, k < 72 ∧ mifOf k = g ∧ unreachable s (memUnit k) = false ∧ segFits s k 0 (copyLen (mf replicaMsg 19 1) (mf replicaMsg 24 8)) = true) :=
  ⟨by decide +kernel, by decide +kernel, served_of (by decide +kernel), by decide +kernel, by decide +kernel, by decide +kernel, by decide +kernel,
    by decide +kernel, by decide +kernel, by decide +kernel, by decide +kernel, by decide +kernel⟩

/-- Loads of set 3: CHECK of generation 0; from window 255; from endpoint 1 through port 47. -/
def loadMsg (gen kind repair : Nat) : Msg := mkMsg 0x29 40 [(16, 3), (18, gen), (20, kind), (21, 255), (22, repair), (24, 1)]
def setMsged (x : RepSet) (m : Msg) : State :=
  let s := messaged (paired x) m
  setWords { s with
    regs := (putField s (portOff 47) 0 4 5).regs
    fabric := { s.fabric with bank0 := [(1, BitVec.ofNat 64 (2 + 2 ^ 63))] } } (winOff 255) [0, 0, 65536, 0, 0, 0, 0x80000001, 0]
def unloaded : RepSet := { twoCopies with ready := false }
theorem witness_ReplicaMessagesAct_load : let a := setMsged twoCopies (loadMsg 0 0 1)
    let b := setMsged unloaded (loadMsg 1 0 0)
    let c := setMsged unloaded (loadMsg 65535 1 0)
    let fs := [(16, 2), (18, 2), (20, 1), (21, 1), (22, 1), (24, 4), (32, 8)]
    a.canonical = true ∧ MsgServed a 15 0x29 9 40 fs (loadMsg 0 0 1) ∧ a.rset 3 = some twoCopies ∧ twoCopies.load = none ∧ winOn a 255 = true ∧ 255 ∈ winsOf a 1 ∧
    twoCopies.gen = BitVec.ofNat 16 (mf (loadMsg 0 0 1) 18 2) ∧ b.canonical = true ∧ MsgServed b 15 0x29 9 40 fs (loadMsg 1 0 0) ∧ b.rset 3 = some unloaded ∧
    setMappers b unloaded = [] ∧ mf (loadMsg 1 0 0) 20 1 = 0 ∧ 255 ∈ winsOf b 1 ∧ c.canonical = true ∧ MsgServed c 15 0x29 9 40 fs (loadMsg 65535 1 0) ∧
    c.rset 3 = some unloaded ∧ setMappers c unloaded = [] ∧ mf (loadMsg 65535 1 0) 20 1 = 1 ∧
    epOut c (ownerMem c unloaded) (BitVec.ofNat 21 (mf (loadMsg 65535 1 0) 24 4)) = some (47, false) ∧ sealedOff c (portUnit 47) = false :=
  ⟨by decide +kernel, served_of (by decide +kernel), by decide +kernel, by decide +kernel, by decide +kernel, by decide +kernel, by decide +kernel,
    by decide +kernel, served_of (by decide +kernel), by decide +kernel, by decide +kernel, by decide +kernel, by decide +kernel, by decide +kernel,
    served_of (by decide +kernel), by decide +kernel, by decide +kernel, by decide +kernel, by decide +kernel, by decide +kernel⟩

def exportMsg : Msg := mkMsg 0x2A 24 [(16, 3), (18, 1)]
def freeMsg : Msg := mkMsg 0x2B 20 [(16, 3)]
theorem witness_ReplicaMessagesAct_rest : let e := setMsged twoCopies exportMsg
    let f := setMsged twoCopies freeMsg
    MsgServed e 15 0x2A 9 24 [(16, 2), (18, 1), (20, 4)] exportMsg ∧ e.rset (mf exportMsg 16 2) = some twoCopies ∧ mf exportMsg 18 1 ≤ 1 ∧
    MsgServed f 15 0x2B 9 20 [(16, 2)] freeMsg ∧ f.rset (mf freeMsg 16 2) = some twoCopies ∧ setMappers f twoCopies = [] ∧ (∀ p ∈ copiesOf twoCopies, segBusy f p.2 = false) :=
  ⟨served_of (by decide +kernel), by decide +kernel, by decide +kernel, served_of (by decide +kernel), by decide +kernel, by decide +kernel, by decide +kernel⟩

/-- Basin 23 with basin 22 in reserve; partition 23. -/
def partMsg : Msg := mkMsg 0x30 24 [(16, 2 ^ 23), (20, 2 ^ 22)]
def partEnd : Msg := mkMsg 0x31 20 [(16, 23)]
def part23 (scrub : Bool) : Partition := ⟨BitVec.ofNat 24 (2 ^ 23), 0, scrub, false⟩
def parted (scrub : Bool) (m : Msg) : State := messaged (State.reset.setPart 23 (some (part23 scrub))) m
def imageMsg : Msg := mkMsg 0x32 40 [(16, 23), (24, 4096), (32, 64)]
theorem witness_PartitionsAndLoads : let s := messaged {} partMsg
    s.canonical = true ∧ MsgServed s 15 0x30 9 24 [(16, 4), (20, 4)] partMsg ∧ mf partMsg 16 4 ≠ 0 ∧ mf partMsg 16 4 < 2 ^ 24 ∧ mf partMsg 20 4 < 2 ^ 24 ∧
    mf partMsg 16 4 &&& mf partMsg 20 4 = 0 ∧
    (∀ b, b < 24 → bitOf (mf partMsg 16 4) b = true ∨ bitOf (mf partMsg 20 4) b = true → partOfBasin s b = none ∧ isDark s b = false) ∧ s.part 23 = none ∧
    MsgServed (parted false partMsg) 15 0x30 9 24 [(16, 4), (20, 4)] partMsg ∧ (partOfBasin (parted false partMsg) 23).isSome = true ∧
    (∀ b, (parted b partEnd).canonical = true ∧ (parted b partEnd).part (mf partEnd 16 1) = some (part23 b) ∧
      voyagesIn (parted b partEnd) (mf partEnd 16 1) [vLoaded, vRunning, vSaving, vPreempted, vHeld] = []) ∧
    MsgServed (parted true partEnd) 15 0x31 9 20 [(16, 1)] partEnd ∧ MsgServed (parted false imageMsg) 15 0x32 9 40 [(16, 1), (24, 8), (32, 8)] imageMsg ∧
    (parted false imageMsg).part (mf imageMsg 16 1) = some (part23 false) ∧ (parted false imageMsg).voyage 1 = none :=
  ⟨by decide +kernel, served_of (by decide +kernel), by decide +kernel, by decide +kernel, by decide +kernel, by decide +kernel, by decide +kernel,
    by decide +kernel, served_of (by decide +kernel), by decide +kernel, by decide +kernel, served_of (by decide +kernel), served_of (by decide +kernel),
    by decide +kernel, by decide +kernel⟩

/-- Voyage 65534 of partition 23, in a state with a message about it. -/
def about (v : Voyage) (m : Msg) : State := messaged ((State.reset.setPart 23 (some (part23 false))).setVoyage 65534 (some v)) m
def voyage23 (st : Nat) : Voyage := { voyage0 st with pid := 23 }
def vidMsg (ty len : Nat) (l : List (Nat × Nat)) : Msg := mkMsg ty len ((16, 65534) :: l)
def launchMsg : Msg := vidMsg 0x33 36 [(20, 0)]
theorem witness_VoyagesLaunchAndResume_launch : let s := about (voyage23 vLoaded) launchMsg
    s.canonical = true ∧ 65534 = mf launchMsg 16 2 ∧ s.voyage 65534 = some (voyage23 vLoaded) ∧
    MsgServed s 15 0x33 9 36 [(16, 2), (18, 2), (20, 4), (24, 8), (32, 4)] launchMsg ∧ mf launchMsg 20 4 = 0 ∧ occupied s 23 65534 = false ∧
    s.thermal.emergency = none ∧ setsLoading s emptyImage = false ∧ emptyImage.dtab = reg s (fabBase + 0x1C) ∧ coresOf s 65534 = [] ∧
    voyagePositions s (voyage23 vLoaded) ≠ [] ∧ updateTooFar s 65534 (voyage23 vLoaded) = false ∧ (voyage23 vLoaded).moved = [] ∧
    (∀ c ∈ voyagePositions s (voyage23 vLoaded), darkAt s c = false ∧ (s.core c).misc.failed = false) :=
  ⟨by decide +kernel, by decide +kernel, by decide +kernel, served_of (by decide +kernel), by decide +kernel, by decide +kernel, by decide +kernel,
    by decide +kernel, by decide +kernel, by decide +kernel, by decide +kernel, by decide +kernel, rfl, by decide +kernel⟩

def savedImg : SaveImg := { hard := true, dtab := 0, basins := 0, cores := [], streams := [], outs := [], ctxs := [], runs := [], moors := [], stores := [], parked := true }
def saved23 : Voyage := { voyage23 vPreempted with save := some savedImg }
def resumeMsg : Msg := vidMsg 0x35 20 [(18, 23)]
theorem witness_VoyagesLaunchAndResume_resume : let s := about saved23 resumeMsg
    s.canonical = true ∧ 65534 = mf resumeMsg 16 2 ∧ s.voyage 65534 = some saved23 ∧ MsgServed s 15 0x35 9 20 [(16, 2), (18, 1)] resumeMsg ∧
    s.part (mf resumeMsg 18 1) = some (part23 false) ∧ (part23 false).releasing = false ∧ occupied s (mf resumeMsg 18 1) 65534 = false ∧ s.thermal.emergency = none ∧
    seats s saved23 (part23 false) (homeBasins s saved23) [] = some [] ∧
    treesFit (replant (seatVoyage s 65534 (mf resumeMsg 18 1) saved23 (part23 false) savedImg []) 65534) = true ∧ evtHeld s < 1024 :=
  ⟨by decide +kernel, by decide +kernel, by decide +kernel, served_of (by decide +kernel), by decide +kernel, rfl, by decide +kernel, by decide +kernel,
    by decide +kernel, by decide +kernel, by decide +kernel⟩

def preemptMsg : Msg := vidMsg 0x34 24 [(18, 1), (19, 1), (20, 0xFFFFFFFF)]
def killMsg : Msg := vidMsg 0x36 20 []
def statsMsg : Msg := vidMsg 0x37 20 []
theorem witness_VoyagesStopOnRequest : (∀ st ∈ [vLoaded, vRunning, vPreempted, vHeld, vEnded], (about (voyage23 st) preemptMsg).canonical = true ∧
      (about (voyage23 st) preemptMsg).voyage 65534 = some (voyage23 st)) ∧ 65534 = mf preemptMsg 16 2 ∧ mf preemptMsg 18 1 ≤ 1 ∧ mf preemptMsg 19 1 ≤ 1 ∧
    MsgServed (about (voyage23 vRunning) preemptMsg) 15 0x34 9 24 [(16, 2), (18, 1), (19, 1), (20, 4)] preemptMsg ∧
    (recordsOf (about (voyage23 vHeld) preemptMsg) (voyage23 vHeld) 65534 (lostPositions (about (voyage23 vHeld) preemptMsg) (voyage23 vHeld) 65534)).isSome = true ∧
    MsgServed (about (voyage23 vLoaded) killMsg) 15 0x36 9 20 [(16, 2)] killMsg ∧ evtHeld (about (voyage23 vLoaded) killMsg) < 1024 ∧
    MsgServed (about (voyage23 vHeld) killMsg) 15 0x36 9 20 [(16, 2)] killMsg ∧ (about (voyage23 vHeld) killMsg).part 23 = some (part23 false) ∧
    MsgServed (about (voyage23 vEnded) statsMsg) 15 0x37 9 20 [(16, 2)] statsMsg :=
  ⟨by decide +kernel, by decide +kernel, by decide +kernel, by decide +kernel, served_of (by decide +kernel), recordsOf_isSome _ _ _ _ (.inl rfl), served_of (by decide +kernel),
    by decide +kernel, served_of (by decide +kernel), by decide +kernel, served_of (by decide +kernel)⟩

/-- 10 R259: a KILL of a LOADED voyage forgets it. -/
theorem test_kill_forgets : yields (exec (.kill 15) (about (voyage23 vLoaded) killMsg)) (fun t => (t.voyage 65534).isNone) = true := by decide +kernel

/-! ## Witnesses: registers, interrupts, the log, windows, idle states -/

/-- Reset with one register word written, or one field. -/
def withReg (off : Nat) (v : Word) : State := setReg State.reset off v
def withField (off lo n x : Nat) : State := putField State.reset off lo n x

theorem witness_RegistersFollowTheirTypes : let off := barSize - 4
    let full := withReg (leafOff 25 251) 0x7FFF
    0x20000 ≤ off ∧ off + 4 ≤ barSize ∧ off % 4 = 0 ∧ off ∉ [evtRdOff, irqBase + 0x10, thmBase + 0x1C, thmBase + 0x24, vecCtrlOff] ∧ portCtrlAt off = none ∧
    eventsAt full (leafOff 2 0) = 0 ∧ eventsAt full (leafOff 25 251) = 0 ∧ (∀ x ∈ [(2, 0), (25, 251)], reg full (leafOff x.1 x.2) &&& ~~~((0xFFFFFFFF#64).setWidth 32 &&& 0x7FFF#32) = 0) ∧
    (0x20000 ≤ barSize - 3 ∧ barSize - 3 + 2 ≤ barSize ∧ (barSize - 3) % 2 ≠ 0) ∧ (0x1EFFF < 0x20000 ∧ 0x1EFFF + 1 ≤ barSize ∧ 0x1EFFF % 0x2000 < 0x1000) ∧
    off ≠ hmBase + 8 ∧ off ≠ hmBase + 0xC ∧ ¬(4 = 4 ∧ (barSize - 5) % 4 = 0) ∧ ¬(4 = 8 ∧ (barSize - 5) % 8 = 0) ∧ barSize - 5 + 4 ≤ barSize := by
  decide +kernel

/-- 00 R6: a write of ones to a mask register sets its defined bits, here LH_MASK. -/
theorem test_mask_write : yields (exec (.registerWrite (hmBase + 0x4C) 4 0xFFFFFFFF) State.reset) (fun t => reg t (hmBase + 0x4C) = 0x3F) = true := by decide +kernel
/-- 10 Table 10-3: HM_ID reads 0x5184. -/
theorem test_id_read : yields (exec (.rcRead hmBase 4) State.reset) (fun t => t.readData = [0x84, 0x51, 0, 0]) = true := by decide +kernel

def anEvent : EvtRec := ⟨1, 7, 0, 0, 0, 0, 0⟩
def ringAt (wr : Word) (l : List EvtRec) : State := { withReg evtWrOff wr with hm := { backlog := l } }
/-- A cause of group 50 that its mask, the group's mask and the summary let through, since tick 0. -/
def pressing : State := { putField (setReg (withReg (leafOff 50 7) 1) (irqBase + 0xC) (1 <<< 18)) coalOff 0 16 10 with tide := 10, hm := { condSince := some 0 } }
def unmasked (s : State) : State := putField s vecCtrlOff 0 1 0

theorem groups_small (s : State) (n : Nat) :
    ((List.range n).map fun g => if grpSet s g then 2 ^ g else 0).foldl (· + ·) 0 < 2 ^ n := by
  induction n with
  | zero => simp
  | succ n ih =>
    rw [List.range_succ, List.map_append, List.foldl_append]
    simp only [List.map_cons, List.map_nil, List.foldl_cons, List.foldl_nil, Nat.pow_succ]
    split <;> omega

/-- 10 R262: a set and enabled group 50 is the interrupt condition. -/
theorem cond_of_50 {s : State} (hg : grpSet s 50 = true) (he : (reg64 s (irqBase + 8)).getLsbD 50 = true) : irqCond s = true := by
  have hb : (irqSummary s).getLsbD 50 = true := by
    rw [irqSummary, List.range_succ, List.map_append, List.foldl_append]
    have h := groups_small s 50
    simp only [List.map_cons, List.map_nil, List.foldl_cons, List.foldl_nil, hg, if_true, BitVec.getLsbD_ofNat]
    rw [Nat.add_comm, Nat.testBit_two_pow_add_eq, Nat.testBit_lt_two_pow h]; rfl
  rw [irqCond, decide_eq_true_eq]
  intro h
  have h1 : (irqSummary s &&& reg64 s (irqBase + 8)).getLsbD 50 = false := by rw [h]; rfl
  rw [BitVec.getLsbD_and, hb, he] at h1
  exact absurd h1 (by decide)

theorem pressing_cond : irqCond pressing = true := cond_of_50 (by decide +kernel) (by decide +kernel)
theorem unmasked_cond : irqCond (unmasked pressing) = true := cond_of_50 (by decide +kernel) (by decide +kernel)

/-- 10 R263: nothing is enabled at reset. -/
theorem reset_cond : irqCond State.reset = false := by
  have h : reg64 State.reset (irqBase + 8) = 0 := by decide +kernel
  rw [irqCond, h]; simp

theorem witness_EventsAndInterrupts : (reg (ringAt 1024 []) evtWrOff - 0).toNat ≤ 1024 ∧ (ringAt 1024 []).hm.backlog = [] ∧
    (reg (ringAt 1023 [anEvent]) evtWrOff - 0).toNat < 1024 ∧ (ringAt 1023 [anEvent]).hm.backlog = [anEvent] ∧
    1024 < (reg (ringAt 1025 []) evtWrOff - 0).toNat ∧
    (∀ s ∈ [pressing, unmasked pressing], armed s = true ∧ irqCond s = true ∧ s.hm.condSince.getD s.tide.toNat + getField s coalOff 0 16 ≤ s.tide.toNat) ∧
    vecMasked (unmasked pressing) = false ∧ vecMasked pressing = true ∧ irqCond State.reset = false ∧ (1#64).getLsbD 0 = true ∧
    reg (withReg pbaOff 1) pbaOff ≠ 0 ∧ reg State.reset pbaOff = 0 := by
  refine ⟨by decide +kernel, by decide +kernel, by decide +kernel, by decide +kernel, by decide +kernel, ?_, by decide +kernel, by decide +kernel,
    reset_cond, by decide +kernel, by decide +kernel, by decide +kernel⟩
  simp only [List.mem_cons, List.not_mem_nil, or_false, forall_eq_or_imp, forall_eq, pressing_cond, unmasked_cond, true_and]
  decide +kernel

theorem witness_CausesAreLogged : State.reset.log.recs.length < 262144 := by decide +kernel

/-- Window 0 covers the last 64 KiB of BAR2 and maps segment 65534 in memory 71, readable and writable. -/
def windowed : State := { setWords (State.reset.setSeg 65534 (lastSeg 1)) (winOff 0) [0xFFFF0000, 0x1F, 65536, 0, 0, 0, 0x83FFFFFE, 0] with tide := 1 }
theorem witness_WindowsAndIdleStates_windows : windowed.hm.idle.state = 0 ∧ 2 ^ 37 - 1 + 1 ≤ 2 ^ 37 ∧
    (∀ i, i < 1 → winRow windowed (2 ^ 37 - 1 + i) false = .data 71 (0xBE1A00000 - 1 + i) ∧ lostIn windowed 71 (0xBE1A00000 - 1 + i) 1 = false) ∧
    errsIn windowed 71 (0xBE1A00000 - 1) 1 = [] ∧ lostIn windowed 71 (0xBE1A00000 - 1) 1 = false ∧
    (∀ i, i < 1 → winRow windowed (2 ^ 37 - 1 + i) true = .data 71 (0xBE1A00000 - 1 + i)) ∧ copyAt windowed 71 (0xBE1A00000 - 1) = none ∧
    (∀ i, i < 1 → winRow State.reset (2 ^ 37 - 1 + i) false = .unmapped) ∧ (∀ i, i < 1 → winRow State.reset (0 + i) true = .unmapped) := by decide +kernel

/-- READY, idle for 100 us. -/
def idling : State := { withField (hmBase + 4) 0 4 9 with tide := 25000 }
def asleep : State := { idling with hm := { idle := { state := 4 } } }
theorem witness_WindowsAndIdleStates_idle : stage idling = 9 ∧ idling.hm.idle.state = 0 ∧ busyNow idling = false ∧ idling.hm.idle.idleSince + 25000 ≤ idling.tide.toNat ∧
    idleChoice idling ≠ 0 ∧ asleep.hm.idle.state ≠ 0 ∧ State.reset.canonical = true ∧ (∀ p ∈ State.reset.cores, SMap.wf 0 p.2.regs.counters = true) := by
  decide +kernel

/-! ## Witnesses: ports and open sites -/

def portAt (st : Nat) (t : Port) : State := { (withField (portOff 47) 0 4 st).setPort 47 t with tide := 2500000 }
def peer : PeerId := ⟨3, 5, false, 9, 0⟩
def obs (ok : Bool) (lanes : BitVec 16) : TrainObs := ⟨ok, true, lanes, peer⟩
def lost47 : Port := { lossAt := some 0, prevPeer := some { peer with lastFseq := 7 } }
def isState (st : Nat) : Bool := portState (portAt st {}) 47 = st

theorem witness_PortsTrain : 47 < portCount ∧ [pDown, pDetect, pEq, pLanemap, pIdent, pDisabled].all isState = true ∧
    (∃ t : Port, t.retryAt = some 2500000 ∧ ((portAt pDown t).port 47) = t ∧ 2500000 ≤ (portAt pDown t).tide.toNat ∧ portState (portAt pDown t) 47 = pDown) ∧
    (obs true 0x8421).ok = true ∧ 4 ≤ laneCount (obs true 0x8421).lanes ∧ laneCount (obs true 0x8420).lanes < 4 ∧ (obs false 0).ok = false ∧
    ((portAt pIdent {}).port 47).prevPeer = none ∧ heldPackets ((portAt pIdent {}).port 47) = [] ∧ (portAt pIdent {}).hm.idle.state ≠ 4 ∧
    transitOn { portAt pIdent {} with hm := { idle := { state := 4 } } } 47 = false ∧ heldPackets ((portAt pIdent lost47).port 47) = [] ∧ peer.session = 9 ∧
    portState (portAt pIdent lost47) 47 = pIdent ∧ ((portAt pIdent lost47).port 47).prevPeer = some { peer with lastFseq := 7 } ∧
    samePeer { peer with lastFseq := 7 } peer = true ∧ ((portAt pIdent lost47).port 47).lossAt = some 0 ∧ (portAt pIdent lost47).tide.toNat ≤ 0 + 2500000 ∧
    samePeer { peer with panel := 4 } peer = false :=
  ⟨by decide +kernel, by decide +kernel, ⟨{ retryAt := some 2500000 }, by decide +kernel, by decide +kernel, by decide +kernel, by decide +kernel⟩, by decide +kernel⟩

def frameOf (n : Word) (nak : Bool) : PortFrame := ⟨[], n, 0, false, nak, [0, 0, 0, 0]⟩
def held (n : Word) : SentFrame := ⟨frameOf n false, []⟩

/-- A frame without symbol errors, and one with more in one codeword than are corrected, whatever its FCRC. -/
theorem frame_intact (f : PortFrame) : frameIntact f (frameCrc f) [] = true := by
  have h : allCorrected [] = true := by decide +kernel
  simp [frameIntact, h]
theorem frame_broken (f : PortFrame) (crc : BitVec 32) : frameIntact f crc (List.range 60) = false := by
  have h : allCorrected (List.range 60) = false := by decide +kernel
  simp [frameIntact, h]

theorem witness_FramesAreSequenced : let a := portAt pActive {}
    let b := portAt pActive { replay := [held 1], replaying := 1, replays := 7, txSeq := 1 }
    portUp a 47 = true ∧ (a.port 47).replaying = 0 ∧ (a.port 47).replay.length < 512 ∧ portUp b 47 = true ∧ 0 < (b.port 47).replaying ∧
    (frameOf 1 true).fseq = (a.port 47).rxSeq + 1 ∧ (frameOf 1 true).fseq = (b.port 47).rxSeq + 1 ∧ (b.port 47).replay ≠ [] ∧ (b.port 47).replays < 8 ∧
    (frameOf 1 true).nak = true ∧ (frameOf 1 true).ackValid = false ∧
    ((frameOf 2 false).fseq ≠ (a.port 47).rxSeq + 1 ∧ ((a.port 47).rxSeq - (frameOf 2 false).fseq).toNat ≥ 2 ^ 31) := by decide +kernel

theorem witness_PortsInService : let a := putField (portAt pActive { replays := 8 }) (portOff 47 + 0xC) 0 16 0x800F
    let w := putField (portAt pWidthChange {}) (portOff 47 + 0xC) 0 16 0x800F
    portState a 47 = pActive ∧ (goodLanes a 47).getLsbD (15#4).toNat = true ∧ hasLink a 47 = true ∧ 8 ≤ (a.port 47).replays ∧
    portState w 47 = pWidthChange ∧ 4 ≤ laneCount (goodLanes w 47) ∧ (lost47.lossAt = some 0 ∧ ((portAt pDetect lost47).port 47) = lost47 ∧
    0 + 2500000 ≤ (portAt pDetect lost47).tide.toNat) ∧ portState (portAt pLowPower {}) 47 = pLowPower := by decide +kernel

/-- Open site 7 in a state of its adapter, with endpoint 5183 local, berths writable to its partner. -/
def partnered (st : Nat) : State :=
  let s := (withField (siteOff 7) 0 3 st).setSite 7 { func := 1 }
  { s with fabric := { s.fabric with bank0 := [(5183, BitVec.ofNat 64 (1 + 32 * 71 + 4096 * 71))] } }
def fromPartner (ty : BitVec 4) : Packet := { berthWrite with dst := 5183, cls := 2, ty := ty }
theorem witness_OpenSitesInService : let s := partnered 3
    let k := fromPartner 0
    7 < siteCount ∧ siteState s 7 = 3 ∧ siteState (partnered 5) 7 = 5 ∧ partnerMay s 7 { k with src := homeId s (siteUnit 7), dunit := 5 } = true ∧
    ettEntry s k.dst % 4 = 1 ∧ Reached s (localUnit (ettEntry s k.dst)) ∧
    partnerMay s 7 { fromPartner 1 with src := homeId s (siteUnit 7), dunit := 5 } = false :=
  ⟨by decide +kernel, by decide +kernel, by decide +kernel, by decide +kernel, by decide +kernel, reached_of (by decide +kernel), by decide +kernel⟩

/-! ## Witnesses: power, clocks, heat -/

def supplied (mode : Nat) : State := { State.reset with power := { inputMode := mode } }
def phased (n : Nat) : State := { withField (pwrBase + 0x80 + 4 * 23) 0 8 n with power := { phaseDie := [(7 * 23 + 5, n)] } }
theorem witness_PowerSupplies : inputBand 40000 = (supplied 0).power.inputMode ∧ inputBand 48000 = (supplied 0).power.inputMode ∧ (supplied 0).power.inputMode ≠ 1 ∧
    (supplied 0).power.inputMode ≠ 4 ∧ (supplied 0).power.inputMode ≠ 2 ∧ (supplied 0).thermal.emergency = none ∧ inputBand 35999 ≠ (supplied 0).power.inputMode ∧
    inputBand 52001 ≠ (supplied 0).power.inputMode ∧ dieInBasin (phased 0) 23 5 = some (11, 11) ∧ look 0 (phased 0).power.phaseDie (7 * 23 + 5) ≠ 2 ∧
    getField (phased 0) (pwrBase + 0x80 + 4 * 23) 0 8 ≠ 1 ∧ dieInBasin (phased 1) 23 5 = some (11, 11) ∧ look 0 (phased 1).power.phaseDie (7 * 23 + 5) ≠ 2 ∧
    getField (phased 1) (pwrBase + 0x80 + 4 * 23) 0 8 = 1 ∧ 23 ∉ (phased 1).power.limited ∧ evtHeld (phased 1) < 1024 ∧
    dieInBasin (phased 2) 23 5 = some (11, 11) ∧ look 0 (phased 2).power.phaseDie (7 * 23 + 5) = 2 ∧ 23 ∉ State.reset.power.efuseOpen ∧ isDark State.reset 23 = false := by
  decide +kernel

/-- 12 R291: 39.9 V raises the low-input warning. -/
theorem test_input_low : yields (exec (.inputVoltageChange 39900) State.reset) (fun t => bitOf (reg t (leafOff 43 0)).toNat 5 && t.power.inputMode = 1) = true := by
  decide +kernel

/-- READY with the fields of PWR_OP_STATUS and PWR_OP_REQ, a cap of 10 W times `cap` and the power state. -/
def ready (st req cap : Nat) (p : PowerSt) : State :=
  { putField (setReg (setReg (withField (hmBase + 4) 0 4 9) opStatusOff (BitVec.ofNat 32 st)) opReqOff (BitVec.ofNat 32 req)) pwrCapOff 0 16 cap with power := p, tide := 25000000 }
theorem witness_ClocksAndOperatingPoints_references : refValid State.reset false = false ∧ refValid State.reset true = false ∧ getField State.reset clkStatusOff 0 2 ≠ 2 ∧
    evtHeld State.reset < 1024 ∧ isDark State.reset 23 = false := by decide +kernel

theorem witness_ClocksAndOperatingPoints_points : let a := ready 6 6 0 {}
    let b := ready 7 7 0 {}
    let c := ready (6 + 256 * 1) 0 1000 { belowSince := some 0 }
    (a.tide.toNat < 2 ^ 63 ∧ stage a = 9 ∧ opPending a = false ∧ a.power.stormTick = none ∧ stormOn a = false ∧ max (opNow a) (opLimit a) < 7 ∧ capW a < 1 ∧
      a.power.limited = []) ∧
    (stage b = 9 ∧ opPending b = false ∧ b.power.stormTick = none ∧ stormOn b = false ∧ max (opNow b) (opLimit b) = 7 ∧ capW b < 1) ∧
    (c.tide.toNat < 2 ^ 63 ∧ stage c = 9 ∧ opPending c = false ∧ c.power.stormTick = none ∧ stormOn c = false ∧ c.power.slower = 0 ∧ c.power.limited = [] ∧
      9000 ≤ capW c ∧ 10 * 9000 ≤ 9 * capW c ∧ c.power.belowSince = some 0 ∧ 0 + 25000000 ≤ c.tide.toNat ∧ c.thermal.hotSince = none ∧ 0 < opLimit c ∧
      max (getField c opReqOff 0 3) (opLimit c - 1) ≠ opNow c) ∧
    (∀ st ∈ [8, 64, 128], stage (withField (hmBase + 4) 0 4 (min st 8)) < 9) ∧ opPending (ready 64 0 0 {}) = true ∧ stormOn (ready 128 0 0 {}) = true := by decide +kernel

theorem witness_ClocksAndOperatingPoints_changes : let a := { setReg64 (ready 64 0 0 { pendingOp := some 3 }) opTickOff 25000000 with cc := 0 }
    let b := setReg64 (ready 64 0 0 { pendingOp := some 3 }) opTickOff 25000001
    let h (op : Nat) (k : Option Nat) : State := ready 64 0 0 { pendingOp := some op, holding := some 24999984, stormTick := k }
    let e := ready 0 0 0 { stormTick := some 25000000 }
    (a.power.pendingOp = some 3 ∧ a.power.holding = none ∧ (reg64 a opTickOff).toNat ≤ a.tide.toNat) ∧
    (b.power.pendingOp = some 3 ∧ b.power.holding = none ∧ b.tide.toNat < (reg64 b opTickOff).toNat) ∧
    (∀ x ∈ [h 0 none, h 7 (some 24999984)], x.power.holding = some 24999984 ∧ 24999984 + 16 ≤ x.tide.toNat) ∧ (h 0 none).power.pendingOp = some 0 ∧
    (h 7 (some 24999984)).power.pendingOp = some 7 ∧ (h 7 (some 24999984)).power.stormTick = some 24999984 ∧
    (e.power.stormTick = some 25000000 ∧ 25000000 ≤ e.tide.toNat ∧ e.power.holding = none ∧ e.power.pendingOp = none) := by decide +kernel

def hotPair (a b : Int) : State := { State.reset with thermal := { sensors := [(2276, { sum := 2 * a, n := 2 }), (2277, { sum := b, n := 1 })] } }
theorem witness_HeatIsControlled_readings : 1138 < spotCount ∧ spotSpared State.reset 1138 = false ∧ SpotRead (hotPair 11000 10600) 1138 ∧ PairGood (hotPair 11000 10600) 1138 ∧
    (meanOf (hotPair 11000 10600) 2276 - meanOf (hotPair 11000 10600) 2277).natAbs ≤ 400 ∧ SpotRead (hotPair 12500 11000) 1138 ∧ PairGood (hotPair 12500 11000) 1138 ∧
    400 < (meanOf (hotPair 12500 11000) 2276 - meanOf (hotPair 12500 11000) 2277).natAbs ∧ (hotPair 12500 11000).thermal.hotSince = none :=
  ⟨by decide +kernel, by decide +kernel, ⟨by decide +kernel, 2276, by decide +kernel, by decide +kernel⟩,
    ⟨by decide +kernel, by decide +kernel, by decide +kernel⟩, by decide +kernel, ⟨by decide +kernel, 2276, by decide +kernel, by decide +kernel⟩,
    ⟨by decide +kernel, by decide +kernel, by decide +kernel⟩, by decide +kernel, by decide +kernel⟩

/-- 12 R310 R311: 110 and 109 degrees give the mean 109.5, above 105 an emergency. -/
theorem test_reading : yields (exec .thermalReading (hotPair 11000 10900))
    (fun t => look 0 t.thermal.ctrl 1138 = 10950 && t.thermal.emergency.isSome && !bitOf (reg t (leafOff 44 0)).toNat 3) = true := by decide +kernel

def burning (th : ThermalSt) : State := { State.reset with thermal := th, tide := 250000000 }
theorem witness_HeatIsControlled_rest : let f (secs : Nat) : State := { setReg State.reset panelPowerOff 7200 with thermal := { loadSecs := secs } }
    let e := burning { emergency := some 1, stormAt := some 249750000, ctrl := [(0, 10500)] }
    let c := burning { emergency := some 1, flowSince := some 0, ctrl := [(0, 6999)] }
    (∀ x ∈ [(-2000 : Int), 12000], ptGood x = true) ∧ ptGood 12001 = false ∧ ptGood (-2001) = false ∧ panelPower State.reset < 7200 ∧ 7200 ≤ panelPower (f 8) ∧
    (f 8).thermal.loadSecs < 9 ∧ 7200 ≤ panelPower (f 9) ∧ (f 9).thermal.loadSecs = 9 ∧ State.reset.thermal.emergency = none ∧
    (e.thermal.emergency = some 1 ∧ e.thermal.stormAt = some 249750000 ∧ 249750000 + 250000 ≤ e.tide.toNat ∧ anyAbove e 10500 = true ∧ e.thermal.computeOff = false ∧
      isDark e 23 = false) ∧
    (c.thermal.emergency = some 1 ∧ c.thermal.flowSince = some 0 ∧ 0 + 250000000 ≤ c.tide.toNat ∧ anyAbove c 7000 = false ∧ c.power.stormTick = none ∧
      c.power.holding = none ∧ c.power.inputMode ≠ 2 ∧ c.power.inputMode ≠ 3 ∧ evtHeld c < 1024) := by decide +kernel

/-! ## Witnesses: failures, replay, resets -/

theorem witness_FailuresAreIsolated : let r := State.reset.setCore 5183 { misc := { vid := 65534 } }
    let v := r.setVoyage 65534 (some (voyage0 vRunning))
    let l (n : Nat) : State := { State.reset with fabric := { linkRetries := [(3 + 6 * 5, n)] } }
    (5183 < coreCount ∧ (v.core 5183).misc.failed = false ∧ v.voyage (v.core 5183).misc.vid.toNat = some (voyage0 vRunning) ∧ (voyage0 vRunning).st = vRunning) ∧
    (inRun State.reset 5183 = false ∧ coreSpareFree State.reset (coreY 5183 / 6) (physCol State.reset (coreY 5183 / 6) (coreX 5183 / 6)) (coreY 5183 % 6) = true) ∧
    5183 ∈ coresOfDie 11 11 ∧ State.reset.voyages = [] ∧ dieSpareFree State.reset 11 = true ∧
    (let d : State := { State.reset with bring := { usedSite := [11] } }
     d.voyages = [] ∧ dieSpareFree d 11 = false ∧ isDark d (basinOf d (432 * 11 + 6 * 11)) = false) ∧
    (State.reset.engine 79).lost = false ∧ ((State.reset.setEngine 79 { lost := true }).engine 79).lost = true ∧ linkOk 33 = true ∧ linkOk 36424 = true ∧
    look 0 (l 2).fabric.linkRetries 33 < 3 ∧ 3 ≤ look 0 (l 3).fabric.linkRetries 33 ∧
    max (look 0 (l 3).fabric.linkWidth 33) (widthCode (linkSerial (l 3) 33) (look 0 (l 3).fabric.linkBad 33 + 1)) < 3 ∧ 0 < State.reset.hm.sparePairs ∧
    (∀ n ∈ [5, 4], (let p : State := { State.reset with hm := { sparePairs := 0, pairs := n } }
     p.hm.sparePairs = 0 ∧ p.hm.pairs = n)) := by decide +kernel

def recs : List (Byte × Byte) := [(23, 22)]
def due (l : List (BitVec 8)) : Voyage := { voyage23 vRunning with due := l, img := { emptyImage with reloc := recs } }
def replaying (l : List (BitVec 8)) (k : Core) : State :=
  (((State.reset.setPart 23 (some { part23 false with reserve := BitVec.ofNat 24 (2 ^ 22) })).setCore 0 k).setVoyage 65534 (some (due l)))
def unanswered : Core := { runs (onlyS .nop) with
  misc := { vid := 65534, gated := false }
  crane := { queues := [(0, [{ entry (desc 1 0 1) with next := 1, open_ := [0] }])] } }

theorem replayDue_of {s : State} {vid : Nat} {v : Voyage} {c : BitVec 8}
    (h : (decide (vid < 65535) && decide (s.hm.hung = none) && decide (s.voyage vid = some v) && decide (v.st = vRunning) && decide (c ∈ v.due) && decide (v.savePhase = 0) &&
      decide (replaysOut v c.toNat = false)) = true) : ReplayDue s vid v c := by
  simp only [Bool.and_eq_true, decide_eq_true_eq] at h
  exact ⟨h.1.1.1.1.1.1, h.1.1.1.1.1.2, h.1.1.1.1.2, h.1.1.1.2, h.1.1.2, h.1.2, h.2⟩

theorem recordsThere_of {s : State} {vid : Nat} {lost : List Nat}
    (h : (s.voyage vid).all (fun w => decide (w.ordinal = 0) || w.img.cores.isEmpty) = true) : RecordsThere s vid lost := by
  intro w hw hn
  have k : w.ordinal = 0 ∨ w.img.cores = [] := by simpa [hw] using h
  simpa [hn] using recordsOf_isSome s w (BitVec.ofNat 16 vid) lost k

/-- A due replay of a voyage with core 5183. -/
def seated (l : List (BitVec 8)) : Voyage := { due l with img := { emptyImage with cores := [⟨5183, 0, [], [encodeStep (onlyS .nop)]⟩] } }
def replaySeated (l : List (BitVec 8)) : State :=
  ((replaying l {}).setVoyage 65534 (some (seated l))).setCore 5183 { runs (onlyS .nop) with misc := { vid := 65534, gated := false } }

theorem witness_VoyagesReplay_seated : let s := replaySeated [5]
    s.canonical = true ∧ ReplayDue s 65534 (seated [5]) 5 ∧ quiet (quiesceVoyage s 65534) 65534 = true ∧ coresOf (quiesceVoyage s 65534) 65534 = [5183] ∧
    RecordsThere (quiesceVoyage s 65534) 65534 (lostPositions (quiesceVoyage s 65534) (seated [5]) 65534) ∧ 5183 ∈ voyagePositions s (seated [5]) ∧
    (coreRec (seated [5]).img 5183).isSome = true :=
  ⟨by decide +kernel, replayDue_of (by decide +kernel), by decide +kernel, by decide +kernel, recordsThere_of (by decide +kernel), by decide +kernel,
    by decide +kernel⟩

theorem witness_VoyagesReplay_replay : let s := replaying [5] {}
    let u := replaying [1] unanswered
    u.canonical = true ∧ ReplayDue u 65534 (due [1]) 1 ∧ 7#8 ∉ (due [1]).due ∧ quiet (quiesceVoyage u (BitVec.ofNat 16 65534)) (BitVec.ofNat 16 65534) = false ∧
    s.canonical = true ∧ ReplayDue s 65534 (due [5]) 5 ∧ quiet (quiesceVoyage s 65534) 65534 = true ∧ s.bring.failedDies = [] ∧
    (∀ c ∈ coresOf (quiesceVoyage s 65534) 65534, ((quiesceVoyage s 65534).core c).misc.failed = false) ∧
    RecordsThere (quiesceVoyage s 65534) 65534 (lostPositions (quiesceVoyage s 65534) (due [5]) 65534) ∧ (due [5]).ordinal = 0 ∧ (due [5]).moved = [] ∧ evtHeld s < 1024 :=
  ⟨by decide +kernel, replayDue_of (by decide +kernel), by decide +kernel, by decide +kernel, by decide +kernel, replayDue_of (by decide +kernel), by decide +kernel,
    by decide +kernel, by decide +kernel, recordsThere_of (by decide +kernel), by decide +kernel, by decide +kernel, by decide +kernel⟩

/-- A voyage at ordinal 1 whose basin 23 is dark, with its reserve 22. -/
def due7 : Voyage := { due [7] with ordinal := 1 }
def rehoming : State := let s := (replaying [7] {}).setVoyage 65534 (some due7)
  { s with power := { dark := [23] } }
/-- The numbers that a list of pairs holds, as the set bits of a natural number. -/
def bitsOf (l : List (Nat × Nat)) : Nat := l.foldl (fun a p => a ||| (2 ^ p.1 ||| 2 ^ p.2)) 0
theorem testBit_bitsOf {l : List (Nat × Nat)} {c : Nat} (h : (bitsOf l).testBit c = true) : (l.any fun p => decide (p.1 = c) || decide (p.2 = c)) = true := by
  have k : ∀ (l : List (Nat × Nat)) (a : Nat), (l.foldl (fun a p => a ||| (2 ^ p.1 ||| 2 ^ p.2)) a).testBit c = true →
      a.testBit c = true ∨ (l.any fun p => decide (p.1 = c) || decide (p.2 = c)) = true := by
    intro l
    induction l with
    | nil => exact fun _ h => .inl h
    | cons p l ih =>
      intro a h
      rcases ih _ h with h | h
      · simp only [Nat.testBit_or, Nat.testBit_two_pow, Bool.or_eq_true] at h
        rcases h with h | h
        · exact .inl h
        · exact .inr (by simp only [List.any_cons, Bool.or_eq_true]; exact .inl h)
      · exact .inr (by simp only [List.any_cons, Bool.or_eq_true]; exact .inr h)
  exact (k l 0 h).resolve_left (by simp)

/-- No place of a voyage's positions is dark, looked at place by place. -/
def lightPlaces (s : State) (v : Voyage) : Bool :=
  (v.moved.all fun p => !darkAt s p.2) && (coresOfBasins s (basinsOf s v)).all fun c => (bitsOf v.moved).testBit c || !darkAt s c
theorem partDark_of {s : State} {vid : Nat} (h : (s.voyage vid).all (lightPlaces s) = true) : partDark s vid = false := by
  unfold partDark
  split
  · next v hv =>
    simp only [hv, Option.all_some, lightPlaces, Bool.and_eq_true, List.all_eq_true] at h
    rw [List.any_eq_false]
    intro c hc
    unfold placeOf
    split
    · next p hp => simpa using h.1 p (List.mem_of_find?_eq_some hp)
    · next hn =>
      have hn := List.find?_eq_none.mp hn
      simp only [voyagePositions, positions, List.mem_append, List.mem_map, List.mem_filter] at hc
      rcases hc with ⟨p, hp, rfl⟩ | ⟨hc, hm⟩
      · exact absurd (decide_eq_true rfl) (hn p hp.1)
      · have k := h.2 c hc
        rcases Bool.or_eq_true _ _ |>.mp k with k | k
        · rw [testBit_bitsOf k] at hm
          exact absurd hm (by decide)
        · simpa using k
  · rfl

theorem coresSound_of {s : State} (h : (s.cores.all fun p => !p.2.misc.failed) = true) (c : Nat) : (s.core c).misc.failed = false := by
  rcases look_mem {} s.cores c with k | k
  · exact (congrArg (·.misc.failed) k).trans rfl
  · exact (Bool.not_eq_true' _).mp (List.all_eq_true.mp h _ k)

theorem rehoming_light : (rehomed (quiesceVoyage rehoming 65534) 65534 23 22).any (fun s => (s.voyage 65534).all (lightPlaces s)) = true := by decide +kernel
theorem rehoming_sound : (rehomed (quiesceVoyage rehoming 65534) 65534 23 22).any (fun s => s.cores.all fun p => !p.2.misc.failed) = true := by decide +kernel
theorem rehoming_empty : (rehomed (quiesceVoyage rehoming 65534) 65534 23 22).any (fun s => decide (s.bring.failedDies = []) &&
    (s.voyage 65534).all fun w => decide (w.ordinal = 0) || w.img.cores.isEmpty) = true := by decide +kernel
theorem witness_VoyagesReplay_moved : let s := rehoming
    let s1 := quiesceVoyage s 65534
    s.canonical = true ∧ ReplayDue s 65534 due7 7 ∧ isDark s 23 = true ∧ reserveFor due7 23 = some 22 ∧ mayReplace s due7 65534 23 22 = true ∧
    quiet s1 65534 = true ∧ ∃ s2, rehomed s1 65534 23 22 = some s2 ∧ partDark s2 65534 = false ∧ s2.bring.failedDies = [] ∧
    (∀ c ∈ coresOf s2 65534, (s2.core c).misc.failed = false) ∧ ∀ w, s2.voyage 65534 = some w → RecordsThere s2 65534 (lostPositions s2 w 65534) := by
  refine ⟨by decide +kernel, replayDue_of (by decide +kernel), by decide +kernel, by decide +kernel, by decide +kernel, by decide +kernel, ?_⟩
  obtain ⟨s2, h, k⟩ := (Option.any_eq_true _ _).mp rehoming_light
  have a := rehoming_sound
  have b := rehoming_empty
  rw [h] at a b
  simp only [Option.any_some, Bool.and_eq_true, decide_eq_true_eq] at a b
  exact ⟨s2, h, partDark_of k, b.1, fun c _ => coresSound_of a c, fun _ _ => recordsThere_of b.2⟩

theorem witness_VoyagesReplay_rest : let v := { due [7] with img := emptyImage }
    let h := (replaying [7] {}).setVoyage 65534 (some v)
    let t := { (replaying [] {}) with tide := 1 }
    (h.canonical = true ∧ h.hm.hung = none ∧ h.voyage 65534 = some v ∧ v.st = vRunning ∧ v.preempt = none ∧ 7#8 ∈ v.due ∧ reserveFor v 23 = none) ∧
    (t.canonical = true ∧ t.hm.hung = none ∧ t.voyage 65534 = some (due []) ∧ (due []).segHeld = false ∧ (due []).savePhase = 0 ∧ (due []).due = [] ∧
      (due []).segStart + (due []).stmo < t.tide.toNat ∧ replaysOut (due []) 5 = false) := by decide +kernel

theorem witness_ResetsAndRestarts : let h := { State.reset with hm := { hung := some 0 } }
    let m := { (messaged (State.reset.setVoyage 65534 (some (voyage0 vRunning))) (mkMsg 0x10 16 [])) with hm := { hung := some 0, boxes := [(15, { st := 2, msg := some { mkMsg 0x10 16 [] with begun := true } })] } }
    (State.reset.setPart 23 (some (part23 false))).part 23 = some (part23 false) ∧ (State.reset.bring.powered = false ∨ State.reset.power.off = true) ∧
    (let p : State := { State.reset with bring := { powered := true } }
     p.bring.powered = true ∧ p.power.off = false) ∧
    (let r : State := { State.reset with sec := { restartImage := some [1] } }
     r.hm.hung = none ∧ r.hm.restartedAt = none ∧ r.sec.restartImage.isSome = true) ∧ State.reset.hm.hung = none ∧ State.reset.sec.restartImage = none ∧
    (let k : State := { State.reset with hm := { restartedAt := some 1 }, tide := 250000000 }
     k.hm.hung = none ∧ k.hm.restartedAt = some 1 ∧ k.tide.toNat < 1 + 250000000) ∧ h.hm.hung.isSome = true ∧ m.hm.hung.isSome = true ∧
    (∀ mb, mb < boxCount → ∀ x ∈ (m.box mb).msg, x.begun = true ∨ (msgType x.ty.toNat).any (·.2) = false) ∧
    (m.box 15).msg = some { mkMsg 0x10 16 [] with begun := true } ∧ (m.voyage 65534).isSome = true := by decide +kernel

def atStage (st : Nat) : State := withField (hmBase + 4) 0 4 st
/-- Stopped in S2 by the input voltage. -/
def starved : State := withField (hmBase + 4) 0 16 (2 + 16 * 2 + 256 * 0x21)
/-- Stage st of a panel with proven flow. -/
def staged (st : Nat) : State := let s := atStage st
  { s with bring := { s.bring with flowProven := true } }

theorem stageRuns_of {s : State} (h : (decide (stageState s = 0) && decide (stage s < 9) && s.bring.flowProven && s.thermal.emergency.isNone) = true) : StageRuns s := by
  simp only [Bool.and_eq_true, decide_eq_true_eq, Option.isNone_iff_eq_none] at h
  exact ⟨h.1.1.1, h.1.1.2, fun _ => h.1.2, fun _ => h.2⟩

theorem witness_BringupStages_runs : ∀ st ∈ [0, 1, 2, 3, 4, 5, 6, 7, 8], StageRuns (staged st) ∧ stage (staged st) = st := by
  have h : ∀ st ∈ [0, 1, 2, 3, 4, 5, 6, 7, 8], (decide (stageState (staged st) = 0) && decide (stage (staged st) < 9) && (staged st).bring.flowProven &&
      (staged st).thermal.emergency.isNone) = true ∧ stage (staged st) = st := by decide +kernel
  exact fun st hs => ⟨stageRuns_of (h st hs).1, (h st hs).2⟩

/-- A finding that is neither Fatal nor one that the stage makes, a Degraded one and a Fatal one; and stages that find nothing. -/
theorem witness_BringupStages_findings : stageFindings (staged 2) [⟨0x23, 0⟩] {} = [⟨0x23, 0⟩] ∧ (0x23 ∈ degradedCodes) ∧
    stageFindings (staged 2) [⟨0x21, 0x1FFF⟩] {} = [⟨0x21, 0x1FFF⟩] ∧ 0x21 ∈ fatalCodes ∧ stageFindings (staged 1) [] {} = [] ∧ stageFindings (staged 3) [] {} = [] ∧
    stageFindings (staged 6) [] {} = [] := by decide +kernel

/-- Without records and substrate faults no lane is bad, and the links keep their full width. -/
theorem endLanes_none {s : State} (hd : s.bring.dies = []) (hs : s.bring.fuses.subs = []) (port : Nat) (e : LinkEnd) : endLanes s port e = (0, 0) := by
  have h (off n : Nat) : fieldAt [] off n = leNat (zeros n) := by simp [fieldAt, slice]
  have h40 : leNat (zeros 40) = 0 := by decide +kernel
  have h24 : leNat (zeros 24) = 0 := by decide +kernel
  simp only [endLanes, hd, hs, look, lanesOf, h, List.filter_nil, List.foldl_nil]
  split <;> simp [h40, h24, bits]
theorem setLink_none {s : State} (hd : s.bring.dies = []) (hs : s.bring.fuses.subs = []) (hb : s.fabric.linkBad = []) (hw : s.fabric.linkWidth = []) (l : Nat) :
    setLink [] s l = s := by
  have h0 : bitCount (0 ||| 0) 146 = 0 := by decide +kernel
  have hp : ∀ x : Bool, widthCode x 0 = 0 := by decide
  have hput : put 0 ([] : SMap Nat) l 0 = [] := rfl
  simp only [setLink, badLanes, endLanes_none hd hs, h0, Nat.max_self, List.filter_nil, List.map_nil, List.sum_nil, Nat.add_zero, hp, hb, hw, hput]
  cases s with | mk => cases ‹FabricSt›; simp_all
theorem witness_BringupStages_links : stageFindings (staged 4) [] {} = [] := by
  have hf : ∀ L : List Nat, L.foldl (setLink []) (staged 4) = staged 4 := fun L => by
    induction L with
    | nil => rfl
    | cons l L ih => rw [List.foldl_cons, setLink_none rfl rfl rfl rfl l, ih]
  have hw : weakLinks (setLinks (staged 4) [] []) = [] := by
    have h : (setLinks (staged 4) [] []).fabric.linkWidth = [] := by
      simp only [setLinks, crossedLinks, List.filter_nil, List.map_nil, List.foldl_nil, hf]; rfl
    rw [weakLinks, List.map_eq_nil_iff, List.filter_eq_nil_iff]
    intro l _
    simp [h, look]
  have h4 : stage (staged 4) = 4 := by decide +kernel
  simp [stageFindings, stageBefore, observed, h4, hw, crossedFindings, crossedLinks]

theorem witness_BringupStages_rest : (let s := atStage 2
     stageState s = 0 ∧ stage s = 2 ∧ s.bring.flowProven = false) ∧
    (let s := { staged 5 with thermal := { emergency := some 1 } }
     stageState s = 0 ∧ stage s = 5 ∧ s.bring.flowProven = true ∧ s.thermal.emergency.isSome = true) ∧ stage (atStage 9) = 9 ∧
    (staged 0).sec.zeroiseDue = false ∧ (let s := { staged 0 with sec := { zeroiseDue := true } }
     stage s = 0 ∧ s.sec.zeroiseDue = true) ∧
    (let s := { staged 8 with sec := { licence := [1] } }
     s.sec.licence ≠ [] ∧ s.sec.stagedLicence = none ∧ stage s = 8) ∧
    recovery starved = true ∧ stageCode starved = 0x21 ∧ recovery State.reset = false := by decide +kernel

theorem witness_ResetIsAsStated : reg State.reset (irqBase + 0x44) = 0xFFFFFFFF ∧ portState State.reset 47 = pDown ∧ rthNow State.reset = 2500 := by decide +kernel

/-! ## Witnesses: the module and the management buses -/

/-- The module is operational; READY. -/
def secured (x : SecSt) : State := { putField (atStage 9) secStatusOff 0 2 1 with sec := x }
theorem authServed_of {s : State} (h : (served s && decide (s.sec.suspendedUntil = none)) = true) : AuthServed s := by
  simp only [Bool.and_eq_true, decide_eq_true_eq] at h
  exact ⟨h.1, h.2⟩

theorem witness_ModuleServices : AuthServed (secured {}) ∧ stage (secured {}) = 9 ∧ AuthServed (putField (atStage 8) secStatusOff 0 2 3) ∧
    stage (putField (atStage 8) secStatusOff 0 2 3) < 9 ∧ 2 ^ 20 ≤ (secured { draws := 1048576 }).sec.draws ∧ (secured {}).sec.draws < 2 ^ 20 ∧
    (secured { suspendedUntil := some 0 }).sec.suspendedUntil = some 0 ∧ 0 ≤ (secured { suspendedUntil := some 0 }).tide.toNat ∧ (2#2).toNat < 3 ∧
    (secured {}).sec.dumpHeld = true :=
  ⟨authServed_of (by decide +kernel), by decide +kernel, authServed_of (by decide +kernel), by decide +kernel, by decide +kernel, by decide +kernel, by decide +kernel,
    by decide +kernel, by decide +kernel, by decide +kernel⟩

/-- Bus 0 with an open session; an update of class 2 on it. -/
def sessioned (x : SecSt) : State := { secured x with mgmt := [(0, { session := some [1] })] }
def wholeSet : SMap Bytes := (List.range 6).map fun i => (i, [1])
def updating (cls : BitVec 16) (verified : Bool) : SecSt := { update := some ⟨0, some cls, [], 0, verified⟩ }
def dump : State := { secured {} with log := { dumps := [⟨4, 1, 7, 0, 0, 0, [], [], false⟩] } }
theorem witness_ManagementBuses : 1 < busCount ∧ 0 < busCount ∧ served (secured {}) = true ∧ attests (secured {}) = true ∧ (secured {}).sec.suspendedUntil = none ∧
    ((sessioned {}).bus 0).session.isSome = true ∧ inSession (sessioned {}) 0 = true ∧ (zeros 32).length = 32 ∧ inSession (sessioned { ideKeys := wholeSet }) 0 = true ∧
    setWhole (sessioned { ideKeys := wholeSet }) false = true ∧ setWhole (sessioned {}) true = false ∧ (sessioned { ideSet := some true }).sec.ideSet.isSome = true ∧
    busServes (secured {}) = true ∧ (secured {}).sec.update = none ∧ busServes (secured (updating 4 false)) = true ∧ moduleState (secured (updating 3 false)) ≠ 2 ∧
    (secured (updating 3 false)).sec.update = some ⟨0, some 3, [], 0, false⟩ ∧ (secured (updating 2 true)).sec.update = some ⟨0, some 2, [], 0, true⟩ ∧
    sensorValue (secured {}) 4 ≠ none ∧ dump.log.dumps[0]? = some ⟨4, 1, 7, 0, 0, 0, [], [], false⟩ ∧ busServes dump = true := by decide +kernel

/-- An update of class 3; one of class 4 whose fuse map holds (its CRC-32C in the last word). -/
theorem witness_ManagementBuses_licence : busServes (secured (updating 3 true)) = true ∧
    (secured (updating 3 true)).sec.update = some ⟨0, some 3, [], 0, true⟩ ∧ (secured (updating 4 false)).sec.update = some ⟨0, some 4, [], 0, false⟩ := by
  decide +kernel
def fuseImage : Update := ⟨0, some 4, (7936, 1) :: putList 0 [] 7976 (leBytes 4 2225054454), 7980, true⟩
theorem witness_ManagementBuses_fuses : let s := secured { update := some fuseImage }
    busServes s = true ∧ s.sec.update = some fuseImage ∧ (fuseBody s (updateImage fuseImage)).isSome = true := by decide +kernel

/-! ## Witnesses: the queue, the encoding, the invariant -/

theorem witness_IdleStepPassesOnePeriod : State.reset.pending = [] := rfl
/-- A state with entries in its maps and a command in its queue meets the invariant, and its step answers a next state. -/
theorem witness_StepKeepsCanonicalForm : let s := { replaySeated [5] with pending := [.rcRead hmBase 4] }
    State.reset.canonical = true ∧ s.canonical = true ∧ yields (step s) (fun t => t.pending = []) = true := by decide +kernel
theorem witness_CommandsLeaveTheQueue : yields (exec (.rcRead hmBase 4) { State.reset with pending := [.msixSend] }) (fun t => t.pending = [.msixSend]) = true := by
  decide +kernel
theorem witness_DecodeOfEncode : stepOk ⟨.mma mmaF, .vtopk vkF, .bopen bopenF, .pset ⟨3, false, 0x12345678⟩⟩ = true := by decide +kernel
theorem witness_EncodeOfDecode : decodeStep 0x083012345678 = some (onlyS (.pset ⟨3, false, 0x12345678⟩)) := by decide +kernel

/-! ## Worked examples of the spec -/

def terms (c : Nat) (l r : List Nat) : List (Option Dy2) := (l.zip r).map fun p => product (decodeElem c p.1) (decodeElem c p.2)
def evens (l : List (Option Dy2)) : Elem := (accumulate {} (l.map fun u => u.map (·.a)) 0).1
def odds (l : List (Option Dy2)) : Elem := (accumulate {} (l.map fun u => u.map (·.b)) 0).1

/-- 02 R42, example: 448 * 448 + 2^-9 * 2^-9 - 448 * 448 leaves 2^-18. -/
theorem test_exact_sum : evens (terms 0 [0x7E, 1, 0xFE] [0x7E, 1, 0x7E]) = { a := 0x40000000 } := by decide +kernel
/-- The same element read out to FP32. -/
theorem test_exact_sum_readout : (fp32OfDy (elemVal { a := 0x40000000 } 0 0) false none).1 = 0x36800000 := by decide +kernel

/-- 02 R43, example: the rails of four GL4 terms and their BF16 read-out. -/
theorem test_gl4_rails : evens (terms 8 [7, 6, 13, 4] [7, 7, 6, 5]) = { a := 0x1000000000000 } ∧ odds (terms 8 [7, 6, 13, 4] [7, 7, 6, 5]) = { a := 0x600000000000 } := by
  decide +kernel
theorem test_gl4_readout : (convElem 9 (some ⟨elemVal { a := 0x1000000000000 } 0 0, elemVal { a := 0x600000000000 } 0 0⟩) none).1 = 0x3FC4 := by decide +kernel

/-- 02 R46, example: the scale of a block whose largest value is 2^20. -/
theorem test_mx_scale : mxScale (mxEmax 7) (inj2 (DyOps.pow2 20)) = 145 := by decide +kernel

/-- 03 Table 3-4, example: the word of an MMA of four MXFP4 blocks. -/
theorem test_decode_mma : decodeStep (0x01774687000000000000#256 <<< 176) = some (onlyM (.mma ⟨7, 7, 2, 3, 4, 3, true, 0, 0⟩)) := by decide +kernel
/-- Its latency and interval, and the advance of its pointers. -/
theorem test_mma_timing : (mSlot (runs (onlyM (.mma ⟨7, 7, 2, 3, 4, 3, true, 0, 0⟩))) (.mma ⟨7, 7, 2, 3, 4, 3, true, 0, 0⟩)).fast = [.p 3 4352, .p 4 4352] := by
  decide +kernel

/-- 03 R79, example: the router's logits. -/
def logits : Core := { regs := { v := [(128 * 9, 0x3F000000), (128 * 9 + 1, 0x40100000), (128 * 9 + 2, 0xBF800000), (128 * 9 + 3, 0x40100000), (128 * 9 + 4, 0x3F400000),
  (128 * 9 + 5, 0x40400000), (128 * 9 + 7, 0x3FC00000)] } }
def writesOf (o : SlotOut) : List Wr := o.writes
theorem test_vtopk : let w := writesOf (vSlot logits (.vtopk vkF))
    w.getD 0 (.p 0 0) = .v (128 * 10) 0x40400000 ∧ w.getD 64 (.p 0 0) = .v (128 * 10 + 64) 5 ∧ w.getD 1 (.p 0 0) = .v (128 * 10 + 1) 0x40100000 ∧
    w.getD 65 (.p 0 0) = .v (128 * 10 + 65) 1 ∧ w.getD 2 (.p 0 0) = .v (128 * 10 + 2) 0 ∧ w.getLast? = some (.f 3 0x22) := by decide +kernel
/-- 03 R77, example: 2^0 and 2^-0.75. -/
theorem test_vexpd : (vexpdLane 0x40400000 0x40400000 0x3F800000 none).1 = 0x3F800000 ∧ (vexpdLane 0x40100000 0x40400000 0x3F800000 none).1 = 0x3F1837F0 := by
  decide +kernel

/-- 04 R88, example: the first register of a CRC-32C. -/
theorem test_check_init : checkInit 1 0x42000 0x17 = 0xFFFBDFE8 := by decide +kernel
/-- 04 R100, example: the word of a LOOP. -/
theorem test_decode_loop : decodeStep 0x014246000058 = some (onlyS (.loop ⟨1, 0x123, false, 88⟩)) := by decide +kernel
/-- 06 R126, example: banks of the operands of an MMA. -/
theorem test_banks : bankOf 0x100000 = 4 ∧ bankOf 0x200000 = 8 ∧ bankOf 0x100800 = 36 - 32 := by decide +kernel

/-- 01 R12, example: row 4 with a bad site in column 9, and in column 10 a bad core 1 of core row 2. -/
def spared : State := { State.reset with bring := { spareSite := [(4, 9)], spareCore := [((4 * 13 + 10) * 6 + 2, 1)] } }
theorem test_sites : physCol spared 4 8 = 8 ∧ physCore spared 4 8 2 4 = 4 ∧ physCol spared 4 9 = 10 ∧ physCore spared 4 10 2 2 = 3 := by decide +kernel
/-- 14 R355, example: the strap word of the die in row 4, column 9, and what HM_STAGE reads in S4. -/
theorem test_strap : strapOf State.reset (72 * 24 + 6 * 8) = 0x289 := by decide +kernel
/-- 13 R327, example: core (40, 26) lies in basin 9, physical column 7. -/
theorem test_basin : basinOf State.reset (72 * 26 + 40) = 9 ∧ physCol State.reset 4 6 = 7 ∧ physCore State.reset 4 7 2 4 = 4 := by decide +kernel
/-- 13 R333, example: the takeover of that core. -/
theorem test_spare_core : yields (exec (.coreFailed (72 * 26 + 40)) State.reset)
    (fun t => physCore t 4 7 2 4 = 5 && physCore t 4 7 2 5 = 6 && spareCore t 4 7 2 = 4) = true := by decide +kernel

/-- 11 R273, example: lanes 5 and 11 have failed. -/
theorem test_lanes : laneCount 0xF7DF = 14 ∧ widthFor 14 = 12 ∧ lanesUsed 0xF7DF = 0x37DF := by decide +kernel

/-- 12 R310, example: hot spots 2, 3 and 4 of a die 1 ms ago, and the two sensors of spot 3. -/
def spots (d r : Int) : State :=
  { State.reset with thermal := { ctrl := [(2, 8000), (4, 8300)], sensors := [(6, { sum := d, n := 1 }), (7, { sum := r, n := 1 })] } }
theorem test_spot_near : yields (exec .thermalReading (spots 8100 8600)) (fun t => look 0 t.thermal.ctrl 3 = 8600 && bitOf (reg t (leafOff 44 0)).toNat 0) = true := by
  decide +kernel
theorem test_spot_bad : yields (exec .thermalReading (spots 8200 9900))
    (fun t => look 0 t.thermal.ctrl 3 = 8275 && (sensor t 7).bad && !(sensor t 6).bad) = true := by decide +kernel

/-- 12 R314, example: the pump demand at 36 kW and at 23 kW with a target of 6 K. -/
def pumping (w : Nat) : State := setReg (withReg panelPowerOff (BitVec.ofNat 32 w)) (thmBase + 0x24) 60
theorem test_demand : demandFor (pumping 36000) = 361 ∧ demandFor (pumping 23000) = 100 := by decide +kernel
/-- 12 R316, example: the cap at first use and after 10 s, with an inlet at 30 degrees. -/
def inlet30 (rth : Nat) : State := setReg (setReg (withReg (thmBase + 0x10) 3000) (thmBase + 0x28) (BitVec.ofNat 32 rth)) pwrInputOff 48000
theorem test_cap : capFor (inlet30 2500) = 26000 ∧ capFor (inlet30 1800) = 36000 := by decide +kernel

end Sys2Proof.Tests
end

/-! PROOFS. The sequencer: the loop back-edge, the causes that an issue raises, and the issue of a step that holds an S operation alone. -/

namespace Sys2Proof.Machine

open Sys2Proof

/-! ## The loop back-edge (04 R99) -/

theorem advance_of_passes_left {k : Core} (cc : Nat) {fr : Frame} {r : List Frame} (hs : k.seq.stack = fr :: r)
    (hl : fr.isLoop = true) (he : fr.last = k.seq.mp) (hp : (lReg k fr.ln).toNat + 1 < fr.trips.toNat) :
    advance k cc = { core := setSeq k fr.start (cc + 1) k.seq.stack, writes := [.l fr.ln (lReg k fr.ln + 1)] } := by
  simp [advance, hs, hl, he, hp]

theorem advance_of_last_pass {k : Core} (cc : Nat) {fr : Frame} {r : List Frame} (hs : k.seq.stack = fr :: r)
    (hl : fr.isLoop = true) (he : fr.last = k.seq.mp) (hp : fr.trips.toNat ≤ (lReg k fr.ln).toNat + 1) :
    advance k cc = { core := setSeq k (k.seq.mp + 1) (cc + 1) r } := by
  simp [advance, hs, hl, he, Nat.not_lt.mpr hp]

theorem advance_of_no_edge {k : Core} (cc : Nat)
    (hn : ∀ fr r, k.seq.stack = fr :: r → fr.isLoop = true → fr.last ≠ k.seq.mp) :
    advance k cc = { core := setSeq k (k.seq.mp + 1) (cc + 1) k.seq.stack } := by
  cases hs : k.seq.stack with
  | nil => simp [advance, hs]
  | cons fr r =>
    have hne : ¬(fr.isLoop = true ∧ fr.last = k.seq.mp) := fun h => hn fr r hs h.1 h.2
    simp [advance, hs, hne]

theorem advance_nextIssue (k : Core) (cc : Nat) : (advance k cc).core.seq.nextIssue = cc + 1 := by
  unfold advance
  dsimp only
  repeat' split
  all_goals rfl

/-! ## CALL, RET and LOOP on the loop stack (04 R99 R101) -/

theorem callIssue_of_full {k : Core} (cc : Nat) (tgt : BitVec 13) (h : 8 ≤ k.seq.stack.length) :
    callIssue k cc tgt = halts k [cCoreFault] := if_pos h

theorem callIssue_of_room {k : Core} (cc : Nat) (tgt : BitVec 13) (h : k.seq.stack.length < 8) :
    callIssue k cc tgt = { core := setSeq k tgt (cc + 2) (callFrame k :: k.seq.stack) } := if_neg (Nat.not_le.mpr h)

theorem retIssue_of_no_call {k : Core} (cc : Nat) (h : ∀ fr r, k.seq.stack = fr :: r → fr.isLoop = true) :
    retIssue k cc = halts k [cCoreFault] := by
  unfold retIssue
  split
  · next fr r hs => exact if_pos (h fr r hs)
  · rfl

theorem retIssue_of_call {k : Core} (cc : Nat) {fr : Frame} {r : List Frame} (hs : k.seq.stack = fr :: r)
    (hc : fr.isLoop = false) : retIssue k cc = { core := setSeq k fr.start (cc + 2) r } := by
  simp [retIssue, hs, hc]

theorem loopIssue_of_full {k : Core} (cc : Nat) {f : LoopF} (hn : loopCount k f ≠ 0) (h : 8 ≤ k.seq.stack.length) :
    loopIssue k cc f = halts k [cCoreFault] := (if_neg hn).trans (if_pos h)

/-! ## What raising a core's causes can do (04 R81, 13 Table 13-8) -/

theorem OnlyIn.core_eq {l : List Part} {s t : State} (h : OnlyIn l s t) (hl : Part.cores ∉ l) (d : Nat) :
    t.core d = s.core d := by
  have he : t.cores = s.cores := h .cores hl
  simp [State.core, he]

theorem OnlyIn.voyage_eq {l : List Part} {s t : State} (h : OnlyIn l s t) (hl : Part.voyages ∉ l) (i : Nat) :
    t.voyage i = s.voyage i := by
  have he : t.voyages = s.voyages := h .voyages hl
  simp [State.voyage, he]

theorem raiseCore_only (s : State) (c cond : Nat) (at_ : Option (Nat × BitVec 13)) :
    OnlyIn [.regs, .log] s (raiseCore s c cond at_) := by
  unfold raiseCore
  dsimp only
  split
  · exact raise_only _ _ _ _ _
  · exact (raise_only _ _ _ _ _).trans ((setReg_only _ _ _).mono (by decide))

theorem raiseCores_only (s : State) (c : Nat) (step : BitVec 13) (l : List (Nat × Nat)) :
    OnlyIn [.regs, .log] s (raiseCores s c step l) := by
  induction l generalizing s with
  | nil => exact .refl _ _
  | cons x r ih => exact (raiseCore_only _ _ _ _).trans (ih _)

/-- HM_CORE_FIRST lies beside the cause register, so that noting the first event leaves the cause set. -/
theorem raiseCore_sets (s : State) (c cond : Nat) (at_ : Option (Nat × BitVec 13)) (h : cond < 32) :
    causeSet (raiseCore s c cond at_) (2 + basinOf s c) (leafOf s c) cond := by
  have hr := raise_sets s (2 + basinOf s c) (leafOf s c) cond
    { unit := c, vid := (s.core c).misc.vid, ordinal := (s.core c).seq.ordinal } h
  unfold raiseCore
  dsimp only
  split
  · exact hr
  · rwa [causeSet, reg_setReg_other _ _ (by omega)]

@[simp] theorem basinOf_setCore (s : State) (c d : Nat) (k : Core) : basinOf (s.setCore c k) d = basinOf s d := rfl
@[simp] theorem leafOf_setCore (s : State) (c d : Nat) (k : Core) : leafOf (s.setCore c k) d = leafOf s d := rfl

/-! ## A step that issues -/

/-- A slot command at an issuable core whose S operation waits for nothing issues its step. -/
theorem issueOnly_issues {s : State} {c : Nat} {st : Step4} (hi : Issuable s c st)
    (hr : resultReady (s.core c) st.s = true) (ht : tokensReady (s.core c) s.cc st.c = true)
    (hb : ∀ b h, st.s ≠ .bar b h) (hm : ∀ mid, st.s ≠ .moor mid) :
    issueOnly s c st = .next (finishIssue s c (s.core c).seq.mp
      (issueCore (s.core c) s.cc (coreId s c) (imageOf s c) (coreXY s c) st)) := by
  have hstep : issueStep s c st = finishIssue s c (s.core c).seq.mp
      (issueCore (s.core c) s.cc (coreId s c) (imageOf s c) (coreXY s c) st) := by
    -- By `hb` and `hm` the last alternative of issueStep's match is the one that runs.
    simp only [issueStep, hi.may, hi.free, hr, ht, Bool.not_true, Bool.or_self, Bool.false_eq_true, if_false]
  rw [issueOnly, if_pos hi.unit, if_pos (by simp [hi.ok, hi.fits]), hstep]

@[simp] theorem stampEpoch_seq (s : State) (k : Core) : (stampEpoch s k).seq = k.seq := rfl
@[simp] theorem stampEpoch_sync (s : State) (k : Core) : (stampEpoch s k).sync = k.sync := rfl

/-- Where no voyage can end, an issue only sets its core and raises its conditions. -/
theorem finishIssue_eq_raiseCores {s : State} {c : Nat} (step : BitVec 13) {r : StepRes}
    (h : r.halt = false ∨ s.voyage r.core.misc.vid.toNat = none) :
    finishIssue s c step r = raiseCores (s.setCore c (stampEpoch s r.core)) c step r.conds := by
  unfold finishIssue
  dsimp only
  split
  · next hh =>
    have hv := h.resolve_left (by simp [hh])
    have hv' : (raiseCores (s.setCore c (stampEpoch s r.core)) c step r.conds).voyage r.core.misc.vid.toNat = none :=
      ((raiseCores_only _ _ _ _).voyage_eq (by decide) _).trans hv
    have hend (status ty arg0 arg1 : Nat) : endVoyage (raiseCores (s.setCore c (stampEpoch s r.core)) c step r.conds)
        r.core.misc.vid.toNat status ty arg0 arg1 = raiseCores (s.setCore c (stampEpoch s r.core)) c step r.conds := by
      rw [endVoyage, hv']
    unfold voyageFault
    split <;> exact hend _ _ _ _
  · rfl

theorem finishIssue_core {s : State} {c : Nat} (step : BitVec 13) {r : StepRes}
    (h : r.halt = false ∨ s.voyage r.core.misc.vid.toNat = none) (d : Nat) :
    (finishIssue s c step r).core d = if d = c then stampEpoch s r.core else s.core d := by
  rw [finishIssue_eq_raiseCores step h, (raiseCores_only _ _ _ _).core_eq (by decide), State.core_setCore]

/-! ## A step of one S operation -/

/-- A core that has halted at its step. -/
def haltedCore (k : Core) : Core := { k with sync := { k.sync with run := .halted, waiting := none } }

@[simp] theorem haltedCore_run (k : Core) : (haltedCore k).sync.run = .halted := rfl
@[simp] theorem haltedCore_seq (k : Core) : (haltedCore k).seq = k.seq := rfl

theorem issueCore_onlyS_halts {k : Core} {cc : Nat} (self : BitVec 21) {img : Image} {xy : Nat × Nat} {op : SOp}
    (h : sIssue k cc img xy op = halts k [cCoreFault]) :
    issueCore k cc self img xy (onlyS op) = { core := haltedCore k, conds := [(3, cCoreFault)], halt := true } := by
  have hs : sIssue (cIssue k cc self (onlyS op).c).core cc img xy (onlyS op).s = halts k [cCoreFault] := h
  unfold issueCore
  dsimp only
  rw [hs]
  rfl

theorem issueCore_onlyS_goes {k : Core} {cc : Nat} (self : BitVec 21) {img : Image} {xy : Nat × Nat} {op : SOp}
    {r : SRes} (h : sIssue k cc img xy op = r) (hr : r.halt = false) :
    (issueCore k cc self img xy (onlyS op)).halt = false ∧
      (issueCore k cc self img xy (onlyS op)).core.seq.nextIssue = r.core.seq.nextIssue := by
  have hs : sIssue (cIssue k cc self (onlyS op).c).core cc img xy (onlyS op).s = r := h
  have hm : (mSlot k (onlyS op).m).halt = false := rfl
  unfold issueCore
  dsimp only
  rw [hs, hm, hr]
  exact ⟨rfl, rfl⟩

/-- An S operation that neither joins other cores nor awaits a result. -/
def issuesAtOnce : SOp → Bool
  | .bar _ _ | .moor _ | .rwait _ => false
  | _ => true

theorem resultReady_of_issuesAtOnce (k : Core) {op : SOp} (h : issuesAtOnce op = true) : resultReady k op = true := by
  unfold resultReady
  split
  · cases h
  · rfl

theorem issueOnly_onlyS {s : State} {c : Nat} {op : SOp} (hi : Issuable s c (onlyS op)) (ho : issuesAtOnce op = true) :
    issueOnly s c (onlyS op) = .next (finishIssue s c (s.core c).seq.mp
      (issueCore (s.core c) s.cc (coreId s c) (imageOf s c) (coreXY s c) (onlyS op))) := by
  refine issueOnly_issues hi (resultReady_of_issuesAtOnce _ ho) rfl ?_ ?_
  · rintro b h rfl; cases ho
  · rintro mid rfl; cases ho

/-- Core c halted with CORE_FAULT at its step, and no other core changed. -/
def FaultHalted (s t : State) (c : Nat) : Prop :=
  (t.core c).sync.run = .halted ∧ causeSet t (2 + basinOf s c) (leafOf s c) cCoreFault ∧ (t.core c).seq = (s.core c).seq ∧
    CoreOnly c s t

/-- An S operation that meets a stack error halts its core (04 R81). -/
theorem issueOnly_halts {s : State} {c : Nat} {op : SOp} (hv : s.voyage (s.core c).misc.vid.toNat = none)
    (hi : Issuable s c (onlyS op)) (ho : issuesAtOnce op = true)
    (h : sIssue (s.core c) s.cc (imageOf s c) (coreXY s c) op = halts (s.core c) [cCoreFault]) :
    ∃ t, issueOnly s c (onlyS op) = .next t ∧ FaultHalted s t c := by
  refine ⟨_, issueOnly_onlyS hi ho, ?_⟩
  rw [issueCore_onlyS_halts _ h]
  refine ⟨?_, ?_, ?_, fun d hd => ?_⟩
  · rw [finishIssue_core _ (.inr hv), if_pos rfl, stampEpoch_sync, haltedCore_run]
  · rw [finishIssue_eq_raiseCores _ (.inr hv)]
    have hset := raiseCore_sets (s.setCore c (stampEpoch s (haltedCore (s.core c)))) c cCoreFault
      (some (3, (s.core c).seq.mp)) (by decide)
    rwa [basinOf_setCore, leafOf_setCore] at hset
  · rw [finishIssue_core _ (.inr hv), if_pos rfl, stampEpoch_seq, haltedCore_seq]
  · rw [finishIssue_core _ (.inr hv), if_neg hd]

/-- An S operation that issues leaves its core's next issue where the operation puts it. -/
theorem issueOnly_nextIssue {s : State} {c : Nat} {op : SOp} {r : SRes} (hi : Issuable s c (onlyS op))
    (ho : issuesAtOnce op = true) (h : sIssue (s.core c) s.cc (imageOf s c) (coreXY s c) op = r) (hr : r.halt = false) :
    ∃ t, issueOnly s c (onlyS op) = .next t ∧ (t.core c).seq.nextIssue = r.core.seq.nextIssue := by
  obtain ⟨hgoes, hnext⟩ := issueCore_onlyS_goes (coreId s c) h hr
  refine ⟨_, issueOnly_onlyS hi ho, ?_⟩
  rw [finishIssue_core _ (.inl hgoes), if_pos rfl, stampEpoch_seq, hnext]

/-! ## O8: the back-edge, stack errors, and the bubble of calls and returns -/

/-- The three ways on from a step: back to the loop's first step, out of the loop, or to the next step. -/
theorem advance_cases (k : Core) (cc : Nat) :
    (∀ fr r, k.seq.stack = fr :: r → fr.isLoop = true → fr.last = k.seq.mp → (lReg k fr.ln).toNat + 1 < fr.trips.toNat →
      (advance k cc).core.seq.mp = fr.start ∧ (advance k cc).writes = [.l fr.ln (lReg k fr.ln + 1)] ∧
        (advance k cc).core.seq.stack = k.seq.stack) ∧
    (∀ fr r, k.seq.stack = fr :: r → fr.isLoop = true → fr.last = k.seq.mp → fr.trips.toNat ≤ (lReg k fr.ln).toNat + 1 →
      (advance k cc).core.seq.mp = k.seq.mp + 1 ∧ (advance k cc).writes = [] ∧ (advance k cc).core.seq.stack = r) ∧
    ((∀ fr r, k.seq.stack = fr :: r → fr.isLoop = true → fr.last ≠ k.seq.mp) →
      (advance k cc).core.seq.mp = k.seq.mp + 1 ∧ (advance k cc).writes = [] ∧
        (advance k cc).core.seq.stack = k.seq.stack) ∧
    (advance k cc).core.seq.nextIssue = cc + 1 := by
  refine ⟨fun fr r hs hl he hp => ?_, fun fr r hs hl he hp => ?_, fun hn => ?_, advance_nextIssue k cc⟩
  · rw [advance_of_passes_left cc hs hl he hp]; exact ⟨rfl, rfl, rfl⟩
  · rw [advance_of_last_pass cc hs hl he hp]; exact ⟨rfl, rfl, rfl⟩
  · rw [advance_of_no_edge cc hn]; exact ⟨rfl, rfl, rfl⟩

theorem exec_loop_full {s : State} {c : Nat} {f : LoopF} (hv : s.voyage (s.core c).misc.vid.toNat = none)
    (hi : Issuable s c (onlyS (.loop f))) (hn : loopCount (s.core c) f ≠ 0) (h : 8 ≤ (s.core c).seq.stack.length) :
    ∃ t, exec (.loop c f) s = .next t ∧ FaultHalted s t c :=
  issueOnly_halts hv hi rfl (loopIssue_of_full s.cc hn h)

theorem exec_call_full {s : State} {c : Nat} {tgt : BitVec 13} (hv : s.voyage (s.core c).misc.vid.toNat = none)
    (hi : Issuable s c (onlyS (.call tgt))) (h : 8 ≤ (s.core c).seq.stack.length) :
    ∃ t, exec (.call c tgt) s = .next t ∧ FaultHalted s t c :=
  issueOnly_halts hv hi rfl (callIssue_of_full s.cc tgt h)

theorem exec_ret_no_call {s : State} {c : Nat} (hv : s.voyage (s.core c).misc.vid.toNat = none)
    (hi : Issuable s c (onlyS .ret)) (h : ∀ fr r, (s.core c).seq.stack = fr :: r → fr.isLoop = true) :
    ∃ t, exec (.ret c) s = .next t ∧ FaultHalted s t c :=
  issueOnly_halts hv hi rfl (retIssue_of_no_call s.cc h)

theorem exec_call_bubble {s : State} {c : Nat} {tgt : BitVec 13} (hi : Issuable s c (onlyS (.call tgt)))
    (h : (s.core c).seq.stack.length < 8) :
    ∃ t, exec (.call c tgt) s = .next t ∧ (t.core c).seq.nextIssue = s.cc + 2 :=
  issueOnly_nextIssue hi rfl (callIssue_of_room s.cc tgt h) rfl

theorem exec_ret_bubble {s : State} {c : Nat} {fr : Frame} {r : List Frame} (hi : Issuable s c (onlyS .ret))
    (hs : (s.core c).seq.stack = fr :: r) (hc : fr.isLoop = false) :
    ∃ t, exec (.ret c) s = .next t ∧ (t.core c).seq.nextIssue = s.cc + 2 :=
  issueOnly_nextIssue hi rfl (retIssue_of_call s.cc hs hc) rfl

/-- Settles O8: each clause is one of the lemmas above, for the back-edge, the stack errors and the bubble. -/
theorem loopsAndStackErrors : Obligations.LoopsAndStackErrors :=
  ⟨advance_cases,
    fun _ _ hv => ⟨fun _ hi hn h => exec_loop_full hv hi hn h, fun _ hi h => exec_call_full hv hi h,
      fun hi h => exec_ret_no_call hv hi h⟩,
    fun _ _ => ⟨fun _ hi h => exec_call_bubble hi h, fun _ _ hi hs hc => exec_ret_bubble hi hs hc⟩⟩

end Sys2Proof.Machine

/-! PROOFS. EA96 accumulation and merging (02 R41, 07 R176): what an exact sum leaves in an element, then R41's three cases and the merge of two elements and of two tile images. -/

namespace Sys2Proof.Machine

open Sys2Proof

/-! ## An exact sum put into an element -/

/-- sint(96) holds every integer between its bounds. -/
theorem toInt_ofInt_sint96 {n : Int} (hl : -(2 ^ 95) ≤ n) (hu : n ≤ 2 ^ 95 - 1) : (BitVec.ofInt 96 n).toInt = n :=
  BitVec.toInt_ofInt_eq_self (by decide) hl (by omega)

theorem clampElem_of_above (x : Elem) {s : Int} (h : 2 ^ 95 - 1 < s) :
    (clampElem x s).1 = { x with a := BitVec.ofInt 96 (2 ^ 95 - 1), sat := true } := by
  rw [clampElem, if_pos h]

theorem clampElem_of_below (x : Elem) {s : Int} (h : s < -(2 ^ 95)) :
    (clampElem x s).1 = { x with a := BitVec.ofInt 96 (-(2 ^ 95)), sat := true } := by
  rw [clampElem, if_neg (by omega), if_pos h]

theorem clampElem_of_fits (x : Elem) {s : Int} (hl : -(2 ^ 95) ≤ s) (hu : s ≤ 2 ^ 95 - 1) :
    (clampElem x s).1 = { x with a := BitVec.ofInt 96 s } := by
  rw [clampElem, if_neg (by omega), if_neg (by omega)]

/-- A sum is above the elements, below them, or one of them. -/
theorem sint96_cases (s : Int) : 2 ^ 95 - 1 < s ∨ s < -(2 ^ 95) ∨ (-(2 ^ 95) ≤ s ∧ s ≤ 2 ^ 95 - 1) := by omega

theorem clampElem_toInt (x : Elem) (s : Int) : (clampElem x s).1.a.toInt = max (-(2 ^ 95)) (min (2 ^ 95 - 1) s) := by
  obtain h | h | ⟨hl, hu⟩ := sint96_cases s
  · rw [clampElem_of_above x h, toInt_ofInt_sint96 (by decide) (by decide)]; omega
  · rw [clampElem_of_below x h, toInt_ofInt_sint96 (by decide) (by decide)]; omega
  · rw [clampElem_of_fits x hl hu, toInt_ofInt_sint96 hl hu]; omega

theorem clampElem_sat_iff (x : Elem) (s : Int) :
    (clampElem x s).1.sat = true ↔ x.sat = true ∨ s < -(2 ^ 95) ∨ 2 ^ 95 - 1 < s := by
  obtain h | h | ⟨hl, hu⟩ := sint96_cases s
  · simp only [clampElem_of_above x h, true_iff]; exact .inr (.inr h)
  · simp only [clampElem_of_below x h, true_iff]; exact .inr (.inl h)
  · rw [clampElem_of_fits x hl hu]
    exact ⟨.inl, fun h => h.resolve_right (by omega)⟩

@[simp] theorem clampElem_inv (x : Elem) (s : Int) : (clampElem x s).1.inv = x.inv := by
  obtain h | h | ⟨hl, hu⟩ := sint96_cases s
  · rw [clampElem_of_above x h]
  · rw [clampElem_of_below x h]
  · rw [clampElem_of_fits x hl hu]

/-! ## The terms of one operation (02 R41) -/

/-- The exact sum of the terms, each rounded to the grid of scale exponent `t`. -/
def gridSum (terms : List (Option Dy)) (t : Int) : Int :=
  (terms.map fun u => roundInt (DyOps.shift (u.getD (DyOps.ofInt 0)) (48 - t))).foldl (· + ·) 0

theorem any_isNone_iff {terms : List (Option Dy)} : terms.any (·.isNone) = true ↔ ∃ u ∈ terms, u = none := by
  simp only [List.any_eq_true, Option.isNone_iff_eq_none]

theorem any_isNone_of_valid {terms : List (Option Dy)} (h : ∀ u ∈ terms, u ≠ none) :
    ¬ terms.any (·.isNone) = true := fun hn =>
  let ⟨u, hu, hnone⟩ := any_isNone_iff.mp hn
  h u hu hnone

theorem accumulate_of_invalid_term (x : Elem) {terms : List (Option Dy)} (t : Int) (h : ∃ u ∈ terms, u = none) :
    (accumulate x terms t).1 = { x with inv := true } := by
  rw [accumulate, if_pos (any_isNone_iff.mpr h)]

theorem accumulate_of_marked {x : Elem} {terms : List (Option Dy)} (t : Int) (h : ∀ u ∈ terms, u ≠ none)
    (hx : x.inv = true ∨ x.sat = true) : (accumulate x terms t).1 = x := by
  rw [accumulate, if_neg (any_isNone_of_valid h), if_pos (by simpa using hx)]

theorem accumulate_of_valid {x : Elem} {terms : List (Option Dy)} (t : Int) (h : ∀ u ∈ terms, u ≠ none)
    (hinv : x.inv = false) (hsat : x.sat = false) :
    (accumulate x terms t).1 = (clampElem x (x.a.toInt + gridSum terms t)).1 := by
  rw [accumulate, if_neg (any_isNone_of_valid h), if_neg (by simp [hinv, hsat])]
  simp only [List.map_map]
  rfl

/-! ## Merging (07 R176) -/

theorem clear_inv_of_valid {x : Elem} (h : x.inv = false) : { x with inv := false } = x := by rw [← h]

theorem mergeElem_of_inv {x y : Elem} (h : x.inv = true ∨ y.inv = true) :
    mergeElem x y = { a := 0, sat := x.sat || y.sat, inv := true } := by
  rw [mergeElem, if_pos (by simpa using h)]

theorem mergeElem_of_valid {x y : Elem} (hx : x.inv = false) (hy : y.inv = false) :
    mergeElem x y = (clampElem { a := 0, sat := x.sat || y.sat, inv := false } (x.a.toInt + y.a.toInt)).1 := by
  rw [mergeElem, if_neg (by simp [hx, hy])]
  exact clear_inv_of_valid (clampElem_inv _ _)

theorem mergeElem_comm (x y : Elem) : mergeElem x y = mergeElem y x := by
  simp only [mergeElem, Bool.or_comm y.inv, Bool.or_comm y.sat, Int.add_comm y.a.toInt]

theorem mergeElem_inv (x y : Elem) : (mergeElem x y).inv = (x.inv || y.inv) := by
  cases h : x.inv || y.inv with
  | true => rw [mergeElem_of_inv (by simpa using h)]
  | false =>
    obtain ⟨hx, hy⟩ := Bool.or_eq_false_iff.mp h
    rw [mergeElem_of_valid hx hy, clampElem_inv]

theorem mergeElem_toInt {x y : Elem} (hx : x.inv = false) (hy : y.inv = false) :
    (mergeElem x y).a.toInt = max (-(2 ^ 95)) (min (2 ^ 95 - 1) (x.a.toInt + y.a.toInt)) := by
  rw [mergeElem_of_valid hx hy, clampElem_toInt]

theorem mergeElem_sat_iff {x y : Elem} (hx : x.inv = false) (hy : y.inv = false) :
    (mergeElem x y).sat = true ↔ x.sat = true ∨ y.sat = true ∨ x.a.toInt + y.a.toInt < -(2 ^ 95) ∨
      2 ^ 95 - 1 < x.a.toInt + y.a.toInt := by
  rw [mergeElem_of_valid hx hy, clampElem_sat_iff, Bool.or_eq_true, or_assoc]

theorem look_mergeImg_elems (x y : TileImg) {i : Nat} (hi : i < 1024) :
    look {} (mergeImg x y).elems i = mergeElem (look {} x.elems i) (look {} y.elems i) := by
  rw [mergeImg, look_putRange, if_pos (by omega), Nat.sub_zero]

/-! ## O13: accumulation and merging -/

/-- What valid terms do to an element with neither INV nor SAT set: the sum is exact up to saturation, and SAT says
whether it saturated. -/
theorem accumulate_exact {x : Elem} {terms : List (Option Dy)} {t : Int} (h : ∀ u ∈ terms, u ≠ none)
    (hinv : x.inv = false) (hsat : x.sat = false) :
    (accumulate x terms t).1.a.toInt = max (-(2 ^ 95)) (min (2 ^ 95 - 1) (x.a.toInt + gridSum terms t)) ∧
    ((accumulate x terms t).1.sat = true ↔ x.a.toInt + gridSum terms t < -(2 ^ 95) ∨
      2 ^ 95 - 1 < x.a.toInt + gridSum terms t) ∧
    (accumulate x terms t).1.inv = false := by
  rw [accumulate_of_valid t h hinv hsat]
  refine ⟨clampElem_toInt x _, ?_, (clampElem_inv x _).trans hinv⟩
  rw [clampElem_sat_iff, hsat]
  simp only [Bool.false_eq_true, false_or]

/-- Settles O13: R41's three cases of one operation on an element, then R176's merge of tile images and of elements. -/
theorem accumulationIsExact : Obligations.AccumulationIsExact :=
  ⟨fun x _ t => ⟨accumulate_of_invalid_term x t, accumulate_of_marked t, accumulate_exact⟩,
    fun x y => ⟨rfl, fun _ => look_mergeImg_elems x y⟩,
    fun x y => ⟨mergeElem_comm x y, mergeElem_inv x y, mergeElem_of_inv,
      fun hx hy => ⟨mergeElem_toInt hx hy, mergeElem_sat_iff hx hy⟩⟩⟩

end Sys2Proof.Machine

/-! PROOFS. BAR0 (00 R6, 10 R239 R241, 13 R348): what a typed write, a read and the settling of HM_CORE_FIRST leave in the registers, then the host's writes and reads. -/

namespace Sys2Proof.Machine

open Sys2Proof

/-! ## Writes of a word (00 R6) -/

/-- The offsets whose write does more than the field types say: HM_EVT_RD, IRQ_REARM, the two clamped set points and the vector's mask. -/
def actingOffs : List Nat := [evtRdOff, irqBase + 0x10, thmBase + 0x1C, thmBase + 0x24, vecCtrlOff]

theorem writeWord_of_plain (s : State) {off : Nat} (v : Word) (ha : off ∉ actingOffs) (hp : portCtrlAt off = none) :
    writeWord s off v = settleFirst (writeTyped s off v) off := by
  simp only [actingOffs, List.mem_cons, List.not_mem_nil, or_false, not_or] at ha
  simp only [writeWord, ha, hp, if_false]

theorem exec_registerWrite_word (s : State) {off : Nat} (v : BitVec 64) (hl : 0x20000 ≤ off) (hu : off + 4 ≤ barSize)
    (h4 : off % 4 = 0) (ha : off ∉ actingOffs) (hp : portCtrlAt off = none) :
    exec (.registerWrite off 4 v) s = .next (settleFirst (writeTyped s off (v.setWidth 32)) off) := by
  rw [← writeWord_of_plain s _ ha hp]
  have hb : ¬off < 0x2000 * boxCount := Nat.not_lt.mpr hl
  exact (if_neg (Nat.not_lt.mpr hu)).trans ((if_neg hb).trans (if_neg (fun hn => hn h4)))

theorem exec_registerWrite_unaligned (s : State) {off width : Nat} (v : BitVec 64) (hl : 0x20000 ≤ off)
    (hu : off + width ≤ barSize) (hw : off % width ≠ 0) : exec (.registerWrite off width v) s = .next s := by
  have hb : ¬off < 0x2000 * boxCount := Nat.not_lt.mpr hl
  exact (if_neg (Nat.not_lt.mpr hu)).trans ((if_neg hb).trans (if_pos hw))

theorem exec_registerWrite_request (s : State) {off width : Nat} (v : BitVec 64) (hl : off < 0x20000)
    (hu : off + width ≤ barSize) (hr : off % 0x2000 < 0x1000) :
    exec (.registerWrite off width v) s = exec (.mailboxSubmit (off / 0x2000) (off % 0x2000) (leBytes width v.toNat)) s := by
  have hb : off < 0x2000 * boxCount := hl
  exact (if_neg (Nat.not_lt.mpr hu)).trans ((if_pos hb).trans (if_pos hr))

/-- Each bit of a word by its type after a write. -/
theorem reg_writeTyped_bit (s : State) (off : Nat) (v : BitVec 64) {i : Nat} (hi : i < 32) :
    (reg (writeTyped s off (v.setWidth 32)) off).getLsbD i =
      if (regDef off).rw.getLsbD i then v.getLsbD i
      else if (regDef off).w1c.getLsbD i && v.getLsbD i && !(eventsAt s off).getLsbD i then false
      else (reg s off).getLsbD i := by
  simp only [writeTyped, reg_setReg_same, BitVec.getLsbD_or, BitVec.getLsbD_and, BitVec.getLsbD_not, BitVec.getLsbD_setWidth, hi,
    decide_true, Bool.true_and]
  cases (regDef off).rw.getLsbD i with
  | true => simp
  | false => cases (regDef off).w1c.getLsbD i && v.getLsbD i && !(eventsAt s off).getLsbD i <;> simp

/-! ## HM_CORE_FIRST (13 R348) -/

/-- All that settling HM_CORE_FIRST may do is to clear its VALID, beside the cause register. -/
theorem settleFirst_cases (s : State) (off : Nat) :
    settleFirst s off = s ∨ settleFirst s off = putField s (off + 8) 19 1 0 := by
  unfold settleFirst
  dsimp only
  split
  · exact .inr rfl
  · exact .inl rfl

theorem settleFirst_only (s : State) (off : Nat) : OnlyIn [.regs] s (settleFirst s off) := by
  obtain h | h := settleFirst_cases s off <;> rw [h]
  · exact .refl _ _
  · exact putField_only _ _ _ _ _

theorem settleFirst_regs (s : State) (off : Nat) : RegsOnly [off + 8] s (settleFirst s off) := by
  obtain h | h := settleFirst_cases s off <;> rw [h]
  · exact fun _ _ => rfl
  · exact putField_regs _ _ _ _ _

theorem reg_settleFirst_same (s : State) (off : Nat) : reg (settleFirst s off) off = reg s off :=
  settleFirst_regs s off off (by simp)

theorem writeWord_plain_frame (s : State) (off : Nat) (v : Word) :
    RegsOnly [off, off + 8] s (settleFirst (writeTyped s off v) off) ∧
      OnlyIn [.regs] s (settleFirst (writeTyped s off v) off) :=
  ⟨((setReg_regs _ _ _).mono (by simp)).trans ((settleFirst_regs _ _).mono (by simp)),
    (setReg_only _ _ _).trans (settleFirst_only _ _)⟩

/-- A bit that is written 0 reads 0. -/
theorem bitOf_putField_zero (s : State) (o i : Nat) : bitOf (reg (putField s o i 1 0) o).toNat i = false := by
  rw [putField, reg_setReg_same]
  have hx : (reg s o).toNat < 2 ^ 32 := (reg s o).isLt
  have hclear : ((reg s o).toNat - 2 ^ i * ((reg s o).toNat / 2 ^ i % 2)) / 2 ^ i % 2 = 0 := by
    rw [Nat.sub_mul_div]; omega
  rw [Nat.mul_comm] at hclear
  simp only [bitOf, bits, BitVec.toNat_ofNat, Nat.pow_one, Nat.zero_mod, Nat.zero_mul, Nat.add_zero]
  rw [Nat.mod_eq_of_lt (Nat.lt_of_le_of_lt (Nat.sub_le _ _) hx), hclear]
  rfl

/-! ## The core leaves (10 R265 Table 10-22) -/

theorem leafOff_core {g : Nat} (leaf : Nat) (h2 : 2 ≤ g) (h25 : g ≤ 25) :
    leafOff g leaf = hmBase + 0x10000 + 0x1000 * (g - 2) + 0x10 * leaf := by
  unfold leafOff
  rw [if_neg (by omega), if_neg (by omega), if_pos (by omega)]

theorem leafOff_core_bounds {g leaf : Nat} (h2 : 2 ≤ g) (h25 : g ≤ 25) (hl : leaf < 252) :
    0x30000 ≤ leafOff g leaf ∧ leafOff g leaf < 0x48000 ∧ leafOff g leaf % 0x10 = 0 := by
  rw [leafOff_core leaf h2 h25, hmBase]
  omega

theorem regDef_core_leaf {g leaf : Nat} (h2 : 2 ≤ g) (h25 : g ≤ 25) (hl : leaf < 252) :
    regDef (leafOff g leaf) = causeDef 0x7FFF := by
  have hd : (0x10000 + 0x1000 * (g - 2) + 0x10 * leaf) % 0x10 = 0 := by omega
  rw [leafOff_core leaf h2 h25, regDef, if_neg (by omega), if_pos (by simp only [hmBase, irqBase]; omega)]
  simp only [Nat.add_assoc, Nat.add_sub_cancel_left]
  rw [if_neg (by omega), if_neg (by omega), if_pos (by omega), ← Nat.add_assoc, hd]
  rfl

theorem portCtrlAt_below {off : Nat} (h : off < lnkBase) : portCtrlAt off = none := by
  rw [portCtrlAt, List.find?_eq_none]
  intro p _ hp
  have hoff := of_decide_eq_true hp
  unfold portOff at hoff
  omega

theorem core_leaf_not_acting {off : Nat} (hl : 0x30000 ≤ off) (hu : off < 0x48000) : off ∉ actingOffs := by
  simp only [actingOffs, evtRdOff, vecCtrlOff, hmBase, irqBase, thmBase, msixBase, List.mem_cons, List.not_mem_nil, or_false]
  omega

/-- What a write leaves of a word whose bits are all W1C, in a cycle without events. -/
theorem w1c_write {w : Nat} (a m v : BitVec w) :
    (a &&& ~~~0 &&& ~~~(m &&& v &&& ~~~0)) ||| (v &&& 0) = a &&& ~~~(v &&& m) := by
  rw [BitVec.and_comm m v]; simp

/-- The last cause bit of a core leaf is written 1: the leaf is clear and VALID of HM_CORE_FIRST returns to 0 (13 R348). -/
theorem exec_registerWrite_clears_leaf {s : State} {g leaf : Nat} {v : BitVec 64} (h2 : 2 ≤ g) (h25 : g ≤ 25) (hleaf : leaf < 252)
    (hv : reg s (leafOff g leaf) &&& ~~~(v.setWidth 32 &&& 0x7FFF#32) = 0) (he : eventsAt s (leafOff g leaf) = 0) :
    ∃ t, exec (.registerWrite (leafOff g leaf) 4 v) s = .next t ∧ reg t (leafOff g leaf) = 0 ∧
      bitOf (reg t (leafOff g leaf + 8)).toNat 19 = false ∧ RegsOnly [leafOff g leaf, leafOff g leaf + 8] s t ∧
      OnlyIn [.regs] s t := by
  obtain ⟨hl, hu, h16⟩ := leafOff_core_bounds h2 h25 hleaf
  have hdef := regDef_core_leaf h2 h25 hleaf
  have hclear : reg (writeTyped s (leafOff g leaf) (v.setWidth 32)) (leafOff g leaf) = 0 := by
    simp only [writeTyped, reg_setReg_same, hdef, he, causeDef]
    exact (w1c_write _ _ _).trans hv
  generalize leafOff g leaf = off at *
  refine ⟨_, exec_registerWrite_word s v (by omega) (by rw [barSize]; omega) (by omega) (core_leaf_not_acting hl hu)
    (portCtrlAt_below (by rw [lnkBase]; omega)), (reg_settleFirst_same _ _).trans hclear, ?_, writeWord_plain_frame s off _⟩
  have hsettle : settleFirst (writeTyped s off (v.setWidth 32)) off =
      putField (writeTyped s off (v.setWidth 32)) (off + 8) 19 1 0 := by
    rw [settleFirst, if_pos ⟨by rw [hmBase]; omega, by rw [hmBase]; omega, by rw [hmBase]; omega, by rw [hmBase]; omega, hclear⟩]
  rw [hsettle, bitOf_putField_zero]

/-! ## Reads (10 R239 R241) -/

theorem answerRead_only (s : State) (b : Bytes) : OnlyIn [.readData] s (answerRead s b) := by
  intro p hp; cases p <;> simp_all [Part.same, answerRead]

theorem answerRead_regs (s : State) (b : Bytes) : RegsOnly [] s (answerRead s b) := fun _ _ => rfl

theorem clearRead_only (s : State) (off : Nat) : OnlyIn [.regs] s (clearRead s off) := by
  unfold clearRead
  dsimp only
  refine OnlyIn.trans ?_ (setReg_only _ _ _)
  split
  · exact .refl _ _
  · intro p hp; cases p <;> simp_all [Part.same]

theorem reg_clearRead (s : State) (off p : Nat) : reg (clearRead s off) p =
    if p = off then (reg s off &&& ~~~(regDef off).rc) ||| (eventsAt s off &&& (regDef off).rc) else reg s p := by
  rw [clearRead, reg_setReg]
  split
  · rfl
  · split <;> rfl

theorem clearRead_regs (s : State) (off : Nat) : RegsOnly [off] s (clearRead s off) := by
  intro p hp
  rw [reg_clearRead, if_neg (by simpa using hp)]

/-- What a read leaves of a word without RC bits. -/
theorem read_without_rc {w : Nat} (a e : BitVec w) : (a &&& ~~~0) ||| (e &&& 0) = a := by simp

/-- Reading a word without RC bits leaves every register. -/
theorem clearRead_regs_of_no_rc (s : State) {off : Nat} (h : (regDef off).rc = 0) : RegsOnly [] s (clearRead s off) := by
  intro p _
  rw [reg_clearRead, h]
  split
  · next hp => subst hp; exact read_without_rc _ _
  · rfl

@[simp] theorem clearRead_readData (s : State) (off : Nat) : (clearRead s off).readData = s.readData :=
  clearRead_only s off .readData (by decide)

theorem exec_rcRead_word (s : State) {off : Nat} (hu : off + 4 ≤ barSize) (h4 : off % 4 = 0) (hlo : off ≠ hmBase + 8)
    (hhi : off ≠ hmBase + 0xC) :
    exec (.rcRead off 4) s = .next (clearRead (answerRead s (leBytes 4 (readWord s off).toNat)) off) := by
  refine (if_neg (Nat.not_lt.mpr hu)).trans ((if_pos ⟨rfl, h4⟩).trans ?_)
  rw [if_neg hlo, if_neg hhi]

theorem exec_rcRead_unaligned (s : State) {off width : Nat} (hu : off + width ≤ barSize) (h4 : ¬(width = 4 ∧ off % 4 = 0))
    (h8 : ¬(width = 8 ∧ off % 8 = 0)) : exec (.rcRead off width) s = .next (answerRead s (zeros width)) :=
  (if_neg (Nat.not_lt.mpr hu)).trans ((if_neg h4).trans (if_neg h8))

theorem toNat_low_word (x : BitVec 64) : (x.setWidth 32).toNat = x.toNat % 2 ^ 32 := BitVec.toNat_setWidth ..

theorem toNat_high_word (x : BitVec 64) : ((x >>> 32).setWidth 32).toNat = x.toNat / 2 ^ 32 := by
  have hx := x.isLt
  rw [BitVec.toNat_setWidth, BitVec.toNat_ushiftRight, Nat.shiftRight_eq_div_pow, Nat.mod_eq_of_lt (by omega)]

/-- The low half of HM_TIDE latches the high half, which the next read of it returns whatever the time then (10 R241). -/
theorem exec_hmTideRead_halves (s : State) :
    ∃ t u : State, exec (.hmTideRead false) s = .next t ∧ t.readData = leBytes 4 (s.tide.toNat % 2 ^ 32) ∧ OnlyIn [.hm, .readData] s t ∧
      ∀ later : BitVec 64, exec (.hmTideRead true) { t with tide := later } = .next { u with tide := later } ∧
        u.readData = leBytes 4 (s.tide.toNat / 2 ^ 32) ∧ u.hm.tideLatch = none := by
  refine ⟨readTide s false, readTide (readTide s false) true, rfl, ?_, ?_, fun later => ⟨rfl, ?_, rfl⟩⟩
  · rw [← toNat_low_word]; rfl
  · intro p hp; cases p <;> simp_all [Part.same, readTide, answerRead]
  · rw [← toNat_high_word]; rfl

/-- Both halves of HM_TIDE at once: neither holds an RC bit. -/
theorem exec_rcRead_tide (s : State) : ∃ t, exec (.rcRead (hmBase + 8) 8) s = .next t ∧
    t.readData = leBytes 4 (s.tide.toNat % 2 ^ 32) ++ leBytes 4 (s.tide.toNat / 2 ^ 32) ∧ RegsOnly [] s t ∧
    OnlyIn [.regs, .readData] s t := by
  refine ⟨_, rfl, ?_, ?_, ?_⟩
  · rw [clearRead_readData, clearRead_readData, ← toNat_low_word, ← toNat_high_word]; rfl
  · exact ((answerRead_regs _ _).trans (clearRead_regs_of_no_rc _ (by decide))).trans (clearRead_regs_of_no_rc _ (by decide))
  · exact (((answerRead_only _ _).mono (by decide)).trans ((clearRead_only _ _).mono (by decide))).trans
      ((clearRead_only _ _).mono (by decide))

/-! ## O43: registers follow their types -/

/-- Settles O43: the typed write, the leaf that it clears, what a write does elsewhere, the read that clears and HM_TIDE. -/
theorem registersFollowTheirTypes : Obligations.RegistersFollowTheirTypes := by
  intro s
  refine ⟨fun off v hl hu h4 ha hp => ?_, fun g leaf v h2 h25 hleaf => exec_registerWrite_clears_leaf h2 h25 hleaf,
    fun _ _ v hl hu _ hw => exec_registerWrite_unaligned s v hl hu hw, fun _ _ v hl hu hr => exec_registerWrite_request s v hl hu hr,
    fun off hu h4 hlo hhi => ?_, fun _ _ hu h4 h8 => exec_rcRead_unaligned s hu h4 h8, exec_hmTideRead_halves s, exec_rcRead_tide s⟩
  · refine ⟨_, exec_registerWrite_word s v hl hu h4 ha hp, fun i hi => ?_, writeWord_plain_frame s off _⟩
    rw [reg_settleFirst_same, reg_writeTyped_bit s off v hi]
  · refine ⟨_, exec_rcRead_word s hu h4 hlo hhi, ?_, ?_, ?_, ?_⟩
    · rw [clearRead_readData]; rfl
    · rw [reg_clearRead, if_pos rfl]; rfl
    · exact ((answerRead_regs _ _).mono (by simp)).trans (clearRead_regs _ _)
    · exact ((answerRead_only _ _).mono (by decide)).trans ((clearRead_only _ _).mono (by decide))

end Sys2Proof.Machine

/-! PROOFS. The crane's answers and completions (04 R86 R87, 07 R161, 10 R245): the entry that an answer or a completion concerns, the error record and the status record, then each way in which a transfer is answered. -/

namespace Sys2Proof.Machine

open Sys2Proof

/-! ## One core replaced -/

/-- Core c of t is k, no other core differs, and beside the cores only the listed parts do. -/
structure CoreBecame (c : Nat) (k : Core) (l : List Part) (s t : State) : Prop where
  core : t.core c = k
  others : CoreOnly c s t
  parts : OnlyIn (.cores :: l) s t

theorem setCore_only (s : State) (c : Nat) (k : Core) : OnlyIn [.cores] s (s.setCore c k) := by
  intro p hp; cases p <;> simp_all [Part.same]

theorem setCore_became (s : State) (c : Nat) (k : Core) : CoreBecame c k [] s (s.setCore c k) :=
  ⟨s.core_setCore_same c k, fun _ hd => s.core_setCore_other k hd, setCore_only s c k⟩

theorem CoreBecame.setCore {c : Nat} {k : Core} {l : List Part} {s t : State} (h : CoreBecame c k l s t) (k' : Core) :
    CoreBecame c k' l s (t.setCore c k') :=
  ⟨t.core_setCore_same c k', fun d hd => (t.core_setCore_other k' hd).trans (h.others d hd),
    h.parts.trans ((setCore_only t c k').mono (by simp))⟩

/-- What happens afterwards in other parts leaves the core. -/
theorem CoreBecame.after {c : Nat} {k : Core} {l : List Part} {s t u : State} (h : CoreBecame c k [] s t) (hu : OnlyIn l t u)
    (hl : Part.cores ∉ l) : CoreBecame c k l s u :=
  ⟨(hu.core_eq hl c).trans h.core, fun d hd => (hu.core_eq hl d).trans (h.others d hd),
    (h.parts.mono (by simp)).trans (hu.mono fun _ => List.mem_cons_of_mem _)⟩

theorem onUnit_core {c : Nat} (hc : c < coreCount) (s : State) : onUnit (decide (c < coreCount)) s = .next s :=
  if_pos (decide_eq_true hc)

/-! ## The entry concerned: the first of its queue that passes a test -/

theorem entryWhere_append {f : CraneEntry → Bool} {l r : List CraneEntry} {e : CraneEntry} (hl : ∀ x ∈ l, f x = false)
    (he : f e = true) : entryWhere f (l ++ e :: r) = some (l.length, e) := by
  have hnone : l.findIdx? f = none := List.findIdx?_eq_none_iff.mpr hl
  simp [entryWhere, List.findIdx?_append, hnone, List.findIdx?_cons, he]

theorem mayEnd_before {l r : List CraneEntry} {j : Nat} (hl : ∀ x ∈ l, entryDone x = false) (hj : j < l.length) :
    mayEnd (l ++ r) j = false := by
  simp [mayEnd, List.getElem?_append_left hj, List.getElem?_eq_getElem hj, hl _ (List.getElem_mem hj)]

theorem mayEnd_at {l r : List CraneEntry} {e : CraneEntry} (he : entryDone e = true) (h7 : e.status = 7 → l = []) :
    mayEnd (l ++ e :: r) l.length = true := by
  have hfirst : e.status ≠ 7 ∨ l.length = 0 := (Decidable.em (e.status = 7)).symm.imp_right fun h => by rw [h7 h]; rfl
  simpa [mayEnd, he] using hfirst

theorem endingOf_append {l r : List CraneEntry} {e : CraneEntry} (hl : ∀ x ∈ l, entryDone x = false)
    (he : entryDone e = true) (h7 : e.status = 7 → l = []) : endingOf (l ++ e :: r) = some (l.length, e) := by
  have hfind : (List.range (l ++ e :: r).length).find? (mayEnd (l ++ e :: r)) = some l.length := by
    rw [List.find?_range_eq_some]
    exact ⟨mayEnd_at he h7, by simp, fun j hj => by simp [mayEnd_before hl hj]⟩
  rw [endingOf, hfind]
  simp

theorem dropAt_length_append {α : Type} (l r : List α) (x : α) : dropAt (l ++ x :: r) l.length = l ++ r := by
  induction l with
  | nil => rfl
  | cons y l ih => exact congrArg (y :: ·) ih

theorem queueOf_putEntry_append {k : Core} {q : Nat} {l r : List CraneEntry} {e : CraneEntry} (hq : queueOf k q = l ++ e :: r)
    (e' : CraneEntry) : queueOf (putEntry k q l.length e') q = l ++ e' :: r := by
  have hset : queueOf (putEntry k q l.length e') q = (queueOf k q).set l.length e' := by simp [queueOf, putEntry, look_upd]
  simp [hset, hq]

@[simp] theorem putEntry_rsp (k : Core) (q j : Nat) (e : CraneEntry) : (putEntry k q j e).crane.rsp = k.crane.rsp := rfl
@[simp] theorem putEntry_naks (k : Core) (q j : Nat) (e : CraneEntry) : (putEntry k q j e).crane.naks = k.crane.naks := rfl
@[simp] theorem putEntry_tierS (k : Core) (q j : Nat) (e : CraneEntry) : (putEntry k q j e).tierS = k.tierS := rfl
@[simp] theorem putEntry_cr (k : Core) (q j : Nat) (e : CraneEntry) : (putEntry k q j e).cr = k.cr := rfl

/-- The entry and the packet that an answer is for. -/
theorem rspFor_append {k : Core} {p : Packet} {l r : List CraneEntry} {e : CraneEntry} {i : Nat}
    (hq : queueOf k p.xq.toNat = l ++ e :: r) (hl : ∀ x ∈ l, answers p x = false) (he : answers p e = true)
    (hi : openOf e (pidxOf p) = some i) : rspFor k p = some (l.length, e, i) := by
  simp [rspFor, holderOf, hq, entryWhere_append hl he, hi]

/-! ## The bytes of Tier S after a write (06 R125) -/

theorem spadPut_eq_putList (m : SMap Byte) {a : Nat} {b : Bytes} (h : a + b.length ≤ spadSize) :
    spadPut m a b = putList 0 m a b := by
  induction b generalizing m a with
  | nil => rfl
  | cons x b ih =>
    rw [List.length_cons] at h
    rw [spadPut, if_pos (by omega), putList, ih _ (by omega)]

theorem spadByte_spadWrite (k : Core) {a : Nat} {b : Bytes} (h : a + b.length ≤ spadSize) (x : Nat) :
    spadByte (spadWrite k a b) x = if hx : a ≤ x ∧ x < a + b.length then b[x - a]'(by omega) else spadByte k x := by
  rw [spadByte, spadWrite, spadPut_eq_putList _ h, look_putList]
  by_cases hx : a ≤ x ∧ x < a + b.length
  · rw [if_pos (by omega), dif_pos hx, dif_pos hx]
  · rw [dif_neg hx, dif_neg hx, spadByte]

theorem spadByte_spadWrite_outside (k : Core) {a : Nat} {b : Bytes} (h : a + b.length ≤ spadSize) {x : Nat}
    (hx : x < a ∨ a + b.length ≤ x) : spadByte (spadWrite k a b) x = spadByte k x := by
  rw [spadByte_spadWrite k h, dif_neg (by omega)]

theorem spadRead_spadWrite (k : Core) {a n : Nat} {b : Bytes} (h : a + b.length ≤ spadSize) (hn : n ≤ b.length) :
    spadRead (spadWrite k a b) a n = b.take n := by
  apply List.ext_getElem (by simp [spadRead, hn])
  intro i hi _
  have hin : i < n := by simpa [spadRead] using hi
  simp only [spadRead, List.getElem_map, List.getElem_range, List.getElem_take]
  rw [spadByte_spadWrite k h, dif_pos (by omega)]
  simp

/-! ## The error record of a queue (04 R87 R94) -/

@[simp] theorem noteErr_queues (k : Core) (q t : Nat) (st : Byte) (seq : BitVec 16) :
    (noteErr k q t st seq).crane.queues = k.crane.queues := by
  unfold noteErr; dsimp only; repeat' split
  all_goals rfl

@[simp] theorem noteErr_tierS (k : Core) (q t : Nat) (st : Byte) (seq : BitVec 16) : (noteErr k q t st seq).tierS = k.tierS := by
  unfold noteErr; dsimp only; repeat' split
  all_goals rfl

@[simp] theorem noteErr_sync (k : Core) (q t : Nat) (st : Byte) (seq : BitVec 16) : (noteErr k q t st seq).sync = k.sync := by
  unfold noteErr; dsimp only; repeat' split
  all_goals rfl

theorem noteErr_ok (k : Core) (q t : Nat) (seq : BitVec 16) : noteErr k q t 0 seq = k := if_pos rfl

/-- The first bad completion of a cc: what came before is seen in that cc, the completion from the next on. -/
theorem noteErr_of_first {k : Core} {q t : Nat} {st : Byte} (seq : BitVec 16) (hst : st ≠ 0)
    (ht : (look (0, {}) k.crane.cerrNew q).1 ≠ t) :
    noteErr k q t st seq = { k with crane := { k.crane with
      cerr := put {} k.crane.cerr q (cerrAll k q)
      cerrNew := put (0, {}) k.crane.cerrNew q (t, ⟨st, 1, seq⟩) } } := by
  simp only [noteErr, hst, ht, if_false]

theorem cerrAll_noteErr_of_first {k : Core} {q t : Nat} {st : Byte} (seq : BitVec 16) (hst : st ≠ 0)
    (ht : (look (0, {}) k.crane.cerrNew q).1 ≠ t) :
    cerrAll (noteErr k q t st seq) q = joinErr (cerrAll k q) ⟨st, 1, seq⟩ := by
  rw [noteErr_of_first seq hst ht, cerrAll, look_put_same, look_put_same]

theorem cerrAt_noteErr_of_first {k : Core} {q t : Nat} {st : Byte} (seq : BitVec 16) (hst : st ≠ 0)
    (ht : (look (0, {}) k.crane.cerrNew q).1 ≠ t) : cerrAt (noteErr k q t st seq) q t = cerrAll k q := by
  rw [noteErr_of_first seq hst ht, cerrAt, look_put_same, if_pos rfl, look_put_same]

theorem cerrAll_noteErr_other (k : Core) {q i : Nat} (t : Nat) (st : Byte) (seq : BitVec 16) (hi : i ≠ q) :
    cerrAll (noteErr k q t st seq) i = cerrAll k i := by
  unfold noteErr
  dsimp only
  repeat' split
  all_goals simp only [cerrAll, look_put_other _ _ _ hi]

/-! ## The core after a completion -/

/-- Entry j leaves queue q. -/
def leaveQueue (k : Core) (q j : Nat) : Core := { k with crane := { k.crane with queues := upd [] k.crane.queues q (dropAt · j) } }

/-- The 24 bytes of a status record (04 R87). -/
def statusRecord (e : CraneEntry) (st : Byte) (ck : Nat) : Bytes := [st] ++ zeros 3 ++ leBytes 4 e.done ++ leBytes 8 ck ++ zeros 8

/-- With WB the status record is stored. -/
def storeStatus (k : Core) (e : CraneEntry) (st : Byte) (ck : Nat) : Core :=
  if e.wb then spadWrite k (e.addr + 40) (statusRecord e st ck) else k

/-- With QEN the token goes on its way. -/
def sendToken (k : Core) (e : CraneEntry) : Core :=
  if !e.push && dQen e.desc then tokenIn k (localToken (dQe e.desc) 1 e.step) else k

/-- The core once entry j of queue q, e, has completed in cc t. -/
def endedCore (k : Core) (q t j : Nat) (e : CraneEntry) : Core :=
  sendToken (storeStatus (leaveQueue (noteErr k q t (entryEnd e).1 (dSeq e.desc)) q j) e (entryEnd e).1 (entryEnd e).2) e

@[simp] theorem leaveQueue_tierS (k : Core) (q j : Nat) : (leaveQueue k q j).tierS = k.tierS := rfl
@[simp] theorem leaveQueue_sync (k : Core) (q j : Nat) : (leaveQueue k q j).sync = k.sync := rfl
@[simp] theorem cerrAll_leaveQueue (k : Core) (q j i : Nat) : cerrAll (leaveQueue k q j) i = cerrAll k i := rfl
@[simp] theorem cerrAt_leaveQueue (k : Core) (q j i t : Nat) : cerrAt (leaveQueue k q j) i t = cerrAt k i t := rfl

@[simp] theorem storeStatus_crane (k : Core) (e : CraneEntry) (st : Byte) (ck : Nat) : (storeStatus k e st ck).crane = k.crane := by
  unfold storeStatus; split <;> rfl

@[simp] theorem storeStatus_sync (k : Core) (e : CraneEntry) (st : Byte) (ck : Nat) : (storeStatus k e st ck).sync = k.sync := by
  unfold storeStatus; split <;> rfl

@[simp] theorem sendToken_crane (k : Core) (e : CraneEntry) : (sendToken k e).crane = k.crane := by
  unfold sendToken; split <;> rfl

@[simp] theorem sendToken_tierS (k : Core) (e : CraneEntry) : (sendToken k e).tierS = k.tierS := by
  unfold sendToken; split <;> rfl

theorem length_statusRecord (e : CraneEntry) (st : Byte) (ck : Nat) : (statusRecord e st ck).length = 24 := rfl

theorem endedCore_crane (k : Core) (q t j : Nat) (e : CraneEntry) :
    (endedCore k q t j e).crane = (leaveQueue (noteErr k q t (entryEnd e).1 (dSeq e.desc)) q j).crane := by
  simp [endedCore]

theorem queueOf_endedCore {k : Core} {q : Nat} {l r : List CraneEntry} {e : CraneEntry} (hq : queueOf k q = l ++ e :: r)
    (t : Nat) : queueOf (endedCore k q t l.length e) q = l ++ r := by
  have hdrop : queueOf (endedCore k q t l.length e) q = dropAt (queueOf k q) l.length := by
    simp [queueOf, endedCore_crane, leaveQueue, look_upd]
  rw [hdrop, hq, dropAt_length_append]

theorem cerrAll_endedCore (k : Core) (q t j : Nat) (e : CraneEntry) (i : Nat) :
    cerrAll (endedCore k q t j e) i = cerrAll (noteErr k q t (entryEnd e).1 (dSeq e.desc)) i := by
  rw [cerrAll, endedCore_crane]; rfl

theorem cerrAt_endedCore (k : Core) (q t j : Nat) (e : CraneEntry) (i t' : Nat) :
    cerrAt (endedCore k q t j e) i t' = cerrAt (noteErr k q t (entryEnd e).1 (dSeq e.desc)) i t' := by
  rw [cerrAt, endedCore_crane, cerrAll_endedCore]; rfl

theorem endedCore_tokens {e : CraneEntry} (hp : e.push = false) (k : Core) (q t j : Nat) :
    (endedCore k q t j e).sync.tokens =
      k.sync.tokens ++ (if dQen e.desc then [localToken (dQe e.desc) 1 e.step] else []) := by
  unfold endedCore sendToken
  cases dQen e.desc <;> simp [hp, tokenIn]

/-- Tier S after a completion is that of the core with the status record. -/
theorem spadByte_endedCore (k : Core) (q t j : Nat) (e : CraneEntry) (a : Nat) :
    spadByte (endedCore k q t j e) a = spadByte (storeStatus k e (entryEnd e).1 (entryEnd e).2) a := by
  unfold endedCore storeStatus
  split <;> simp [spadByte, spadWrite]

theorem spadByte_endedCore_outside {e : CraneEntry} (ha : e.addr + 64 ≤ spadSize) (k : Core) (q t j : Nat) {a : Nat}
    (h : e.wb = false ∨ a < e.addr + 40 ∨ e.addr + 64 ≤ a) : spadByte (endedCore k q t j e) a = spadByte k a := by
  rw [spadByte_endedCore, storeStatus]
  split
  · next hw => exact spadByte_spadWrite_outside _ (by rw [length_statusRecord]; omega) (by rw [length_statusRecord]; simpa [hw] using h)
  · rfl

theorem spadRead_endedCore {e : CraneEntry} (ha : e.addr + 64 ≤ spadSize) (hw : e.wb = true) (k : Core) (q t j : Nat) {n : Nat}
    (hn : n ≤ 24) :
    spadRead (endedCore k q t j e) (e.addr + 40) n = (statusRecord e (entryEnd e).1 (entryEnd e).2).take n := by
  rw [← spadRead_spadWrite k (by rw [length_statusRecord]; omega) (by rwa [length_statusRecord])]
  simp only [spadRead, spadByte_endedCore, storeStatus, hw, if_true]

/-! ## Causes of the fabric and of PCIe -/

theorem raiseFab_only (s : State) (bit : Nat) (o : LogInfo) : OnlyIn [.regs, .log] s (raiseFab s bit o) := raise_only _ _ _ _ _

theorem raisePcie_only (s : State) (bit : Nat) (o : LogInfo) : OnlyIn [.regs, .log] s (raisePcie s bit o) := raise_only _ _ _ _ _

/-! ## What a completion raises (04 Table 4-1, 07 Table 7-13) -/

theorem basinOf_of_bring {s t : State} (h : t.bring = s.bring) (c : Nat) : basinOf t c = basinOf s c := by
  unfold basinOf physCol spareSite; rw [h]

theorem leafOf_of_bring {s t : State} (h : t.bring = s.bring) (c : Nat) : leafOf t c = leafOf s c := by
  unfold leafOf westDies spareSite; rw [h]

/-- A cause of a core's leaf stays set when another of its causes is raised. -/
theorem raiseCore_keeps (s : State) (c cond bit : Nat) (at_ : Option (Nat × BitVec 13))
    (h : causeSet s (2 + basinOf s c) (leafOf s c) bit) :
    causeSet (raiseCore s c cond at_) (2 + basinOf s c) (leafOf s c) bit := by
  have hr := raise_keeps s (2 + basinOf s c) (leafOf s c) cond (2 + basinOf s c) (leafOf s c) bit
    { unit := c, vid := (s.core c).misc.vid, ordinal := (s.core c).seq.ordinal } h
  unfold raiseCore
  dsimp only
  split
  · exact hr
  · rwa [causeSet, reg_setReg_other _ _ (by omega)]

theorem raiseEnd_only (s : State) (c : Nat) (e : CraneEntry) (st : Byte) : OnlyIn [.regs, .log] s (raiseEnd s c e st) := by
  unfold raiseEnd
  dsimp only
  repeat' split
  · exact .refl _ _
  · exact ((raiseCore_only _ _ _ _).trans (raiseCore_only _ _ _ _)).trans (raise_only _ _ _ _ _)
  · exact (raiseCore_only _ _ _ _).trans (raise_only _ _ _ _ _)
  · exact (raiseCore_only _ _ _ _).trans (raiseCore_only _ _ _ _)
  · exact raiseCore_only _ _ _ _

theorem raiseEnd_ok (s : State) (c : Nat) (e : CraneEntry) : raiseEnd s c e 0 = s := if_pos rfl

theorem raiseEnd_sets (s : State) (c : Nat) (e : CraneEntry) {st : Byte} (hst : st ≠ 0) :
    causeSet (raiseEnd s c e st) (2 + basinOf s c) (leafOf s c) cCraneErr := by
  have herr := raiseCore_sets s c cCraneErr (some (2, e.step)) (by decide)
  have hbring : (raiseCore s c cCraneErr (some (2, e.step))).bring = s.bring := raiseCore_only _ _ _ _ .bring (by decide)
  have hcheck := raiseCore_keeps (raiseCore s c cCraneErr (some (2, e.step))) c cCheckMismatch cCraneErr (some (2, e.step))
  rw [basinOf_of_bring hbring, leafOf_of_bring hbring] at hcheck
  unfold raiseEnd
  dsimp only
  rw [if_neg hst]
  repeat' split
  · exact raise_keeps _ _ _ _ _ _ _ _ (hcheck herr)
  · exact raise_keeps _ _ _ _ _ _ _ _ herr
  · exact hcheck herr
  · exact herr

theorem exec_transferComplete {s : State} {c : Nat} {q : BitVec 3} {j : Nat} {e : CraneEntry} (hc : c < coreCount)
    (he : endingOf (queueOf (s.core c) q.toNat) = some (j, e)) (h8 : (entryEnd e).1 ≠ 8) :
    exec (.transferComplete c q) s =
      .next (raiseEnd (s.setCore c (endedCore (s.core c) q.toNat s.cc j e)) c e (entryEnd e).1) := by
  refine (onUnit_core hc _).trans ?_
  rw [he]
  exact congrArg _ (if_neg h8)

/-! ## O21, completion (04 R86 R87) -/

/-- A completion with status OK. -/
theorem exec_transferComplete_of_ok {s : State} {c : Nat} {q : BitVec 3} {e : CraneEntry} {l r : List CraneEntry} (hc : c < coreCount)
    (hq : queueOf (s.core c) q.toNat = l ++ e :: r) (he : endingOf (l ++ e :: r) = some (l.length, e)) (hp : e.push = false)
    (ha : e.addr + 64 ≤ spadSize) (hst : (entryEnd e).1 = 0) :
    ∃ t, exec (.transferComplete c q) s = .next t ∧ queueOf (t.core c) q.toNat = l ++ r ∧
      (∀ a, (e.wb = false ∨ a < e.addr + 40 ∨ e.addr + 64 ≤ a) → spadByte (t.core c) a = spadByte (s.core c) a) ∧
      (e.wb = true → spadRead (t.core c) (e.addr + 40) 8 = [0, 0, 0, 0] ++ leBytes 4 e.done) ∧
      (t.core c).sync.tokens = (s.core c).sync.tokens ++
        (if dQen e.desc then [localToken (dQe e.desc) 1 e.step] else []) ∧
      (∀ i, cerrAll (t.core c) i = cerrAll (s.core c) i) ∧ CoreOnly c s t ∧ OnlyIn [.cores] s t := by
  have hexec := exec_transferComplete hc (hq.symm ▸ he) (by rw [hst]; decide)
  rw [hst, raiseEnd_ok] at hexec
  obtain ⟨hcore, hothers, hparts⟩ := setCore_became s c (endedCore (s.core c) q.toNat s.cc l.length e)
  refine ⟨_, hexec, ?_, fun a h => ?_, fun hw => ?_, ?_, fun i => ?_, hothers, hparts⟩ <;> rw [hcore]
  · exact queueOf_endedCore hq _
  · exact spadByte_endedCore_outside ha _ _ _ _ h
  · rw [spadRead_endedCore ha hw _ _ _ _ (by decide), hst]; rfl
  · exact endedCore_tokens hp _ _ _ _
  · rw [cerrAll_endedCore, hst, noteErr_ok]

/-- A completion with a bad status that calls for no replay. -/
theorem exec_transferComplete_of_bad {s : State} {c : Nat} {q : BitVec 3} {e : CraneEntry} {l r : List CraneEntry} (hc : c < coreCount)
    (hq : queueOf (s.core c) q.toNat = l ++ e :: r) (he : endingOf (l ++ e :: r) = some (l.length, e))
    (ha : e.addr + 64 ≤ spadSize) (hst : (entryEnd e).1 ≠ 0) (h8 : (entryEnd e).1 ≠ 8) :
    ∃ t, exec (.transferComplete c q) s = .next t ∧
      queueOf (t.core c) q.toNat = l ++ r ∧ (e.wb = true → spadByte (t.core c) (e.addr + 40) = (entryEnd e).1) ∧
      ((look (0, {}) (s.core c).crane.cerrNew q.toNat).1 ≠ s.cc →
        cerrAll (t.core c) q.toNat = joinErr (cerrAll (s.core c) q.toNat) ⟨(entryEnd e).1, 1, dSeq e.desc⟩ ∧
        cerrAt (t.core c) q.toNat s.cc = cerrAll (s.core c) q.toNat) ∧
      (∀ i, i ≠ q.toNat → cerrAll (t.core c) i = cerrAll (s.core c) i) ∧
      causeSet t (2 + basinOf s c) (leafOf s c) 5 ∧ CoreOnly c s t ∧ OnlyIn [.cores, .regs, .log] s t := by
  obtain ⟨hcore, hothers, hparts⟩ := (setCore_became s c (endedCore (s.core c) q.toNat s.cc l.length e)).after
    (raiseEnd_only _ c e (entryEnd e).1) (by decide)
  refine ⟨_, exec_transferComplete hc (hq.symm ▸ he) h8, ?_, fun hw => ?_, fun ht => ⟨?_, ?_⟩, fun i hi => ?_,
    raiseEnd_sets (s.setCore c _) c e hst, hothers, hparts⟩ <;> rw [hcore]
  · exact queueOf_endedCore hq _
  · have hread := spadRead_endedCore ha hw (s.core c) q.toNat s.cc l.length (n := 1) (by decide)
    exact List.head_eq_of_cons_eq hread
  · rw [cerrAll_endedCore, cerrAll_noteErr_of_first _ hst ht]
  · rw [cerrAt_endedCore, cerrAt_noteErr_of_first _ hst ht]
  · rw [cerrAll_endedCore, cerrAll_noteErr_other _ _ _ _ hi]

/-! ## O21, responses (04 R86) -/

/-- The responses that have reached a core. -/
def setRsp (k : Core) (l : List Packet) : Core := { k with crane := { k.crane with rsp := l } }

@[simp] theorem queueOf_setRsp (k : Core) (l : List Packet) (q : Nat) : queueOf (setRsp k l) q = queueOf k q := rfl

/-- An entry whose packet i has been answered with data that has landed. -/
def landedEntry (e : CraneEntry) (i : Nat) (p : Packet) : CraneEntry :=
  { answered e i with
    status := firstBad e.status (statusOf p)
    done := e.done + (slice p.payload 0 (pktLen e i)).length
    ck := if dCk e.desc = 0 then e.ck else checkRun (dCk e.desc) e.ck (slice p.payload 0 (pktLen e i)) }

theorem landRsp_of_good {k : Core} {p : Packet} {j i : Nat} {e : CraneEntry} (hr : rspFor k p = some (j, e, i))
    (hgood : firstBad e.status (statusOf p) = 0) :
    landRsp k p = putEntry (craneFree k) p.xq.toNat j (landedEntry e i p) := by
  have hlands : landsData k p = true := by simp [landsData, hr, hgood]
  simp only [landRsp, hr, hlands, if_true]
  rfl

/-- The response that the crane takes is accounted for. -/
theorem exec_readResponseLanding_lands {s : State} {c : Nat} {q : BitVec 3} {e : CraneEntry} {l r : List CraneEntry} (hc : c < coreCount)
    (hq : queueOf (s.core c) q.toNat = l ++ e :: r) {p : Packet} {rest : List Packet} {i : Nat}
    (ht : takeFirst (fun p => canLand s (s.core c) p && hasLanded (s.core c) p) (s.core c).crane.rsp = some (p, rest))
    (hxq : p.xq = q) (hl : ∀ x ∈ l, answers p x = false) (he : answers p e = true) (hi : openOf e (pidxOf p) = some i)
    (hst : e.status = 0) (hp : statusOf p = 0) :
    ∃ t e', exec (.readResponseLanding c) s = .next t ∧ (t.core c).crane.rsp = rest ∧
      queueOf (t.core c) q.toNat = l ++ e' :: r ∧ e'.open_ = without i e.open_ ∧
      e'.done = e.done + (slice p.payload 0 (pktLen e i)).length ∧ (t.core c).cr.crane = none ∧
      (t.core c).tierS = (s.core c).tierS ∧ CoreOnly c s t ∧ OnlyIn [.cores] s t := by
  subst hxq
  have hland : landRsp (setRsp (s.core c) rest) p =
      putEntry (craneFree (setRsp (s.core c) rest)) p.xq.toNat l.length (landedEntry e i p) :=
    landRsp_of_good (rspFor_append hq hl he hi) (by rw [hst, hp]; rfl)
  have hexec : exec (.readResponseLanding c) s = .next (s.setCore c (landRsp (setRsp (s.core c) rest) p)) := by
    refine (onUnit_core hc _).trans ?_
    rw [ht]
    rfl
  rw [hland] at hexec
  obtain ⟨hcore, hothers, hparts⟩ := setCore_became s c
    (putEntry (craneFree (setRsp (s.core c) rest)) p.xq.toNat l.length (landedEntry e i p))
  refine ⟨_, landedEntry e i p, hexec, ?_, ?_, rfl, rfl, ?_, ?_, hothers, hparts⟩ <;> rw [hcore]
  · rfl
  · exact queueOf_putEntry_append hq _
  · rfl
  · rfl

/-! ## O21, packets that were not acknowledged (07 R161) -/

/-- The NAKs that have reached a core. -/
def setNaks (k : Core) (l : List Packet) : Core := { k with crane := { k.crane with naks := l } }

@[simp] theorem queueOf_setNaks (k : Core) (l : List Packet) (q : Nat) : queueOf (setNaks k l) q = queueOf k q := rfl

theorem dropJoin_only (s : State) (src : BitVec 21) (xq : BitVec 3) (pidx : BitVec 10) :
    OnlyIn [.routers] s (dropJoin s src xq pidx) := updRouter_only _ _ _

theorem Reached.setCore {s : State} {u : Nat} (h : Reached s u) (c : Nat) (k : Core) : Reached (s.setCore c k) u :=
  ⟨h.unit, h.lit, h.home⟩

/-- Sending a packet again puts it on its way as it was. -/
theorem resend_sends {s : State} {x : Packet} (hx : x.dunit ≠ 7) (h : Reached s x.unit) (u : Nat) (nak : Packet) :
    PacketSent s (resend s u nak x) (fun y => y.unit = x.unit ∧ y.src = x.src ∧ y.xq = x.xq ∧ y.ty = x.ty ∧ y.ref = x.ref ∧
      y.payload = x.payload) ∧ OnlyIn [.routers] s (resend s u nak x) := by
  rw [resend, if_neg hx, inject_reached h]
  obtain ⟨⟨rt, w, hw, hty, -, hunit, hpay, href, hsrc, -, hxq, -⟩, honly⟩ := send_sends h u x.epoch.toNat x
  exact ⟨⟨rt, w, hw, hunit, hsrc, hxq, hty, href, hpay⟩, honly⟩

/-- An entry whose packet i has not been acknowledged for the fourth time. -/
def givenUp (e : CraneEntry) (i : Nat) : CraneEntry := { answered e i with status := 8, ended := true }

/-- After three resends the transfer ends with UNCORRECTABLE and RESEND_FAIL. -/
theorem exec_nakReceived_gives_up {s : State} {c : Nat} {q : BitVec 3} {e : CraneEntry} {l r : List CraneEntry} (hc : c < coreCount)
    (hq : queueOf (s.core c) q.toNat = l ++ e :: r) {p : Packet} {rest : List Packet} {i : Nat}
    (hn : (s.core c).crane.naks = p :: rest) (hxq : p.xq = q) (hl : ∀ x ∈ l, answers p x = false) (he : answers p e = true)
    (hi : openOf e (pidxOf p) = some i) (h3 : 3 ≤ (e.resends.filter (· = i)).length) :
    ∃ t e', exec (.nakReceived c) s = .next t ∧ (t.core c).crane.naks = rest ∧ queueOf (t.core c) q.toNat = l ++ e' :: r ∧
      e'.status = 8 ∧ e'.ended = true ∧ causeSet t 42 0 4 ∧ CoreOnly c s t ∧ OnlyIn [.cores, .routers, .regs, .log] s t := by
  subst hxq
  have hr : rspFor (setNaks (s.core c) rest) p = some (l.length, e, i) := rspFor_append hq hl he hi
  have hexec : exec (.nakReceived c) s = .next (raiseFab (dropJoin ((s.setCore c (setNaks (s.core c) rest)).setCore c
      (putEntry (setNaks (s.core c) rest) p.xq.toNat l.length (givenUp e i))) p.dst p.xq (pidxOf p)) 4 { unit := c }) := by
    refine (onUnit_core hc _).trans ?_
    rw [hn]
    change Host.Outcome.next (match rspFor (setNaks (s.core c) rest) p with | none => _ | some (j, e, i) => _) = _
    rw [hr]
    exact congrArg _ (if_neg (Nat.not_lt.mpr h3))
  obtain ⟨hcore, hothers, hparts⟩ := ((setCore_became s c (setNaks (s.core c) rest)).setCore
    (putEntry (setNaks (s.core c) rest) p.xq.toNat l.length (givenUp e i))).after (l := [.routers, .regs, .log])
    (((dropJoin_only _ p.dst p.xq (pidxOf p)).mono (by decide)).trans ((raiseFab_only _ 4 { unit := c }).mono (by decide)))
    (by decide)
  refine ⟨_, givenUp e i, hexec, ?_, ?_, rfl, rfl, raise_sets _ _ _ _ _ (by decide), hothers, hparts⟩ <;> rw [hcore]
  · rfl
  · exact queueOf_putEntry_append hq _

/-- Up to three times the packet is sent again. -/
theorem exec_nakReceived_sends_again {s : State} {c : Nat} {q : BitVec 3} {e : CraneEntry} {l r : List CraneEntry} (hc : c < coreCount)
    (hq : queueOf (s.core c) q.toNat = l ++ e :: r) {p : Packet} {rest : List Packet} {i : Nat} {x : Packet}
    (hn : (s.core c).crane.naks = p :: rest) (hxq : p.xq = q) (hl : ∀ x ∈ l, answers p x = false) (he : answers p e = true)
    (hi : openOf e (pidxOf p) = some i) (h3 : (e.resends.filter (· = i)).length < 3)
    (hcopy : e.copies.find? (fun y => y.1 = i) = some (i, x)) (hx : x.dunit ≠ 7) (hreach : Reached s x.unit) :
    ∃ t e', exec (.nakReceived c) s = .next t ∧ (t.core c).crane.naks = rest ∧ queueOf (t.core c) q.toNat = l ++ e' :: r ∧
      e'.resends = e.resends ++ [i] ∧ e'.open_ = e.open_ ∧ e'.status = e.status ∧
      PacketSent s t (fun y => y.unit = x.unit ∧ y.src = x.src ∧ y.xq = x.xq ∧ y.ty = x.ty ∧ y.ref = x.ref ∧ y.payload = x.payload) ∧
      CoreOnly c s t ∧ OnlyIn [.cores, .routers] s t := by
  subst hxq
  have hr : rspFor (setNaks (s.core c) rest) p = some (l.length, e, i) := rspFor_append hq hl he hi
  have hexec : exec (.nakReceived c) s = .next (resend ((s.setCore c (setNaks (s.core c) rest)).setCore c
      (putEntry (setNaks (s.core c) rest) p.xq.toNat l.length { e with resends := e.resends ++ [i] })) c p x) := by
    refine (onUnit_core hc _).trans ?_
    rw [hn]
    change Host.Outcome.next (match rspFor (setNaks (s.core c) rest) p with | none => _ | some (j, e, i) => _) = _
    rw [hr]
    refine congrArg _ ((if_pos h3).trans ?_)
    rw [hcopy]
    rfl
  obtain ⟨hsent, honly⟩ := resend_sends hx ((hreach.setCore c (setNaks (s.core c) rest)).setCore c
    (putEntry (setNaks (s.core c) rest) p.xq.toNat l.length { e with resends := e.resends ++ [i] })) c p
  obtain ⟨hcore, hothers, hparts⟩ := ((setCore_became s c (setNaks (s.core c) rest)).setCore
    (putEntry (setNaks (s.core c) rest) p.xq.toNat l.length { e with resends := e.resends ++ [i] })).after honly (by decide)
  refine ⟨_, { e with resends := e.resends ++ [i] }, hexec, ?_, ?_, rfl, rfl, rfl, hsent, hothers, hparts⟩ <;> rw [hcore]
  · rfl
  · exact queueOf_putEntry_append hq _

/-! ## O21, host windows (10 R245) -/

/-- An entry whose packet i the host has not answered. -/
def unansweredEntry (e : CraneEntry) (i : Nat) : CraneEntry := { answered e i with status := firstBad e.status 6 }

/-- The oldest open packet of a host window's read is answered with UNREACHABLE, and HOSTWIN_FAIL is raised. -/
theorem exec_hostwinFail_fails {s : State} {c : Nat} {q : BitVec 3} {e : CraneEntry} {l r : List CraneEntry} (hc : c < coreCount)
    (hq : queueOf (s.core c) q.toNat = l ++ e :: r) {i : Nat} {is : List Nat} (hl : ∀ x ∈ l, readsHost x = false)
    (ho : e.open_ = i :: is) (hp : e.push = false) (htgt : dTgt e.desc = 2) (hop : dOp e.desc = 2) :
    ∃ t e', exec (.hostwinFail c q) s = .next t ∧ queueOf (t.core c) q.toNat = l ++ e' :: r ∧
      e'.open_ = without i e.open_ ∧ (e.status = 0 → e'.status = 6) ∧ causeSet t 49 0 3 ∧ (t.core c).tierS = (s.core c).tierS ∧
      CoreOnly c s t ∧ OnlyIn [.cores, .regs, .log] s t := by
  have hreads : readsHost e = true := by simp [readsHost, hp, htgt, hop, ho]
  have hexec : exec (.hostwinFail c q) s = .next (raisePcie (s.setCore c (putEntry (s.core c) q.toNat l.length (unansweredEntry e i))) 3
      { unit := c, vid := (s.core c).misc.vid }) := by
    refine (onUnit_core hc _).trans ?_
    rw [hq, entryWhere_append hl hreads]
    dsimp only
    rw [ho]
    rfl
  obtain ⟨hcore, hothers, hparts⟩ := (setCore_became s c (putEntry (s.core c) q.toNat l.length (unansweredEntry e i))).after
    (raisePcie_only _ 3 { unit := c, vid := (s.core c).misc.vid }) (by decide)
  refine ⟨_, unansweredEntry e i, hexec, ?_, rfl, fun h => ?_, raise_sets _ _ _ _ _ (by decide), ?_, hothers, hparts⟩
  · rw [hcore]; exact queueOf_putEntry_append hq _
  · rw [unansweredEntry, h]; rfl
  · rw [hcore]; rfl

/-- Settles O21: completion with and without a bad status, the landed response, the two answers to a NAK, and the failed host read. -/
theorem transfersAreAnswered : Obligations.TransfersAreAnswered := by
  refine ⟨fun s c q e l r hc hq hl he h7 hp ha => ?_, fun s c q e l r hc hq => ⟨?_, ?_, ?_, ?_⟩⟩
  · have hend := endingOf_append (r := r) hl he h7
    exact ⟨exec_transferComplete_of_ok hc hq hend hp ha, exec_transferComplete_of_bad hc hq hend ha⟩
  · exact fun p rest i => exec_readResponseLanding_lands hc hq
  · exact fun p rest i => exec_nakReceived_gives_up hc hq
  · exact fun p rest i x => exec_nakReceived_sends_again hc hq
  · exact fun i is => exec_hostwinFail_fails hc hq

end Sys2Proof.Machine
